-- ==== Sys2Proof/Word.lean ====
section
/-!
DEFINITION. The plainest words of the model: the widths the manual names, and finite tables.
Bit vectors stand only for what the manual treats as bits (R6); counts, indices and coordinates are `Nat`.
-/
namespace Sys2Proof

/-- One byte (R6). -/
abbrev Byte := BitVec 8

/-- A 48-bit device address, DA (R3). -/
abbrev Da := BitVec 48

/-- One 64-byte line of data; byte b is bits [8b+7:8b] (R6, R213). -/
abbrev Line := BitVec 512

/-- A 128-bit engine command (R72, R119, R154, R183). -/
abbrev EngCmd := BitVec 128

/-- A sparse table: key and value pairs, keys strictly rising, no entry equal to the default that an
unlisted key stands for. Plain data, so that equal tables are equal lists. -/
abbrev Tab (α : Type) := List (Nat × α)

end Sys2Proof
end

