-- ==== Sys2Proof/Syntax.lean ====
section
/-!
DEFINITION. The commands and events of spec/opcode_table.json, one constructor per row, with the operands each
carries. A row of the sequencer, an engine or a bank unit names only WHERE it happens: the word it executes is
the one that stands at that place in the state (the program counter's word, the head of a queue, the store entry
at PC). A row that brings something in from outside the device (a packet, a flit, a sensor sample, the outcome of
an analogue test) carries it as its operand.
-/
namespace Sys2Proof

/-- Where a command packet came from (R308, R315). -/
inductive Src where
  | hp0 | hp1 | partner
  deriving DecidableEq, Repr

/-- Who accesses a control or status register (R12, R296, R445): a host port, Buaman, or JTAG's DBGACC. -/
inductive Requester where
  | port (x : Nat) | buaman | jtag
  deriving DecidableEq, Repr

/-- The three supply levels, VIN in 10 mV and VAUX and VIO in mV, as PM_SUPPLY shows them (R397, R419). -/
structure Supplies where
  vin : Nat
  vaux : Nat
  vio : Nat
  deriving DecidableEq, Repr

/-- What the board shows at reset release: the straps as SEC_STRAPS lays them out (R420, R446), the level of
FREEZE_N (R453) and of the two PERST_N balls (R454). -/
structure ResetEnv where
  straps : BitVec 11
  freezeHeld : Bool
  perst0 : Bool
  perst1 : Bool
  deriving DecidableEq, Repr

/-- What the start-up jobs found in one physical bank of a vault (R277, R278): the rows whose march failed, the spare slots
whose retest failed, and the kernels of its group that were stopped at the limit of R268. -/
structure BankResult where
  tile : Nat
  vault : Nat
  layer : Nat
  bank : Nat
  rows : List Nat
  badSpares : List Nat
  stopped : Nat
  deriving DecidableEq, Repr

/-- The outcomes of the start-up tests of steps 5 to 9 of R421, which are measurements of the silicon: cores found
unusable (tile, core within the tile), vaults whose calibration failed (tile, vault), and what the jobs found in banks;
banks that are not listed passed. -/
structure StartResult where
  badCores : List (Nat × Nat)
  badVaults : List (Nat × Nat)
  banks : List BankResult
  deriving DecidableEq, Repr

/-- What a SELFTEST measured (R438): cores failing bit 0 (tile, core within the tile), lines a bit-1 read found
uncorrectable are found by the model itself, links failing bit 2, and whether the hub memories failed (bit 3). -/
structure SelftestResult where
  badCores : List Nat
  badLinks : List Nat
  badHub : Bool
  deriving DecidableEq, Repr

/-- An HDM decoder's settings at its commit (R289): host base, size and DPA base in bytes, interleave ways and
granularity. -/
structure HdmDecoder where
  hpaBase : Nat
  size : Nat
  dpaBase : Nat
  ways : Nat
  gran : Nat
  deriving DecidableEq, Repr

/-- What link training and enumeration of a host port ended with (R280, R281): width, rate code of HP_STATUS,
whether the partner negotiated CXL in 256-byte flit mode, whether it supports back-invalidation, whether
latency-optimised flits are used; the BAR base addresses that the host gave; and the host physical ranges (base, length)
that are other devices' BARs or HDM ranges below a common switch whose access controls permit direct routing, and whose
owners support UIO (R295). -/
structure HostLinkEnv where
  width : Nat
  rate : Nat
  cxlFlit : Bool
  backInv : Bool
  lowLat : Bool
  bars : List (BitVec 64)
  peers : List (Nat × Nat)
  deriving DecidableEq, Repr

/-- An inbound UIO request of a peer (R295): a read or a masked write of one line of an HDM range, by its host physical
address. -/
inductive UioAccess where
  | read (hpa : BitVec 52)
  | write (hpa : BitVec 52) (mask : BitVec 64) (data : Line)
  deriving DecidableEq, Repr

/-- A host access to a BAR (R296): which BAR, offset in it, size in bytes up to 64, and for a write the value. -/
structure BarAccess where
  bar : Nat
  off : Nat
  size : Nat
  wr : Bool
  value : BitVec 512
  deriving DecidableEq, Repr

/-- What the decoder of a link's code words found with a flit and not with one before (R323, R349): corrected symbols, and code
words that were uncorrectable. -/
structure FecCounts where
  corr : Nat
  uncorr : Nat
  deriving DecidableEq, Repr

/-- What the training of a device link showed (R327): the far end's ID, PAIR_ID and MIRROR_ROLE, and the lanes that
failed the training pattern in each direction. -/
structure TrainResult where
  peerId : BitVec 12
  pairId : BitVec 4
  role : Bool
  txBad : List Nat
  rxBad : List Nat
  deriving DecidableEq, Repr

/-- The measurements of one thermal model step (R402, R404): every sensor's reading in 1/16 °C, `none` where no conversion
completed. -/
structure ThermalObs where
  readings : List (Option Int)
  deriving DecidableEq, Repr

/-- A PLDM request (R462): base type commands by code, GetPDR by record handle, a sensor reading by sensor ID. -/
inductive PldmReq where
  | base (cmd : BitVec 8)
  | getPdr (handle : Nat)
  | getSensor (id : Nat)
  deriving DecidableEq, Repr

/-- One row of spec/opcode_table.json each, in the table's order. -/
inductive Instr where
  /-- SUPPLY_VALID (R398): All three supplies become valid, the regulators start in fixed order and reset is released within 20 ms. -/
  | supplyValid (sup : Supplies)
  /-- SUPPLY_INVALID (R398): A supply falls below its invalid threshold, every regulator output switches off and the device enters OFF, losing all contents. -/
  | supplyInvalid (sup : Supplies)
  /-- RESET_RELEASE (R421): Reset is released, straps are latched and the boot ROM begins a normal start or enters GREY when BOOT_SRC is 1. -/
  | resetRelease (env : ResetEnv)
  /-- BOOT_SUCCESS (R421): The start completes its stages, is marked succeeded, and the device enters READY or DEGRADED and takes command slots. -/
  | bootSuccess (res : StartResult)
  /-- BOOT_FAIL (R429): A start fails, the failure count rises, and the device resets itself or enters GREY on the third failure, FLASH or STRAP. -/
  | bootFail (why : Nat)
  /-- BOOT_WATCHDOG (R428): A control core makes no progress for 2 s during a start, which fails with reason WATCHDOG. -/
  | bootWatchdog
  /-- BOOT_TIMEOUT (R421): A start has not succeeded 10 s after reset release and fails with reason TIMEOUT. -/
  | bootTimeout
  /-- FUSE_ADVANCE (R427): After a successful start Buaman blows SVN fuses up to MINSVN and revocation fuses named by REVOKE. -/
  | fuseAdvance
  /-- FUSE_SHADOW_CHECK (R440): Every 1 s each fuse shadow register is compared with the fuse array and reloaded if it differs. -/
  | fuseShadowCheck (differ : Nat)
  /-- HP_CMDDB_WRITE (R302): A doorbell write sets the command ring tail and makes the slots from HEAD candidates, or counts BADDB. -/
  | hpCmddbWrite (x via : Nat) (value : BitVec 32)
  /-- COMMAND_SLOT_CONSUME (R308): Buaman reads a candidate slot, checks SEQ and CRC, applies the ordered checks and carries out or refuses the command. -/
  | commandSlotConsume (x : Nat) (slot : BitVec 512)
  /-- COMMAND_SLOT_REREAD (R307): A failed candidate slot is re-read at most 250 ns after the previous read returns. -/
  | commandSlotReread (x : Nat) (slot : BitVec 512)
  /-- DOORBELL_EARLY (R307): A candidate slot has failed its checks for 2 µs, so DOORBELL_EARLY is posted and the ring stops at that slot. -/
  | doorbellEarly (x : Nat) (slot : BitVec 512)
  /-- HP_RINGCFG_ENABLE (R297): Enabling a ring sets head and tail to 0 and resets expected sequence or lap bytes. -/
  | hpRingcfgEnable (x r : Nat) (value : BitVec 32)
  /-- NOP (R313): The NOP command posts OK and does nothing. -/
  | nop (src : Src) (pkt : BitVec 512)
  /-- IDENTIFY (R317): IDENTIFY writes the identity block if asked and returns device ID, usable tiles, cores, lost vaults and firmware version. -/
  | identify (src : Src) (pkt : BitVec 512)
  /-- READ_STATE (R313): READ_STATE returns the device state, owner port, generation, step number and newest fault sequence number. -/
  | readState (src : Src) (pkt : BitVec 512)
  /-- BOOK (R367): BOOK is accepted and starts reading, checking and admitting a plan, posting ACCEPTED. -/
  | book (src : Src) (pkt : BitVec 512)
  /-- BOOK_COMPLETE (R367): Booking finishes: the plan is admitted into BOOKED with pacers loaded and scratch bits cleared, or refused with every step undone. -/
  | bookComplete
  /-- UNBOOK (R370): UNBOOK empties pacers, releases locked translations and fences and returns the device to READY or DEGRADED. -/
  | unbook (src : Src) (pkt : BitVec 512)
  /-- DEFERRED_COMMAND_START (R313): A deferred SELFTEST or CALIBRATE starts once the UNBOOK status has been posted. -/
  | deferredCommandStart
  /-- START (R369): START rewrites ZSTART regions, relocks translations, releases every core to its first leg and enters RUNNING. -/
  | startCmd (src : Src) (pkt : BitVec 512)
  /-- HALT (R24): HALT stops a running step into HALTED, stops a BANK_RUN job, or has no effect in other states. -/
  | halt (src : Src) (pkt : BitVec 512)
  /-- DISCARD (R247): DISCARD recalls host copies, clears granule bits inside the range and zeroes partial granules, posting ACCEPTED. -/
  | discard (src : Src) (pkt : BitVec 512)
  /-- DISCARD_COMPLETE (R247): A DISCARD finishes clearing its range and posts its final status. -/
  | discardComplete
  /-- FILL (R318): FILL begins writing its 32-bit pattern to every aligned word of a stacked-memory range. -/
  | fill (src : Src) (pkt : BitVec 512)
  /-- FILL_COMPLETE (R318): A FILL finishes and posts its final status. -/
  | fillComplete
  /-- COPY (R318): COPY begins copying a range on the hub at up to 64 GB/s. -/
  | copyCmd (src : Src) (pkt : BitVec 512)
  /-- COPY_COMPLETE (R318): A COPY finishes and posts its final status with the count of lines poisoned. -/
  | copyComplete
  /-- ENCODE (R275): ENCODE begins re-encoding raw lines of a range in rows whose raw-row bit is set. -/
  | encode (src : Src) (pkt : BitVec 512)
  /-- ENCODE_COMPLETE (R275): An ENCODE finishes and posts counts of lines re-encoded and written poisoned. -/
  | encodeComplete
  /-- BANK_ENTER (R272): BANK_ENTER holds host requests, recalls host copies, fences the range and zero-fills invalid granules. -/
  | bankEnter (src : Src) (pkt : BitVec 512)
  /-- BANK_ENTER_COMPLETE (R272): BANK_ENTER records the range in BU_RANGEn, enters BANK and posts its final status. -/
  | bankEnterComplete
  /-- BANK_EXIT (R274): BANK_EXIT removes the fence of one range and returns to READY or DEGRADED when the last range leaves. -/
  | bankExit (src : Src) (pkt : BitVec 512)
  /-- BANK_RUN (R269): BANK_RUN loads a program into the bank units of one range in bank mode and starts its kernels. -/
  | bankRun (src : Src) (pkt : BitVec 512)
  /-- BANK_RUN_COMPLETE (R270): A bank job's last kernel ends, the result table is written and the final status posted. -/
  | bankRunComplete
  /-- MIRROR_SET (R339): MIRROR_SET enables or disables the mirrored pair with a partner and link mask. -/
  | mirrorSet (src : Src) (pkt : BitVec 512)
  /-- MIRROR_STATUS (R313): MIRROR_STATUS returns the pair state, partner, last committed step and generation. -/
  | mirrorStatus (src : Src) (pkt : BitVec 512)
  /-- TAKEOVER (R346): TAKEOVER freezes the held copy of a failed partner and sets the pair state to HELD. -/
  | takeover (src : Src) (pkt : BitVec 512)
  /-- TAKEOVER_COMPLETE (R346): TAKEOVER posts its final status with the held step. -/
  | takeoverComplete
  /-- RESTORE_TO (R348): RESTORE_TO begins sending the held copy to a prepared device with MIRMAP, RESTORE_WRITE and COMMIT. -/
  | restoreTo (src : Src) (pkt : BitVec 512)
  /-- RESTORE_TO_COMPLETE (R348): RESTORE_TO posts its final status with the MiB restored once its commit is acknowledged. -/
  | restoreToComplete
  /-- SELFTEST (R438): SELFTEST runs the core, memory, link and hub tests that its mask selects, or is deferred. -/
  | selftest (src : Src) (pkt : BitVec 512)
  /-- SELFTEST_COMPLETE (R438): SELFTEST posts its final status with the mask of failing tests. -/
  | selftestComplete (res : SelftestResult)
  /-- CALIBRATE (R439): CALIBRATE runs full DRAM interface calibration on the named tiles, one vault at a time per tile, or is deferred. -/
  | calibrate (src : Src) (pkt : BitVec 512)
  /-- CALIBRATE_COMPLETE (R439): CALIBRATE posts its final status with the mask of tiles calibrated. -/
  | calibrateComplete (failed : List (Nat × Nat))
  /-- POWER_LIMIT (R417): POWER_LIMIT sets the package power limit and may pass ownership to the other port. -/
  | powerLimit (src : Src) (pkt : BitVec 512)
  /-- THERMAL_CFG (R418): THERMAL_CFG sets TARGET, RISE, COOL and RPLATE for the thermal model and loops. -/
  | thermalCfg (src : Src) (pkt : BitVec 512)
  /-- FAULT_READ (R319): FAULT_READ writes held fault records from a sequence number into a buffer. -/
  | faultRead (src : Src) (pkt : BitVec 512)
  /-- FAULT_CLEAR (R319): FAULT_CLEAR marks cleared every held record at or before a sequence number. -/
  | faultClear (src : Src) (pkt : BitVec 512)
  /-- FW_STAGE (R432): FW_STAGE begins reading, verifying and writing a firmware image into the slot that is not active. -/
  | fwStage (src : Src) (pkt : BitVec 512)
  /-- FW_STAGE_COMPLETE (R432): FW_STAGE finishes its write and read-back verification and posts its final status. -/
  | fwStageComplete
  /-- FW_ACTIVATE (R433): FW_ACTIVATE makes the staged slot active, posts OK and then resets the device. -/
  | fwActivate (src : Src) (pkt : BitVec 512)
  /-- FREEZE (R441): FREEZE posts OK and then freezes every island for postcard capture. -/
  | freeze (src : Src) (pkt : BitVec 512)
  /-- RESET_DEVICE (R434): RESET_DEVICE posts OK and then resets every island within 1 ms. -/
  | resetDevice (src : Src) (pkt : BitVec 512)
  /-- REGISTER_WRITE (R8): A write to a register without a row of its own sets fields as their access types and lock rules permit. -/
  | registerWrite (req : Requester) (da : Da) (size : Nat) (value : BitVec 64)
  /-- RC_FIELD_READ (R8): A read of a register with RC fields returns their value and clears them in one action. -/
  | rcFieldRead (req : Requester) (da : Da) (size : Nat)
  /-- COUNTER_LOW_HALF_READ (R12): A read of the low half of a 64-bit counter latches the high half for the same requester. -/
  | counterLowHalfRead (req : Requester) (da : Da) (size : Nat)
  /-- VC_MAPCTL_COMMIT (R218): Writing COMMIT checks the staged windows and applies them, or refuses and reports ERR and BADWIN. -/
  | vcMapctlCommit (req : Requester) (value : BitVec 32)
  /-- MAP_COMMIT_DONE (R219): Every fabric stop holds the new windows, BUSY clears and held host requests resume. -/
  | mapCommitDone
  /-- MP_MODE_CLOTU_WRITE (R251): Changing Clotu mode clears every granule bit of the tile. -/
  | mpModeClotuWrite (req : Requester) (t : Nat) (value : BitVec 32)
  /-- MIR_STORE_WRITE (R340): A change of the mirror store range discards the held copy and posts MIRROR_LOST STORE_DISCARDED. -/
  | mirStoreWrite (req : Requester) (value : BitVec 64)
  /-- HDM_DECODER_COMMIT (R289): Committing a host-port HDM decoder is accepted or reports Error Not Committed. -/
  | hdmDecoderCommit (x d : Nat) (dec : HdmDecoder)
  /-- LEG_START (R164): A sequencer begins a leg, setting its starting state and issuing any preload. -/
  | legStart (c : Nat)
  /-- PRELOAD_COMPLETE (R164): The leg's preload copy completes and decoding begins at CODE. -/
  | preloadComplete (c : Nat)
  /-- FETCH_LINE_RETURN (R472): A code line read returns into the fetch buffer and stalled decoding resumes. -/
  | fetchLineReturn (c : Nat)
  /-- SNOP (R169): The sequencer instruction SNOP does nothing. -/
  | snop (c : Nat)
  /-- ENG (R169): ENG dispatches the next commands to one engine with optional register offsets, holding those whose queue is full. -/
  | eng (c : Nat)
  /-- SETI (R169): SETI loads an immediate into a sequencer register. -/
  | seti (c : Nat)
  /-- ADDI (R169): ADDI adds an immediate to a sequencer register. -/
  | addi (c : Nat)
  /-- MADI (R169): MADI multiplies a register by an unsigned immediate and adds another register. -/
  | madi (c : Nat)
  /-- ANDI (R169): ANDI ands a register with an immediate. -/
  | andi (c : Nat)
  /-- LDW (R169): LDW issues a read of a 32-bit word into a sequencer register. -/
  | ldw (c : Nat)
  /-- LDW_RETURN (R175): An LDW's word arrives, the register is written and speculation on it is resolved. -/
  | ldwReturn (c : Nat)
  /-- SEMS (R177): SEMS adds or subtracts an amount on a semaphore with saturation. -/
  | sems (c : Nat)
  /-- SEMW (R178): SEMW stops decoding on a consuming or observing wait on a semaphore. -/
  | semw (c : Nat)
  /-- WAITF (R181): WAITF stops decoding and reads a word until it compares with a register. -/
  | waitf (c : Nat)
  /-- WAITF_READ_RETURN (R181): A WAITF read returns and either releases decoding or schedules another read. -/
  | waitfReadReturn (c : Nat)
  /-- WAITF_REREAD (R181): A WAITF issues its next read no later than 64 core cycles after the last read returned. -/
  | waitfReread (c : Nat)
  /-- LOOP (R173): LOOP pushes a loop level with a count from a register and MAXN, or acts as SNOP beyond four levels. -/
  | loopSeq (c : Nat)
  /-- BRNZ (R174): BRNZ jumps forward when a register is nonzero, possibly ending the leg or popping loops. -/
  | brnz (c : Nat)
  /-- FENCE (R169): FENCE stops decoding until every earlier command of the named engines has completed. -/
  | fence (c : Nat)
  /-- END (R164): END stops decoding for the leg. -/
  | endLeg (c : Nat)
  /-- RESERVED_SEQ_OPCODE (R169): A reserved sequencer opcode executes as SNOP and increments BADOP. -/
  | reservedSeqOpcode (c : Nat)
  /-- LEG_DRAIN_COMPLETE (R164): Every command of the leg has completed, so the completion flag is handed to the leg ledger and sent. -/
  | legDrainComplete (c : Nat)
  /-- COMPLETION_FLAG_ACK (R164): The completion flag is acknowledged and the next leg begins, or the core finishes its part of the step. -/
  | completionFlagAck (c : Nat)
  /-- SEM_SETTLE (R179): Each core cycle visible signals are applied to a semaphore and observing then consuming waits are released in fixed order. -/
  | semSettle (c n : Nat)
  /-- MX_NOP (R79): MX_NOP performs only its synchronisation fields. -/
  | mxNop (c : Nat)
  /-- MX_MMA (R75): MX_MMA begins reading operand groups and accumulating A times B into a bank. -/
  | mxMma (c : Nat)
  /-- MX_MMA_COMPLETE (R80): An MMA's last accumulator update is applied and it completes or starts its drain. -/
  | mxMmaComplete (c : Nat)
  /-- MX_SETL (R76): MX_SETL writes one operand layout entry. -/
  | mxSetl (c : Nat)
  /-- MX_LOADACC (R77): MX_LOADACC loads a whole accumulator bank from scratch and clears its flag set. -/
  | mxLoadacc (c : Nat)
  /-- MX_DRAIN (R78): MX_DRAIN copies a bank to the basket or to scratch without changing it. -/
  | mxDrain (c : Nat)
  /-- DRAIN_SLOT_PLACE (R81): A drain reads a quadrant and places one slot in the basket, completing with slot 3. -/
  | drainSlotPlace (c bank : Nat)
  /-- RESERVED_MX_OPCODE (R74): A reserved matrix opcode executes as MX_NOP and increments BADOP. -/
  | reservedMxOpcode (c : Nat)
  /-- VX_NOP (R120): VX_NOP performs only its synchronisation fields. -/
  | vxNop (c : Nat)
  /-- VX_OP (R93): VX_OP applies one element function to whole tile registers or masks. -/
  | vxOp (c : Nat)
  /-- VX_RED (R95): VX_RED reduces a tile register by row, column or whole. -/
  | vxRed (c : Nat)
  /-- VX_SMAX_RESET (R104): VX_SMAX RESET sets every row of a row-state set to its reset value. -/
  | vxSmaxReset (c : Nat)
  /-- VX_SMAX_ACCUM (R102): VX_SMAX ACCUM updates each row's running maximum and sum from a tile register. -/
  | vxSmaxAccum (c : Nat)
  /-- VX_SMAX_NORM (R103): VX_SMAX NORM writes normalised soft-maximum outputs from a tile register and row states. -/
  | vxSmaxNorm (c : Nat)
  /-- VX_SMAX_READ (R104): VX_SMAX READ writes each row's M and S into a tile register. -/
  | vxSmaxRead (c : Nat)
  /-- VX_TAKE (R92): VX_TAKE waits for a basket slot and copies the oldest into a tile register, writing the extent mask. -/
  | vxTake (c : Nat)
  /-- BASKET_SLOT_RELEASE (R92): A basket slot is released, letting a waiting drain place its next slot. -/
  | basketSlotRelease (c : Nat)
  /-- VX_LD (R107): VX_LD loads and converts a tile register from scratch. -/
  | vxLd (c : Nat)
  /-- VX_ST (R108): VX_ST converts and stores a tile register to scratch. -/
  | vxSt (c : Nat)
  /-- VX_SETS (R120): VX_SETS writes an immediate to a scalar register. -/
  | vxSets (c : Nat)
  /-- VX_TCFG (R111): VX_TCFG writes one trail stage entry. -/
  | vxTcfg (c : Nat)
  /-- VX_TRUN (R113): VX_TRUN starts a trail run of tiles through the configured chain. -/
  | vxTrun (c : Nat)
  /-- TRAIL_RUN_COMPLETE (R118): A trail run's last pass result is written and the run completes. -/
  | trailRunComplete (c : Nat)
  /-- RESERVED_VX_OPCODE (R120): A reserved vector opcode executes as VX_NOP and increments BADOP. -/
  | reservedVxOpcode (c : Nat)
  /-- ST_NOP (R157): ST_NOP performs only its synchronisation fields. -/
  | stNop (c ch : Nat)
  /-- ST_COPY (R155): ST_COPY reads its descriptors, checks alignment and begins a copy, possibly a run-ahead load. -/
  | stCopy (c ch : Nat)
  /-- ST_GATHER (R145): ST_GATHER copies blocks named by a list from the source into the destination. -/
  | stGather (c ch : Nat)
  /-- ST_SCATTER (R146): ST_SCATTER copies blocks of the source to destination blocks named by a list. -/
  | stScatter (c ch : Nat)
  /-- ST_FLAG (R149): ST_FLAG writes or adds a flag word once earlier data writes in its direction are acknowledged. -/
  | stFlag (c ch : Nat)
  /-- RESERVED_ST_OPCODE (R154): A reserved stream opcode executes as ST_NOP and increments BADOP. -/
  | reservedStOpcode (c ch : Nat)
  /-- ST_READ_RETURN (R158): Data for a stream-channel read arrives and is written towards its destination. -/
  | stReadReturn (c ch : Nat)
  /-- ST_WRITE_ACK (R151): A write acknowledgement arrives at a channel, possibly completing a copy or releasing a flag. -/
  | stWriteAck (c ch : Nat)
  /-- CK_NOP (R183): CK_NOP performs only its synchronisation fields. -/
  | ckNop (c : Nat)
  /-- CK_INIT (R183): CK_INIT sets the check algorithm and initial value and optionally folds the address and step. -/
  | ckInit (c : Nat)
  /-- CK_FEED (R183): CK_FEED feeds scratch elements into the running check. -/
  | ckFeed (c : Nat)
  /-- CK_PUT (R183): CK_PUT feeds an immediate value into the running check. -/
  | ckPut (c : Nat)
  /-- CK_STORE (R184): CK_STORE feeds the alive counter, finalises and stores the check and reinitialises or keeps it. -/
  | ckStore (c : Nat)
  /-- RESERVED_CK_OPCODE (R183): A reserved check opcode acts as CK_NOP and increments BADOP. -/
  | reservedCkOpcode (c : Nat)
  /-- CROSSING_ITEM_TAKE (R191): A destination takes an item from a handshaked FIFO crossing, freeing an entry. -/
  | crossingItemTake (w n : Nat)
  /-- HALF_RESET_ASSERT (R192): One side of a crossing asserts half-reset, stopping traffic and dropping items in flight with error answers. -/
  | halfResetAssert (w n : Nat)
  /-- HALF_RESET_RELEASE (R192): The reset side releases half-reset and the resume handshake restarts traffic. -/
  | halfResetRelease (w n : Nat)
  /-- VAULT_REQUEST_ACCEPT (R222): A request enters a vault controller queue, acknowledging writes and consulting the granule bit. -/
  | vaultRequestAccept (t v : Nat)
  /-- VAULT_SERVE (R223): The vault controller chooses a request allowed by timing and performs its activate and column transfer. -/
  | vaultServe (t v k : Nat)
  /-- ACC_WRITE_COMBINE (R233): The read of an accumulating or narrow write returns and the combined line is re-encoded and written back. -/
  | accWriteCombine (t v : Nat)
  /-- GRANULE_FILL_DONE (R245): Every vault finishes zero-filling a granule, the valid bit is set and waiting requests run. -/
  | granuleFillDone (t g : Nat)
  /-- ROW_IDLE_CLOSE (R224): An open row is precharged after 32 idle vault cycles or 8 µs after its activate. -/
  | rowIdleClose (t v b : Nat)
  /-- REFRESH_DUE (R227): A bank stack's refresh falls due every tREFI and is issued or postponed. -/
  | refreshDue (t v b : Nat)
  /-- REFRESH_FORCED (R228): With four refreshes owed, a refresh falls due at once and pre-empts requests, slots and kernels. -/
  | refreshForced (t v b : Nat)
  /-- REFRESH_DONE (R227): A refresh of a bank stack completes, clearing the activate table at the end of each round. -/
  | refreshDone (t v b : Nat)
  /-- NEIGHBOUR_REFRESH (R230): An activate count reaches THRESH and the adjacent rows are refreshed before the next activate. -/
  | neighbourRefresh (t v b : Nat)
  /-- CALIBRATION_SLOT_START (R232): A vault's periodic calibration slot begins and it serves no requests for 1 µs. -/
  | calibrationSlotStart (t v : Nat)
  /-- CALIBRATION_SLOT_END (R232): A calibration slot ends and postponed refreshes and held requests proceed. -/
  | calibrationSlotEnd (t v : Nat)
  /-- BAND_NOTICE (R226): A band change reaches a vault controller and its timing and refresh change. -/
  | bandNotice (t v : Nat)
  /-- SCRUB_TICK (R252): The scrubber reads its next line, writing back corrections or poison. -/
  | scrubTick (t v : Nat)
  /-- LAYER_ERASE_MARK (R241): A vault's layer events reach THRESH within 1 ms, the layer is marked erased and LAYER_ERASED posted. -/
  | layerEraseMark (t v layer : Nat)
  /-- VAULT_LOST_DECLARE (R242): A vault with an erased layer or in Clotu mode reports 64 uncorrectable lines in 1 ms and is declared lost. -/
  | vaultLostDeclare (t v : Nat)
  /-- VAULT_CONTROLLER_FAIL (R387): A vault controller fails an array check or misses the fabric heartbeat and the vault is lost. -/
  | vaultControllerFail (t v : Nat)
  /-- BU_IDLE (R266): The IDLE bank-bus frame does nothing. -/
  | buIdle (t v : Nat) (hdr : BitVec 16)
  /-- BU_LOAD (R266): The LOAD frame writes one instruction store entry of ready units. -/
  | buLoad (t v : Nat) (hdr w1 w2 w3 : BitVec 16)
  /-- BU_START (R266): The START frame selects a bank, sets registers, clears status and runs the units' program. -/
  | buStart (t v : Nat) (hdr w1 w2 : BitVec 16)
  /-- BU_POLL (R267): The POLL frame returns the units' status words. -/
  | buPoll (t v : Nat) (hdr : BitVec 16)
  /-- BU_RDREG (R266): The RDREG frame returns a unit register, ORed over addressed units. -/
  | buRdreg (t v : Nat) (hdr : BitVec 16)
  /-- BU_RDACC (R266): The RDACC frame returns an accumulator, ORed over addressed units. -/
  | buRdacc (t v : Nat) (hdr : BitVec 16)
  /-- BU_WRREG (R266): The WRREG frame writes a register or clears an accumulator. -/
  | buWrreg (t v : Nat) (hdr w1 : BitVec 16)
  /-- BU_HOLD (R266): The HOLD frame stops units at the next instruction boundary, keeping their state. -/
  | buHold (t v : Nat) (hdr : BitVec 16)
  /-- BU_RESUME (R266): The RESUME frame continues held units from the held PC. -/
  | buResume (t v : Nat) (hdr : BitVec 16)
  /-- BU_RESET (R266): The RESET frame restores units' reset state except the store and repair latches. -/
  | buReset (t v : Nat) (hdr : BitVec 16)
  /-- BU_SPARE (R278): The SPARE frame sets a repair latch in BOOT. -/
  | buSpare (t v : Nat) (hdr w1 w2 : BitVec 16)
  /-- BU_RESERVED_FRAME (R266): A reserved or unpermitted frame has no effect and increments BADCMD. -/
  | buReservedFrame (t v : Nat) (hdr : BitVec 16)
  /-- BU_NOP (R264): Bank-unit instruction NOP does nothing. -/
  | buNop (t v layer k : Nat)
  /-- BU_LDI (R264): Bank-unit LDI loads an immediate. -/
  | buLdi (t v layer k : Nat)
  /-- BU_ADD (R264): Bank-unit ADD adds two registers. -/
  | buAdd (t v layer k : Nat)
  /-- BU_ADDI (R264): Bank-unit ADDI adds an immediate. -/
  | buAddi (t v layer k : Nat)
  /-- BU_AND (R264): Bank-unit AND ands two registers. -/
  | buAnd (t v layer k : Nat)
  /-- BU_XOR (R264): Bank-unit XOR xors two registers. -/
  | buXor (t v layer k : Nat)
  /-- BU_LD (R262): Bank-unit LD loads a symbol of a reachable column of the open row. -/
  | buLd (t v layer k : Nat)
  /-- BU_ST (R263): Bank-unit ST stores one symbol, making the line raw outside BOOT, or is discarded. -/
  | buSt (t v layer k : Nat)
  /-- BU_STC (R263): Bank-unit STC stores all four symbols of a column, making the line raw outside BOOT, or is discarded. -/
  | buStc (t v layer k : Nat)
  /-- BU_MAC (R264): Bank-unit MAC accumulates a product into A0 or A1 modulo 2^40. -/
  | buMac (t v layer k : Nat)
  /-- BU_CLR (R264): Bank-unit CLR clears an accumulator. -/
  | buClr (t v layer k : Nat)
  /-- BU_BLT (R264): Bank-unit BLT branches when one register is below another. -/
  | buBlt (t v layer k : Nat)
  /-- BU_BNE (R264): Bank-unit BNE branches when two registers differ. -/
  | buBne (t v layer k : Nat)
  /-- BU_CHK (R264): Bank-unit CHK sets FAIL and FCOL when a column differs from a register. -/
  | buChk (t v layer k : Nat)
  /-- BU_HALT (R264): Bank-unit HALT stops the unit and sets READY. -/
  | buHalt (t v layer k : Nat)
  /-- BU_RESERVED_OPCODE (R264): A reserved bank-unit opcode acts as HALT and sets BADOP. -/
  | buReservedOpcode (t v layer k : Nat)
  /-- GROUP_READY_RISE (R268): A pair group's READY line rises and the controller polls, reads results and starts the next kernel. -/
  | groupReadyRise (t v k : Nat)
  /-- KERNEL_LIMIT (R268): A kernel still running 1,048,576 bank cycles after START is stopped with RESET and KSTOP counted. -/
  | kernelLimit (t v k : Nat)
  /-- HOST_LINK_UP (R281): A host port finishes training and enumeration and enables CXL protocols per negotiation. -/
  | hostLinkUp (x : Nat) (lnk : HostLinkEnv)
  /-- HOST_LINK_RECOVERY_DONE (R298): A host link recovery completes within 32 µs, replaying flits without loss. -/
  | hostLinkRecoveryDone (x : Nat)
  /-- LINK_LOSS_RESET (R299): A link-loss event resets the port's host-facing state, ends pending writes with error acknowledgements and halts a step. -/
  | linkLossReset (x : Nat)
  /-- HOST_LINK_DOWN (R298): The host link leaves L0 other than into recovery. -/
  | hostLinkDown (x : Nat)
  /-- HOT_RESET (R298): A hot reset is received on a host port. -/
  | hotReset (x : Nat)
  /-- FLR (R298): A function level reset is received on a host port. -/
  | flr (x : Nat)
  /-- D3HOT (R298): The function enters D3hot. -/
  | d3hot (x : Nat)
  /-- RECOVERY_LONG (R298): A host link recovery passes 32 µs. -/
  | recoveryLong (x : Nat)
  /-- RECOVERY_REPEAT (R298): A second host link recovery begins within 2 ms of the last. -/
  | recoveryRepeat (x : Nat)
  /-- BME_CLEARED (R298): Bus Master Enable is cleared, posting HOST_LINK_LOST without a port reset. -/
  | bmeCleared (x : Nat)
  /-- DOWNTRAINED (R374): A recovery ends at a lower width or rate than at BOOK, posting HOST_LINK_LOST and halting a step. -/
  | downtrained (x width rate : Nat)
  /-- HOST_SLOW (R374): A host-direction request is not completed within HOSTLAT while a plan is booked. -/
  | hostSlow (x : Nat)
  /-- PERST_ASSERT (R454): HPx_PERST_N is asserted, holding the port in reset and causing a LINK_DOWN loss if the link was up. -/
  | perstAssert (x : Nat)
  /-- PERST_RELEASE (R454): HPx_PERST_N is released and the port trains and answers configuration after 100 ms. -/
  | perstRelease (x : Nat)
  /-- HOST_SNOOP (R287): A host snoop arrives and is answered within 250 ns, with data for modified lines. -/
  | hostSnoop (x : Nat) (addr : BitVec 52) (invalidate : Bool)
  /-- ATS_INVALIDATION (R284): A host invalidation request is completed after every request using the translation is complete. -/
  | atsInvalidation (x : Nat) (page : BitVec 45) (log2 : Nat)
  /-- PAGE_REQUEST_RESPONSE (R284): A PRI page response or ATS translation completion arrives at a port. -/
  | pageRequestResponse (x : Nat) (page : BitVec 45) (log2 : Nat) (granted : Bool) (hpa : BitVec 52)
  /-- HOST_GO_RECEIVE (R288): The host's global-observation message for a device write arrives, acknowledging it. -/
  | hostGoReceive (x id : Nat)
  /-- HOST_DATA_RECEIVE (R286): Host data for a device CXL.cache or CXL.io read arrives. -/
  | hostDataReceive (x id : Nat) (data : Line) (poison : Bool)
  /-- HOST_CXLMEM_READ (R290): A CXL.mem read from the host is served as a device read, with poison indicated. -/
  | hostCxlmemRead (x : Nat) (hpa : BitVec 52)
  /-- HOST_CXLMEM_WRITE (R290): A CXL.mem write from the host completes at vault acceptance, or without effect when fenced. -/
  | hostCxlmemWrite (x : Nat) (hpa : BitVec 52) (mask : BitVec 64) (data : Line) (poison : Bool)
  /-- UIO_INBOUND (R295): An inbound UIO request from a peer is served like an uncached host CXL.mem request. -/
  | uioInbound (x : Nat) (acc : UioAccess)
  /-- BAR_ACCESS (R296): A host BAR access is routed to registers, stacked memory or CXL component registers. -/
  | barAccess (x : Nat) (acc : BarAccess)
  /-- BISNP_RESPONSE (R291): A host answers a back-invalidation snoop, returning dirty data that is written first. -/
  | bisnpResponse (x : Nat) (da : Da) (dirty : Bool) (data : Line)
  /-- RECALL_TIMEOUT (R294): A BISnp is not answered within HP_BICFG.BOUND, causing a link-loss reset. -/
  | recallTimeout (x : Nat)
  /-- MSIX_HOLDOFF_EXPIRY (R297): The holdoff interval of a vector ends and a message due inside it is sent. -/
  | msixHoldoffExpiry (x v : Nat)
  /-- DL_TRAINING_DONE (R327): A device link finishes training with 20 working lanes and comes up, possibly pair-verified. -/
  | dlTrainingDone (n : Nat) (tr : TrainResult)
  /-- DL_TRAINING_RETRY (R327): A failed training is attempted again after 100 ms. -/
  | dlTrainingRetry (n : Nat)
  /-- DL_TRAINING_FAILED (R329): A link that was up does not train again within 10 ms and goes down. -/
  | dlTrainingFailed (n : Nat)
  /-- FLIT_RECEIVE (R325): A flit arrives, is checked and accepted or NAKed, and its ACK, NAK and credits are applied. -/
  | flitReceive (n : Nat) (flit : BitVec 2048) (fecOk : Bool) (corr : FecCounts)
  /-- IDLE_FLIT_SEND (R325): With nothing else to send, an idle flit goes out at least every 64 link cycles. -/
  | idleFlitSend (n : Nat)
  /-- LANE_SYMBOL_THRESHOLD (R328): A lane passes 4,096 corrected symbols in 1 ms and is replaced by a spare. -/
  | laneSymbolThreshold (n : Nat) (rx : Bool) (lane : Nat)
  /-- LANE_LOSS_OF_SIGNAL (R328): A lane loses signal and is replaced by a spare, or the link goes down when none is left. -/
  | laneLossOfSignal (n : Nat) (rx : Bool) (lane : Nat)
  /-- LINK_MANAGEMENT_FLIT (R328): A link-management flit agrees the SEQ at which a lane switch occurs. -/
  | linkManagementFlit (n : Nat) (rx : Bool) (lane : Nat) (seq : BitVec 24)
  /-- LANE_SPARED (R328): A lane switch completes and LANE_SPARED is posted. -/
  | laneSpared (n : Nat)
  /-- LOSS_OF_LIGHT (R321): A laser input or received light is lost and the affected links go down within 10 µs. -/
  | lossOfLight (e : Nat) (link : Option Nat)
  /-- ELS_FLT_ASSERT (R456): ELSe_FLT_N asserted for 1 µs is treated as loss of light on all four links of the engine. -/
  | elsFltAssert (e : Nat)
  /-- ELS_FLT_RELEASE (R456): ELSe_FLT_N is released and training is attempted again. -/
  | elsFltRelease (e : Nat)
  /-- MESSAGE_FORWARD (R332): A message for another device is forwarded cut-through, or dropped at 15 hops. -/
  | messageForward (n : Nat)
  /-- WRITE (R337): A plain or accumulating WRITE message is checked against the export table and written, answered with COMPLETION. -/
  | writeMsg (n : Nat)
  /-- WRITE_MASKED (R337): A WRITE_MASKED message writes the masked bytes of a line and is answered with COMPLETION. -/
  | writeMasked (n : Nat)
  /-- READ (R337): A READ message is checked against the export table and answered with READ_RESPONSE. -/
  | readMsg (n : Nat)
  /-- READ_RESPONSE (R337): A READ_RESPONSE delivers read data, poisoned where marked, to its requester. -/
  | readResponse (n : Nat)
  /-- COMPLETION (R337): A COMPLETION acknowledges a peer write, or ends it with an error acknowledgement. -/
  | completionMsg (n : Nat)
  /-- MIRROR_WRITE (R343): A MIRROR_WRITE is written into the non-current copy of its pair at the store. -/
  | mirrorWrite (n : Nat)
  /-- RESTORE_WRITE (R348): A RESTORE_WRITE writes held data into the restored device's own DAs. -/
  | restoreWrite (n : Nat)
  /-- ROLLCALL (R345): A valid roll call from the partner is accepted, forming or restoring the pair. -/
  | rollcall (n : Nat)
  /-- COMMIT (R344): A COMMIT arrives at the store, which waits for every counted mirror message. -/
  | commitMsg (n : Nat)
  /-- STORE_COMMIT_LANDED (R344): Every counted message has landed or been discarded, so CUR flips and COMMIT_ACK OK, SHORT or RESYNC is sent. -/
  | storeCommitLanded
  /-- COMMIT_ACK (R344): A COMMIT_ACK arrives and the source completes, resends or fails its commit, or MIRMAP or restore proceeds. -/
  | commitAck (n : Nat)
  /-- MIRMAP (R341): A MIRMAP arrives and the store accepts or refuses the partner's mirror map. -/
  | mirmap (n : Nat)
  /-- MIRMAP_TIMEOUT (R341): No answer to MIRMAP arrives within 10 ms, so BOOK is refused. -/
  | mirmapTimeout
  /-- TAKEOVER_MSG (R346): A TAKEOVER message from the partner makes the device post MIRROR_LOST TAKEN_OVER and stop mirroring. -/
  | takeoverMsg (n : Nat)
  /-- COMMAND_MSG (R336): A command packet arrives from the partner in a COMMAND message and is checked and carried out. -/
  | commandMsg (n : Nat)
  /-- STATUS_MSG (R336): A status record returns from the partner in a STATUS message. -/
  | statusMsg (n : Nat)
  /-- DL_REQUEST_TIMEOUT (R337): A peer request unanswered within DL_TIMEOUT or PEERLAT is ended, posting PATH_TIMEOUT on the first. -/
  | dlRequestTimeout (id : Nat)
  /-- ROLLCALL_SEND (R345): The device sends a roll call on every up mirror link at most every 50 µs. -/
  | rollcallSend
  /-- PARTNER_SILENCE (R345): 1 ms passes with no valid roll call, so the partner is declared lost and PARTNER_FAILED posted. -/
  | partnerSilence
  /-- MIRROR_COMMIT_BEGIN (R344): Every leg's final completion flag is acknowledged and the source sends its pending granules and COMMIT. -/
  | mirrorCommitBegin
  /-- STEP_COMPLETE (R21): All final completion flags are written and the mirror commit has ended, so the device returns to BOOKED. -/
  | stepComplete
  /-- LEG_TIMER_EXPIRY (R371): A leg timer passes its bound plus 1% and DEADLINE_BREACH is posted for the leg. -/
  | legTimerExpiry (c : Nat)
  /-- WAIT_DEADLINE_EXPIRY (R371): A declared WAITF is still stopped as the step timer passes its deadline plus 1%, posting DEADLINE_BREACH. -/
  | waitDeadlineExpiry (c : Nat)
  /-- CORE_FAILED (R382): A physical core fails an array check, misses its heartbeat or loses supply, starting a remap or a core loss. -/
  | coreFailed (c reason : Nat)
  /-- SPARE_BEGIN_LEG (R383): Once the failed core's requests are resolved the spare begins the repeated leg. -/
  | spareBeginLeg (c : Nat)
  /-- TILE_LOST (R390): A tile misses the hub heartbeat, loses supply or loses every bridge, taking its cores, vaults and links. -/
  | tileLost (t reason : Nat)
  /-- POWER_LOOP_TICK (R409): Every 10 µs the power loop raises or lowers each tile's core clock against its budget. -/
  | powerLoopTick
  /-- CLOCK_CHANGE_APPLY (R409): A new core clock for a tile takes effect within 1 µs. -/
  | clockChangeApply (t : Nat)
  /-- METER_UPDATE (R400): Every 10 µs each energy meter is updated. -/
  | meterUpdate (n uj : Nat)
  /-- THERMAL_MODEL_STEP (R410): A tile's thermal model steps, cross-checks sensors, sets the band and adjusts the throttle step. -/
  | thermalModelStep (t : Nat) (obs : ThermalObs)
  /-- SENSOR_MODEL_RESIDUAL (R404): A tile's median residual exceeds 6 °C for 10 ms and SENSOR_DISAGREE reason MODEL is posted. -/
  | sensorModelResidual (t : Nat)
  /-- VIN_LOW (R415): VIN falls below 40 V, the power loop scales the limit and SUPPLY_LOW is posted. -/
  | vinLow (mv : Nat)
  /-- HARDWARE_TRIP (R416): A logic sensor reads 110 °C and every regulator output switches off within 10 µs. -/
  | hardwareTrip (t sensor : Nat)
  /-- FREEZE_N_ASSERT (R453): FREEZE_N is held asserted for at least 1 µs and the device freezes. -/
  | freezeNAssert (ns : Nat)
  /-- SMBUS_SET_ADDRESS (R443): In FROZEN, SMBus block write 0xF0 sets the postcard byte address. -/
  | smbusSetAddress (addr : BitVec 32)
  /-- SMBUS_READ_POSTCARD (R443): In FROZEN, SMBus block read 0xF1 returns 32 postcard bytes and advances the address. -/
  | smbusReadPostcard
  /-- SMBUS_RESET (R443): In FROZEN, SMBus write byte 0xF2 with 0xA5 resets the device. -/
  | smbusReset (data : BitVec 8)
  /-- SMBUS_CLOCK_TIMEOUT (R461): The SMBus clock is held low by another party for 25 to 35 ms and the device releases the bus. -/
  | smbusClockTimeout
  /-- SET_ENDPOINT_ID (R462): The MCTP bus owner assigns the device's endpoint ID. -/
  | setEndpointId (eid : BitVec 8)
  /-- MCTP_CONTROL_REQUEST (R462): An MCTP control request over SMBus is answered within 100 ms. -/
  | mctpControlRequest (cmd : BitVec 8)
  /-- PLDM_REQUEST (R462): A PLDM base or platform request, including GetPDR and sensor reads, is answered within 100 ms. -/
  | pldmRequest (req : PldmReq)
  /-- GET_VERSION (R436): SPDM GET_VERSION resets the transcript and returns supported versions. -/
  | getVersion (r : Nat)
  /-- GET_CAPABILITIES (R436): SPDM GET_CAPABILITIES returns the responder's capabilities. -/
  | getCapabilities (r : Nat)
  /-- NEGOTIATE_ALGORITHMS (R436): SPDM NEGOTIATE_ALGORITHMS selects RSA-PSS 3072 and SHA-384. -/
  | negotiateAlgorithms (r : Nat)
  /-- GET_DIGESTS (R436): SPDM GET_DIGESTS returns certificate chain digests. -/
  | getDigests (r : Nat)
  /-- GET_CERTIFICATE (R436): SPDM GET_CERTIFICATE returns part of the slot 0 chain. -/
  | getCertificate (r : Nat) (slot : BitVec 8) (off len : Nat)
  /-- CHALLENGE (R436): SPDM CHALLENGE returns a CHALLENGE_AUTH signed with the Alias RSA key. -/
  | challenge (r : Nat) (slot : BitVec 8) (nonce : BitVec 256)
  /-- GET_MEASUREMENTS (R436): SPDM GET_MEASUREMENTS returns measurement blocks 1 to 6, signed when asked. -/
  | getMeasurements (r : Nat) (sign : Bool) (index : Nat) (nonce : BitVec 256)
  /-- CHUNK_SEND (R436): SPDM CHUNK_SEND delivers one chunk of a large request. -/
  | chunkSend (r handle seq : Nat) (last : Bool) (chunk : List Byte)
  /-- CHUNK_GET (R436): SPDM CHUNK_GET returns one chunk of a large response. -/
  | chunkGet (r handle seq : Nat)
  /-- VENDOR_GET_SLHDSA_CERTS (R437): Vendor request byte 0x01 returns the SLH-DSA DeviceID and Alias certificates. -/
  | vendorGetSlhdsaCerts (r : Nat)
  /-- VENDOR_GET_SLHDSA_SIGNATURE (R437): Vendor request byte 0x02 returns the SLH-DSA signature over the last RSA-signed message, or UnexpectedRequest. -/
  | vendorGetSlhdsaSignature (r : Nat)
  /-- EXTEST (R445): JTAG EXTEST drives balls from the boundary-scan register in FROZEN or GREY, otherwise acts as SAMPLE/PRELOAD. -/
  | extest (balls : List Bool)
  /-- SAMPLE_PRELOAD (R445): JTAG SAMPLE/PRELOAD samples or preloads the boundary-scan register. -/
  | samplePreload (balls : List Bool)
  /-- IDCODE (R445): JTAG IDCODE shifts out the 32-bit identification code. -/
  | idcode
  /-- DBGACC (R445): JTAG DBGACC reads a register DA, writing only with the DEBUGW fuse set. -/
  | dbgacc (da : Da) (wr : Bool) (value : BitVec 64)
  /-- POSTCARD (R445): JTAG POSTCARD reads the postcard at a 40-bit address in FROZEN. -/
  | postcard (addr : BitVec 40)
  /-- JTAG_FREEZE (R445): JTAG FREEZE triggers the freeze of R441. -/
  | jtagFreeze
  /-- DEVRESET (R445): JTAG DEVRESET resets the device. -/
  | devreset
  /-- BYPASS (R445): JTAG BYPASS, or any unlisted code, selects the bypass register. -/
  | bypass (code : BitVec 8)
  /-- TAP_RESET (R465): JTAG_TRST_N resets the TAP to Test-Logic-Reset and nothing else. -/
  | tapReset
  /-- QSPI_EXT_ASSERT (R464): QSPI_EXT_N is asserted and the device releases the flash bus, abandoning any operation. -/
  | qspiExtAssert
  /-- QSPI_EXT_RELEASE (R464): QSPI_EXT_N is released and the device may use the flash again. -/
  | qspiExtRelease
  /-- FREEZE_N_RELEASE (R453): FREEZE_N returns to released, so that a later assertion is a new released-to-asserted transition that freezes the device. -/
  | freezeNRelease
  /-- HOST_LINK_RECOVERY_START (R298): A host link leaves L0 into recovery, holding every request of the port in place and starting the 32 µs recovery bound. -/
  | hostLinkRecoveryStart (x : Nat)
  /-- UNCORRECTABLE_LIMIT_PERIOD_CLOSE (R257): While no step runs, a vault's 1 s limit period for UNCORRECTABLE records closes, so that the next record opens a new period with its count at 0. -/
  | uncorrectableLimitPeriodClose (t v : Nat)
  /-- COMMIT_LANDING_TIMEOUT (R344): A counted mirror message has not landed within 100 µs of COMMIT arriving, so the store answers SHORT and leaves CUR and WB as they are. -/
  | commitLandingTimeout
  deriving DecidableEq, Repr

end Sys2Proof
end

