-- ==== Sys2Proof/Config.lean ====
section
/-!
DEFINITION. What the manual leaves open and the model does not choose: constants without a body. Nothing in Lean can
evaluate one, so whatever is proved holds for every value. NOTES.md and the assumption log name each.
-/
namespace Sys2Proof.Config

/-- A free value of w bits, one for each draw (R50, R61, R94, R150 and where NOTES.md says so). -/
opaque freeBits (w : Nat) (draw : Nat) : BitVec w

/-- A free number, one for each draw. -/
opaque freeNat (draw : Nat) : Nat

/-- A free yes or no, one for each draw and place. -/
opaque freeBool (draw place : Nat) : Bool

/-- A free 32-bit word, one for each draw and place (R94). -/
opaque freeWord (draw place : Nat) : BitVec 32

/-- Cycles an island's clock makes at tick k of the model's clock after the e-th reset (R187, R188: every island runs
on its own clock, and none is comparable with another). -/
opaque cycleRate (island epoch tick : Nat) : Nat

/-- Number of the 4 KiB page of the host's physical memory behind page k of port x's host window, where Buaman itself goes
through a translation that the port's cache does not hold (R284). -/
opaque hostPage (x k : Nat) : Nat

/-- Data symbols of a line written poisoned, where the manual names no data (R255). -/
opaque poisonLine (draw : Nat) : Line

/-- SHA-384 of a byte string (R426, R437). The standard is named and not repeated in the manual. -/
opaque sha384 (bytes : List Byte) : BitVec 384

/-- Whether an RSA-PSS 3072 signature (second) of a hash under a public key (first) verifies (R426). -/
opaque rsaVerify (key sig : List Byte) (hash : BitVec 384) : Bool

/-- Whether an SLH-DSA signature of a message verifies under a public key (R426). -/
opaque slhVerify (key sig msg : List Byte) : Bool

/-- A signature by the Alias RSA key of the device in the image's security state (R437). -/
opaque rsaSign (serial : BitVec 64) (layer : BitVec 384) (msg : List Byte) : List Byte

/-- A signature by the Alias SLH-DSA key. -/
opaque slhSign (serial : BitVec 64) (layer : BitVec 384) (msg : List Byte) : List Byte

/-- Certificate chains: k = 0 the RSA chain of slot 0, 1 the SLH-DSA DeviceID and Alias certificates (R435, R437). -/
opaque certChain (serial : BitVec 64) (layer : BitVec 384) (k : Nat) : List Byte

/-- Kardaldo's JEDEC manufacturer code (R445), which the manual does not give. -/
opaque jedec : BitVec 11

/-- Digest of the boot ROM (R436 measurement block 1). -/
opaque romDigest : BitVec 384

/-- What stands at an address of the postcard, as a kind and a number (State.postcardByte): the manual leaves the offsets to the
directory (R442). -/
opaque postcardItem (addr : Nat) : Nat × Nat

/-- A byte of the postcard's directory, or of contents to which the manual gives no layout (R442). It is the same at every read
between one freeze and the reset that ends it. -/
opaque postcardByte (epoch addr : Nat) : Byte

/-- Bytes of Buaman's protocol answers that the manual leaves to a standard it names (SPDM, MCTP, PLDM). -/
opaque stdBytes (what : Nat) (args : List Nat) : List Byte

/-- The Compound Device Identifier of an image on a part: its serial number (for the Unique Device Secret, which nothing outside
the key engine reads), the SHA-384 of header and body, SVN and key set index (R435). -/
opaque cdi (serial : BitVec 64) (digest : BitVec 384) (svn keyset : Nat) : BitVec 384

/-- Energy in µJ that meter n adds to vault region v of its tile, of the energy it has counted: the fused floorplan weights of
cores, fabric and bridges (R403). -/
opaque floorplan (serial : BitVec 64) (n v uj : Nat) : Nat

/-- The vault regions beside region v on its die, and the region in which a sensor lies on its die (R403, R404). -/
opaque lateral (v : Nat) : List Nat
opaque sensorRegion (i : Nat) : Nat

/-- One step of one node of a tile's RC network, in 1/16 °C: from the node's temperature, those of the nodes it is coupled to
above and below and at its sides, the cold-plate node's, the energy in µJ that its region took since the last step, the period in
µs and the cold-plate resistance. The coefficients are fused per part (R403). -/
opaque rcNode (serial : BitVec 64) (t n : Nat) (own : Int) (coupled : List Int) (plate : Int) (uj us rplate : Nat) : Int

end Sys2Proof.Config
end

