-- ==== Sys2Proof/Machine/State.lean ====
section
/-!
DEFINITION. The state of the device: everything the manual gives the package, as plain data.
Parts that exist many times (cores, vaults, links, registers of a bank) are sparse tables `Tab`, whose unlisted
entries stand at that part's reset value. Each field's docstring cites the rule that names it; INVENTORY.md lists
the reset values.
-/
namespace Sys2Proof.Machine

/-- The device faults of the model: conditions under which the machine stops. There is none: every command and
event of the table has an effect, and what the manual calls a fault is a record (R378). Nobody raises this
constructor; it stands so that the type is not empty. Safe. -/
inductive Fault where
  | unreachable
  deriving DecidableEq, Repr

/-- Why a command is refused by the MODEL (a status record that refuses a command is an ordinary next state).
`notModelled`: raised by Dispatch for a row without its meaning; safe. -/
inductive Refusal where
  | notModelled (mnemonic : String)
  deriving DecidableEq, Repr

/-! ## Fused values and straps -/

/-- The three part numbers (R1). -/
inductive Part where
  | rn802 | rn804 | rn808
  deriving DecidableEq, Repr

/-- Values fixed per unit at manufacture (R467, R445); only `svn` and `revoked` may rise, under R427. The fuse array
itself; differing shadow registers are reloaded and counted in `Sec.fusemis` (R440). -/
structure Fuses where
  /-- Part number (R1). -/
  part : Part
  /-- Spare physical core of each tile, 0 to 16 (R19, R467). -/
  spare : List Nat
  /-- Floor step F (R407). -/
  floorStep : Nat
  /-- PM_FLOORCLK in MHz (R376, R467). -/
  floorClk : Nat
  /-- PM_LIMITS.FLOORLIM in W (R417, R467). -/
  floorLim : Nat
  /-- Fused SVN count (R427). -/
  svn : Nat
  /-- Revoked key sets, bit k (R427, R446). -/
  revoked : BitVec 4
  /-- Serial number (R317). -/
  serial : BitVec 64
  /-- Silicon revision (R317, R445). -/
  revision : BitVec 16
  /-- The DEBUGW fuse (R445). -/
  debugW : Bool
  /-- SHA-384 hashes fused for the four key sets: RSA key, SLH-DSA key (R426). -/
  keyHashes : List (BitVec 384 × BitVec 384)
  deriving DecidableEq, Repr

/-! ## Memory requests and the fabric -/

/-- Whose request a memory access is; says which inbox its answer goes to. -/
inductive Owner where
  /-- a stream channel's copy, by copy number (R127) -/
  | copy (c ch n : Nat)
  /-- a stream channel's ST_FLAG, by command number (R149) -/
  | flag (c ch n : Nat)
  /-- LDW into a register (R169) -/
  | ldw (c reg : Nat)
  /-- WAITF (R181) -/
  | waitf (c : Nat)
  /-- a code line of the fetch buffer (R472) -/
  | fetch (c line : Nat)
  /-- the leg list: core header and leg header lines (R162) -/
  | list (c line : Nat)
  /-- the completion flag (R166) -/
  | legFlag (c : Nat)
  /-- a host's CXL.mem or UIO request through port x (R290, R295) -/
  | host (x : Nat)
  /-- a BAR2 access through port x, its bytes within the line (R296) -/
  | bar (x off size : Nat)
  /-- a peer's request over link n, with its source and tag (R337) -/
  | peer (n src tag lines : Nat)
  /-- an access of Buaman's: for the operation of that number, a long command's or a result's that waits to be
  acknowledged (R316, R318, R367); `wr`: a write -/
  | hub (op : Nat) (wr : Bool)
  deriving DecidableEq, Repr

/-- What a memory request does: read, plain write, or accumulating write with its operation code (R147). -/
inductive RqKind where
  | read | write | acc (op : Nat)
  deriving DecidableEq, Repr

/-- One memory request of at most one 64-byte line (R201, R233). -/
structure Rq where
  id : Nat
  own : Owner
  kind : RqKind
  /-- the line's device address (multiple of 64), and the address as the requester gave it, which the answer names: they
  differ for a peer-window address that the routing table sends to this device (R331) -/
  da : Nat
  ask : Nat
  /-- for a peer request, the link that the routing table gave it at issue (R331) -/
  via : Nat
  /-- tile, vault and line within the vault (bank stack, row, column) as the map placed it at issue (R213, R219) -/
  tile : Nat
  vault : Nat
  line : Nat
  /-- bytes of the line read or written -/
  mask : BitVec 64
  data : Line
  /-- the data is poisoned (R255) -/
  poison : Bool
  /-- page hint (R224) -/
  hint : Nat
  /-- misaligned elements of an accumulating write (R234) -/
  mis : Nat
  deriving DecidableEq, Repr

/-- An answer to a request: read data, or an acknowledgement; `err` is an error acknowledgement (R193). -/
structure Rsp where
  id : Nat
  own : Owner
  da : Nat
  isRead : Bool
  data : Line
  /-- read data poisoned, or error acknowledgement -/
  bad : Bool
  deriving DecidableEq, Repr

/-- An item on a crossing: a request under way or its answer on the way back. -/
inductive Item where
  | rq (r : Rq)
  | rsp (r : Rsp)
  deriving DecidableEq, Repr

/-- The half-reset of a crossing (R192). -/
inductive Half where
  | running | held
  deriving DecidableEq, Repr

/-- One crossing: a handshaked FIFO of 16 entries with its counters (R191, R211). Each item carries the crossings
still before it, as window × 256 + number. -/
structure Xing where
  fifo : List (Item × List Nat)
  /-- items held at the source under back-pressure (R191), in order -/
  back : List (Item × List Nat)
  half : Half
  sent : BitVec 32
  taken : BitVec 32
  resets : BitVec 16
  dropped : BitVec 16
  deriving DecidableEq, Repr

/-! ## The core -/

/-- A command in an engine queue or the hold buffer: its 128 bits with R170's offsets applied, its number, and how
many unresolved predictions it stands behind (0: not speculative, R175). -/
structure QCmd where
  id : Nat
  word : EngCmd
  spec : Nat
  /-- its semaphore wait has been released (R178, R179) -/
  released : Bool
  deriving DecidableEq, Repr

/-- A command in the hold buffer, with its engine: 0 matrix, 1 vector, 2 channel 0, 3 channel 1, 4 check (R172). -/
structure Held where
  eng : Nat
  cmd : QCmd
  deriving DecidableEq, Repr

/-- One accumulator bank (R55, R56, R71): elements by 64 × row + column, unlisted ones +0. -/
structure AccBank where
  acc : Tab (BitVec 32)
  er : Nat
  ec : Nat
  flags : BitVec 8
  deriving DecidableEq, Repr

/-- One operand layout entry (R76). -/
structure Layout where
  typ : BitVec 5
  planes : BitVec 3
  rowp : BitVec 16
  pstr : BitVec 17
  deriving DecidableEq, Repr

/-- One basket slot: header and 32 × 32 FP32 values by 32 × row + column, unlisted ones +0 (R81, R82). -/
structure Slot where
  hdr : BitVec 64
  vals : Tab (BitVec 32)
  deriving DecidableEq, Repr

/-- A line of scratch as another engine's write left it while an MMA reads (R61): the line, the bytes the write may
have changed, the line's bytes as an engine reads them after it, and whether it is poisoned. -/
structure WinWr where
  line : Nat
  mask : BitVec 64
  data : Line
  poison : Bool
  deriving DecidableEq, Repr

/-- A matrix multiplication between its first operand read and its last accumulator update (R61, R80): the command,
what the core's scratch held when it began, and the writes of other engines since, oldest first. -/
structure Mma where
  cmd : QCmd
  scratch : List Host.Cell
  valid : List Nat
  poison : List Nat
  writes : List WinWr
  layA : Layout
  layB : Layout
  deriving DecidableEq, Repr

/-- A drain to the basket (R73, R81): its command, bank, tag, the next quadrant to place, and the last quadrant once it
has been read and waits to be placed. -/
structure Drain where
  cmd : QCmd
  bank : Nat
  tag : BitVec 16
  quad : Nat
  last : Option Slot
  deriving DecidableEq, Repr

/-- The matrix engine (R55, R85). -/
structure Mx where
  queue : List QCmd
  banks : List AccBank
  layouts : List Layout
  basket : List Slot
  mmas : List Mma
  drains : List Drain
  sticky : BitVec 8
  leftover : BitVec 16
  badop : BitVec 16
  busy : BitVec 64
  deriving DecidableEq, Repr

/-- One row of a row-state set of the soft maximum (R100), with what R105 speaks of: the row's finite entries and the
number of ACCUM operations since its last reset. -/
structure RowState where
  m : BitVec 32
  s : BitVec 32
  kinf : BitVec 32
  nan : Bool
  live : Bool
  entries : List (BitVec 32)
  accums : Nat
  deriving DecidableEq, Repr

/-- One trail stage entry (R123, R126). -/
structure Stage where
  en : Bool
  fn : BitVec 8
  bsrc : BitVec 2
  tb : BitVec 5
  sb : BitVec 4
  sc : BitVec 4
  rm : BitVec 3
  sat : Bool
  deriving DecidableEq, Repr

/-- A trail run in progress (R113, R118): its command, how many tiles are done, and the B-operand registers and
scalars as they stood at its start (R116). -/
structure Run where
  cmd : QCmd
  done : Nat
  tregs0 : Tab (BitVec 32)
  sregs0 : List (BitVec 32)
  deriving DecidableEq, Repr

/-- The vector engine (R86, R88, R126). Tile register elements by 1024 × register + 32 × row + column, unlisted
ones 0; row states by 32 × set + row. -/
structure Vx where
  queue : List QCmd
  tregs : Tab (BitVec 32)
  masks : List (BitVec 1024)
  sregs : List (BitVec 32)
  rows : Tab RowState
  stages : List Stage
  /-- generator state of each of the 256 lanes (R49) -/
  lanes : List (BitVec 32)
  /-- the VX_TAKE whose slot is copied and not yet released (R92) -/
  taking : Option QCmd
  run : Option Run
  sticky : BitVec 8
  badop : BitVec 16
  trailop : BitVec 16
  busy : BitVec 64
  deriving DecidableEq, Repr

/-- One write a copy will make: the line's DA, its bytes, poison, and misaligned elements in it (R234). -/
structure CopyWr where
  da : Nat
  mask : BitVec 64
  data : Line
  poison : Bool
  mis : Nat
  deriving DecidableEq, Repr

/-- A copy that has started and not completed (R127, R150, R151). -/
structure Copy where
  /-- number of its present reads: an answer to an earlier number is dropped (R176) -/
  n : Nat
  cmd : QCmd
  /-- source and destination descriptors as read at the start (R155) -/
  src : BitVec 512
  dst : BitVec 512
  /-- preload parameters (PSRC, PDST, PLEN) in place of descriptors (R164) -/
  preload : Option (Nat × Nat × Nat)
  /-- the gather or scatter list as read (R144) -/
  list : List (BitVec 128)
  /-- lines it reads, by DA; those not yet asked for; those read, with their data and poison (R158) -/
  lines : List Nat
  todo : List Nat
  got : List (Nat × Line × Bool)
  /-- directions its writes will take (R203), and of each write issued and not acknowledged its request and direction -/
  dirs : List Nat
  unacked : List (Nat × Nat)
  /-- the writes have been issued -/
  wrote : Bool
  /-- it is a run-ahead load; its command still waits at the head of its queue; filter hits so far (R152, R176) -/
  runAhead : Bool
  held : Bool
  hits : Nat
  deriving DecidableEq, Repr

/-- A stream flag sent or waiting for the ordering of R204. -/
structure Flag where
  cmd : QCmd
  sent : Bool
  dir : Nat
  /-- copies of the channel that started before it, by command number -/
  behind : List Nat
  /-- a write that it is ordered behind was completed by an error acknowledgement (R194) -/
  bad : Bool
  deriving DecidableEq, Repr

/-- One stream channel (R127). Directions: 0 local stack, 1 remote tile, 2 host port, 3 device link (R203). -/
structure Chan where
  queue : List QCmd
  copies : List Copy
  flags : List Flag
  /-- directions in which a write of this leg met an error acknowledgement (R194) -/
  supp : List Nat
  bytes : BitVec 64
  deriving DecidableEq, Repr

/-- The check-value unit (R165, R182 to R184). -/
structure Ck where
  queue : List QCmd
  /-- the last CK_INIT, as its 128 bits (R184: KEEP = 0 reinitialises as it did) -/
  init : EngCmd
  poly : BitVec 2
  fold : Bool
  stepf : Bool
  alive : Bool
  acstep : Bool
  run : BitVec 64
  ac : BitVec 4
  deriving DecidableEq, Repr

/-- One level of the loop stack (R173): first and last word of the body, iterations, current one, index register;
`pred` is the request of the LDW whose word the count still awaits (R175). -/
structure Lvl where
  first : Nat
  last : Nat
  count : Nat
  j : Nat
  ireg : Nat
  pred : Option Nat
  deriving DecidableEq, Repr

/-- What a prediction assumed (R175): a BRNZ not taken, or that iteration j of a loop whose body ends at `last`
happens. -/
inductive Pred where
  | brnz (target : Nat)
  | iter (j last : Nat)
  deriving DecidableEq, Repr

/-- An unresolved prediction: the LDW request it awaits, what it assumed, and the sequencer's registers, loops and
awaited registers as the other path takes them over. -/
structure Spec where
  rq : Nat
  pred : Pred
  g : List (BitVec 32)
  loops : List Lvl
  awaited : List (Nat × Nat × Nat)
  deriving DecidableEq, Repr

/-- What decoding waits for (R186 WAITING). -/
inductive Wait where
  | none
  | semw (sem : Nat) (observing : Bool) (cnt : BitVec 16)
  | waitf (cmp : Nat) (v : BitVec 32) (da : Nat) (rq : Option Nat) (ordinal : Nat)
  | fence (mask : BitVec 5)
  deriving DecidableEq, Repr

/-- Where the sequencer stands in its leg (R164). `stuck`: poison in code or leg list (R255). -/
inductive Phase where
  | idle | header | preload | decode | drain | flag | finished | stuck
  deriving DecidableEq, Repr

/-- An entry of the address filter (R176): channel, copy number, first line DA and one past the last. -/
structure FilterEnt where
  ch : Nat
  copy : Nat
  lo : Nat
  hi : Nat
  deriving DecidableEq, Repr

/-- An ENG run being decoded (R169): engine, commands left, and the register values of its offsets (R170). -/
structure EngRun where
  eng : Nat
  left : Nat
  ofa : Option (BitVec 32)
  ofb : Option (BitVec 32)
  deriving DecidableEq, Repr

/-- The core sequencer with its semaphores (R162 to R186). -/
structure Seq where
  phase : Phase
  leg : Nat
  /-- core header and leg header as read (R162, R163) -/
  coreHdr : BitVec 512
  legHdr : BitVec 512
  pc : Nat
  g : List (BitVec 32)
  /-- registers awaited from an LDW, with the request that brings each and the word's byte offset in its line (R172) -/
  awaited : List (Nat × Nat × Nat)
  /-- ENG run being decoded -/
  run : Option EngRun
  /-- parts of the core header (0, 1) and the leg header (2, 3) being read, with their requests (R162, R163) -/
  hdrs : List (Nat × Nat)
  loops : List Lvl
  hold : List Held
  /-- fetch buffer: line number from CODE's line, its 64 bytes and whether they read as poison, oldest first (R472) -/
  fetch : List (Nat × Line × Bool)
  /-- lines being read, with their requests -/
  fetching : List (Nat × Nat)
  /-- request of the completion flag (R164) -/
  flagRq : Nat
  wait : Wait
  specs : List Spec
  sems : List (BitVec 16)
  /-- signals not yet settled: semaphore, amount, true to subtract (R177, R179) -/
  signals : List (Nat × BitVec 16 × Bool)
  filter : List FilterEnt
  /-- WAITFs decoded in this leg (R355) -/
  waitfs : Nat
  nextId : Nat
  nextCopy : Nat
  badop : BitVec 16
  loopdepth : BitVec 16
  sathi : BitVec 16
  satlo : BitVec 16
  specmiss : BitVec 32
  semHi : BitVec 32
  semLo : BitVec 32
  deriving DecidableEq, Repr

/-- The meters of a leg against its demand (R375) and its timers (R371). -/
structure Demand where
  legTimer : BitVec 32
  stepTimer : BitVec 32
  timing : Bool
  ovr : Bool
  undecl : Bool
  cycles : Bool
  offdev : Bool
  stacked : Bool
  overLeg : BitVec 16
  breach : BitVec 32
  /-- bytes and busy cycles of the current leg -/
  stackedBytes : Nat
  offBytes : Nat
  mxCycles : Nat
  vxCycles : Nat
  ckCycles : Nat
  /-- the current leg or wait has posted its breach (R371) -/
  legPosted : Bool
  waitPosted : List Nat
  deriving DecidableEq, Repr

/-- One physical core (R19). -/
structure Core where
  seq : Seq
  mx : Mx
  vx : Vx
  ch0 : Chan
  ch1 : Chan
  ck : Ck
  dem : Demand
  /-- answers that have come back and are not yet taken by LDW_RETURN, ST_READ_RETURN and the like -/
  inbox : List Rsp
  /-- CORE_STICKY (R126) -/
  sticky : BitVec 8
  stAlign : BitVec 16
  stAopbad : BitVec 16
  stBadop : BitVec 16
  stReload : BitVec 32
  /-- ST_ALIGNINFO (R161) -/
  alignInfo : BitVec 64
  /-- scratch lines whose valid bit, or poison bit, is set, rising (R167, R256) -/
  valid : List Nat
  poison : List Nat
  /-- POISON_CONSUMED or SEM_SATURATE already posted in this step period (R180, R257) -/
  poisonPosted : Bool
  satPosted : Bool
  /-- the core is lost (R385) -/
  lost : Bool
  /-- the running leg has issued accumulating writes, ADD_INT32 flags (R380 D6) -/
  didAcc : Bool
  didAddFlag : Bool
  /-- the requester's error counter of R5, of which the manual gives no register -/
  r5 : Nat
  deriving DecidableEq, Repr

/-! ## Vaults, bank units, tiles -/

/-- A request in a vault's queue; `passed` counts later requests served before it (R223); `acked`: a write whose
acknowledgement has been sent (R222). -/
structure QEnt where
  rq : Rq
  passed : Nat
  acked : Bool
  deriving DecidableEq, Repr

/-- An accumulating or narrow write between its read and its write-back (R233, R248): the line's data as decoded, or
that it read as poison. -/
structure Rmw where
  rq : Rq
  line : Line
  bad : Bool
  deriving DecidableEq, Repr

/-- One vault controller with its memory protection and bank bus (R222 to R259, R263, R279). -/
structure Vault where
  queue : List QEnt
  rmw : List Rmw
  draining : Bool
  /-- open row of each bank stack, and the page hint of its last column transfer (R224) -/
  openRow : List (Option Nat)
  rowHint : List Nat
  refBal : List Int
  refRound : List Nat
  refreshing : List Bool
  /-- activate tables: per bank stack up to 32 (row, count) (R229) -/
  acts : List (List (Nat × Nat))
  band : Nat
  bandNotice : Option Nat
  calSlot : Bool
  calibrating : Bool
  slots : BitVec 32
  /-- vault cycle at which the next slot begins; `none`: the first (R232) -/
  calTarget : Option Nat
  lost : Bool
  thresh : BitVec 16
  nrStep : BitVec 32
  nrTotal : BitVec 32
  refCount : BitVec 64
  misalign : BitVec 16
  accPoison : BitVec 16
  /-- erased layer (R241) and layer events with their vault cycle -/
  erased : Option Nat
  layerEvents : List (Nat × Nat)
  /-- vault cycles of uncorrectable lines reported (R242) -/
  ueTimes : List Nat
  /-- UNCORRECTABLE records in the open limit period, and whether one is open (R257) -/
  recCount : Nat
  recOpen : Bool
  /-- newest UNCORRECTABLE and LAYER_ERASED sequence numbers of the vault, for causes (R394) -/
  lastUe : BitVec 32
  lastErase : BitVec 32
  ue : BitVec 16
  layerev : BitVec 16
  ce : BitVec 32
  rawrd : BitVec 32
  poisonrd : BitVec 32
  errlog : BitVec 64
  interval : BitVec 24
  pass : BitVec 32
  pos : BitVec 25
  flipctl : BitVec 64
  flipmask : BitVec 64
  stdrop : BitVec 16
  badcmd : BitVec 16
  kstop : BitVec 16
  badRows : Nat
  usedSpares : Nat
  /-- raw-row bits as bank stack × 16384 + row, rising (R263) -/
  rawRows : List Nat
  /-- kernels: per pair group the bank stack, row and columns it runs, with the blocks still to do (R268) -/
  kernels : List (Option (Nat × Nat × Nat × Nat))
  todo : List (List (Nat × Nat × Nat × Nat))
  deriving DecidableEq, Repr

/-- One bank unit (R261, R267, R278). Instruction store entries differing from HALT are listed; repair latches by
32 × bank + slot. -/
structure BankUnit where
  h : List (BitVec 16)
  a0 : BitVec 40
  a1 : BitVec 40
  pc : BitVec 6
  store : Tab (BitVec 32)
  ready : Bool
  held : Bool
  fail : Bool
  badop : Bool
  stdrop : Bool
  fcol : BitVec 8
  /-- selected bank of the pair -/
  bank : Nat
  repair : Tab (BitVec 15)
  deriving DecidableEq, Repr

/-- One tile: power, thermal, protection mode, granules and the leg ledger. -/
structure Tile where
  lost : Bool
  /-- MP_MODE.CLOTU and BUSY, MP_ERASECFG.THRESH, MP_POISONCONS (R259) -/
  clotu : Bool
  clotuBusy : Bool
  eraseThresh : BitVec 8
  poisonCons : BitVec 32
  /-- valid granules by p[36:12], rising (R243); granules being filled; the host bit of a granule (R291) is what the filters show -/
  granules : List Nat
  filling : List Nat
  /-- order (R216 code) of the last window that held each slab, whose geometry it keeps; unlisted VL = 1 (R246) -/
  slabs : Tab Nat
  /-- throttle step, core clock in MHz and a clock change on its way, lowest step since START (R407, R409, R419) -/
  step : Nat
  clk : Nat
  newClk : Option Nat
  lowest : Nat
  power : Nat
  /-- nodes of the thermal model in 1/16 °C (R403): node 64 × d + v is vault region v of die d, 0 the logic die and 1 + L layer L;
  unlisted ones stand at 35 °C. The meters as they stood at the last model step -/
  nodes : List Int
  seen : Tab (BitVec 64)
  /-- thermal: hot estimate in 1/16 °C, hot layer, rise in 1/16 °C per ms, band, history of estimates (R405, R406) -/
  hot : Int
  hotLayer : Nat
  rise : Nat
  band : Nat
  history : List (Nat × Int)
  lastUp : Option Nat
  shortfall : Bool
  /-- shift of the model's cold-plate node, in 1/16 °C (R404) -/
  shift : Int
  residualSince : Option Nat
  /-- sensors: last reading, expected value, set aside, consecutive disagreements (R404, R419) -/
  readings : List Int
  expects : List Int
  aside : List Nat
  disagree : List Nat
  lastModelRec : Option Nat
  /-- leg ledger by index 0 to 15 (R381): legs complete, fabric cycle of the leg's start -/
  done : List (BitVec 16)
  legStart : List Nat
  remaps : List (BitVec 16)
  deriving DecidableEq, Repr

/-- A remap between its detection and the spare's first step (R383). -/
structure Remap where
  tile : Nat
  index : Nat
  failed : Nat
  spare : Nat
  deriving DecidableEq, Repr

/-! ## Host ports and command protocol -/

/-- One of the three rings of a port (R297, R301 to R304). Slot bytes: expected sequence byte or last lap byte by
slot, unlisted 1 and 0. -/
structure Ring where
  base : BitVec 64
  en : Bool
  log2n : BitVec 5
  head : Nat
  tail : Nat
  slots : Tab (BitVec 8)
  deriving DecidableEq, Repr

/-- A host-directed request outstanding at a port (R286, R288), and whether it has been sent on the link: it has not while
it waits for its translation (R284) or for the end of a recovery (R298). -/
structure HostRq where
  rq : Rq
  sent : Bool
  deriving DecidableEq, Repr

/-- An address-translation entry (R284): untranslated page, log2 of its size, host page, locked. -/
structure Atc where
  page : BitVec 45
  log2 : Nat
  hpa : BitVec 52
  locked : Bool
  deriving DecidableEq, Repr

/-- One host port (R280 to R301). -/
structure Port where
  up : Bool
  rate : Nat
  width : Nat
  lowLat : Bool
  cxlMem : Bool
  cxlCache : Bool
  bme : Bool
  perst : Bool
  recovering : Bool
  /-- a link-loss reset is in progress: its reason (R299) -/
  losing : Option Nat
  lastRecovery : Option Nat
  recov : BitVec 16
  losses : BitVec 8
  lastWhy : BitVec 4
  fenced : BitVec 16
  noport : BitVec 16
  biBound : BitVec 8
  recalls : BitVec 32
  /-- snoop filter: lines the host may hold, by DA, in the order of their grants (R291) -/
  filter : List Nat
  /-- back-invalidations outstanding, by line DA, and the requests that wait for them -/
  bisnp : List Nat
  waitBi : List Rq
  /-- lines whose recall has not been sent yet, 256 being outstanding (R291, R292) -/
  recallWait : List Nat
  atsEn : Bool
  pasidEn : Bool
  pasid : BitVec 20
  atc : List Atc
  /-- translations asked for; pages requested of the host, at most 256; pages that wait for room among them (R284) -/
  atsReqs : List (BitVec 45)
  pageReqs : List (BitVec 45)
  pageWait : List (BitVec 45)
  apbase : BitVec 14
  baddb : BitVec 16
  cmd : Ring
  stat : Ring
  fault : Ring
  /-- the command ring stopped at HEAD by DOORBELL_EARLY until the next doorbell (R307) -/
  stopped : Bool
  /-- the slot at HEAD has failed a check: (tried, SEQ failed, CRC failed) -/
  failing : Option (Bool × Bool)
  early : BitVec 16
  holdoff : BitVec 8
  /-- MSI-X: masked, pending, and for each vector whether its hold-off runs and whether a message is due (R297) -/
  masked : List Bool
  pendingMsix : List Bool
  /-- message address and data of each vector, in the standard layout of an MSI-X table (R296) -/
  msixAddr : List (BitVec 64)
  msixData : List (BitVec 32)
  heldMsix : List (Bool × Bool)
  hdm : List (Option HdmDecoder)
  /-- host lines the device caches, in the order of their coming: host physical address and modified (R286) -/
  cache : List (Nat × Bool)
  /-- BAR base addresses in configuration space (R296, R299); ranges of the host's physical memory that UIO reaches (R295) -/
  bars : List (BitVec 64)
  peers : List (Nat × Nat)
  /-- the fault records held since the start have been posted to the fault ring (R423) -/
  heldPosted : Bool
  hostRqs : List HostRq
  /-- requests held under back-pressure during a map commit or BANK_ENTER (R219, R272) -/
  heldRqs : List Rq
  /-- booked width and rate (R374) -/
  bookWidth : Nat
  bookRate : Nat
  /-- the requester's error counter of R5 -/
  r5 : Nat
  deriving DecidableEq, Repr

/-! ## Device links and mirroring -/

/-- States of a device link (R327, R349). -/
inductive LinkState where
  | absent | down | training | up | verified
  deriving DecidableEq, Repr

/-- A message of the device links (R333 to R336): its 128-bit header and the body as 16-byte units; of one received, the
flits of buffer that are free again once it is taken (R325). -/
structure Msg where
  hdr : BitVec 128
  body : List (BitVec 128)
  cred : Nat := 0
  deriving DecidableEq, Repr

/-- A lane switch under way (R328): its direction (true: receive), the lane set aside, the SEQ at which it occurs, its reason
code, whether the two ends have agreed, and whether the far end has been told. -/
structure LaneSwitch where
  rx : Bool
  lane : Nat
  seq : BitVec 24
  reason : Nat
  agreed : Bool
  told : Bool
  deriving DecidableEq, Repr

/-- One device link (R320 to R329, R349). -/
structure Link where
  state : LinkState
  retry : BitVec 16
  losses : BitVec 8
  lastWhy : BitVec 4
  peerPair : BitVec 4
  peerRole : Bool
  peerId : BitVec 12
  txOut : List Nat
  rxOut : List Nat
  corr : BitVec 32
  uncorr : BitVec 32
  /-- flits kept for replay with their SEQ (R325), next SEQ to send, next SEQ expected, replays of the oldest -/
  retryBuf : List (BitVec 24 × BitVec 2048)
  nextSeq : BitVec 24
  expSeq : BitVec 24
  replays : Nat
  /-- credits in flits: request class, response class, and receive flits to return -/
  rqCred : Nat
  rsCred : Nat
  rqBack : Nat
  rsBack : Nat
  /-- messages waiting to be sent; units of a message partly received in the request and in the response class (R333);
  messages received and not yet handled -/
  txMsgs : List Msg
  rxUnits : List (BitVec 128)
  rsUnits : List (BitVec 128)
  rxMsgs : List Msg
  /-- flits of buffer that a message not yet complete holds in the request and in the response class (R325) -/
  rqHeld : Nat
  rsHeld : Nat
  /-- lane switches under way, in the order in which the lanes failed (R328) -/
  switches : List LaneSwitch
  lightOut : Bool
  deriving DecidableEq, Repr

/-- A peer request awaiting its answer: the lines one message carries (R334, R337). -/
structure PeerRq where
  rqs : List Rq
  tag : Nat
  dst : BitVec 12
  link : Nat
  deriving DecidableEq, Repr

/-- A peer's request being served here: lines still outstanding, gathered data, error so far (R337). -/
structure Serve where
  link : Nat
  src : Nat
  tag : Nat
  addr : Nat
  isRead : Bool
  left : Nat
  lines : List (Nat × Line × Bool)
  err : Bool
  deriving DecidableEq, Repr

/-- Pair states (R339). -/
inductive PairState where
  | off | forming | active | lost | held
  deriving DecidableEq, Repr

/-- A commit in progress at the source, or at the store (R344). -/
structure CommitSt where
  step : BitVec 32
  sent : Bool
  shorts : Nat
  deriving DecidableEq, Repr

/-- A restore into this device (R348): the map it was announced with, its step, RESTORE_WRITE messages landed, whether
one failed, and once COMMIT has come the messages it counts. -/
structure RestoreIn where
  map : List (Nat × Nat)
  step : BitVec 32
  got : Nat
  failed : Bool
  total : Option Nat
  deriving DecidableEq, Repr

/-- Mirroring, both as source and as store (R339 to R349). Granules are numbered along the mirror regions. -/
structure Mirror where
  en : Bool
  resten : Bool
  partner : BitVec 12
  restsrc : BitVec 12
  /-- MIR_CTL.LINKS, and that MIRROR_SET gave mask 0 (R339) -/
  links : BitVec 24
  linksDefault : Bool
  storeBase : BitVec 10
  storeLen : BitVec 10
  pair : PairState
  committed : BitVec 32
  silence : BitVec 24
  hstep : BitVec 32
  hvalid : Bool
  rstep : BitVec 32
  rvalid : Bool
  /-- own mirror map (base, length), W and P bits (R342), granules of which the partner's present copy has been sent
  anything (R343), counts sent per link position (R344) -/
  map : List (Nat × Nat)
  w : List Nat
  p : List Nat
  copied : List Nat
  counts : List (BitVec 32)
  commit : Option CommitSt
  /-- the mirror step that the store expects next (R335, R343) -/
  expect : BitVec 32
  /-- partner's map held, with CUR and WB bits, granules valid in the current and in the other copy, messages received per link position -/
  held : List (Nat × Nat)
  cur : List Nat
  wb : List Nat
  heldValid : List Nat
  otherValid : List Nat
  recv : List (BitVec 32)
  bad : Bool
  storeCommit : Option (BitVec 32 × List (BitVec 32))
  resync : Bool
  /-- partner refused since TAKEOVER (R346) -/
  refuse : Bool
  /-- waiting for the answer to MIRMAP at BOOK; the answer's RES (R341) -/
  mapWait : Bool
  mapAnswer : Option (BitVec 8)
  /-- last roll call: partner's committed step and device state (R380) -/
  partnerStep : BitVec 32
  partnerState : BitVec 4
  /-- alive counters sent by destination × 16 + type, and last accepted by source × 16 + type, unlisted
  until one is accepted (R336) -/
  aliveTx : Tab (BitVec 4)
  aliveRx : Tab (BitVec 4)
  /-- a restore out: destination and phase, and SHORT answers so far; a restore in: source map, step and lines failed
  (R348) -/
  restoreTo : Option (BitVec 12 × Nat)
  restoreShorts : Nat
  restoreIn : Option RestoreIn
  deriving DecidableEq, Repr

/-! ## Booking -/

/-- A region of the booked plan (R352). -/
structure Region where
  base : Nat
  len : Nat
  mirror : Bool
  spill : Bool
  hshared : Bool
  zstart : Bool
  run : Nat
  deriving DecidableEq, Repr

/-- A reservation entry (R356). -/
structure Reserve where
  kind : Nat
  tile : Nat
  port : Nat
  link : Nat
  dir : Nat
  srclo : Nat
  srchi : Nat
  cfirst : Nat
  clast : Nat
  share : Nat
  deriving DecidableEq, Repr

/-- A wait entry (R355). -/
structure WaitEnt where
  wcore : Nat
  wleg : Nat
  word : Nat
  dcore : Nat
  dleg : Nat
  host : Bool
  deriving DecidableEq, Repr

/-- A demand entry of a phase (R354). -/
structure DemEnt where
  off : Nat
  len : Nat
  bytes : Nat
  region : Nat
  kind : Nat
  deriving DecidableEq, Repr

/-- One leg as booking reads it (R163, R354). -/
structure LegPlan where
  hdr : BitVec 512
  rmask : BitVec 64
  wmask : BitVec 64
  /-- phases: CYC in quarters of a core cycle, and entries; the implicit preload phase first where there is one -/
  phases : List (Nat × List DemEnt)
  deriving DecidableEq, Repr

/-- The plan as read, and once admitted what it was admitted with. -/
structure Plan where
  hdr : BitVec 512
  lists : List Nat
  regions : List Region
  reserves : List Reserve
  waits : List WaitEnt
  /-- legs of each core: (core, legs) -/
  legs : List (Nat × List LegPlan)
  /-- deadlines in ns of each declared wait, in the order of `waits` -/
  deadlines : List (Option Nat)
  stepBound : Nat
  deriving DecidableEq, Repr

/-! ## Control cluster, boot, security, debug -/

/-- The ten device states (R22). -/
inductive DevState where
  | off | boot | ready | booked | running | halted | bank | degraded | grey | frozen
  deriving DecidableEq, Repr

/-- A long command in progress: opcode, source and packet (R312), with what its start already worked out. -/
structure Long where
  src : Src
  pkt : BitVec 512
  w0 : Nat
  w1 : Nat
  deriving DecidableEq, Repr

/-- A packet that has reached the control cluster and is not yet carried out (R308): a slot of port x's command ring, or a
packet of the partner's. -/
inductive Arrival where
  | slot (x : Nat)
  | msg (pkt : BitVec 512)
  deriving DecidableEq, Repr

/-- The status of a command whose result block has been written and waits for the acknowledgement of its writes (R316):
the operation number of the writes, how many are outstanding, and the status record's own fields. -/
structure Post where
  op : Nat
  left : Nat
  src : Src
  pkt : BitVec 512
  words : List Nat
  deriving DecidableEq, Repr

/-- A fault record held (R319): its 512 bits with lap byte 0, and whether it is marked cleared. -/
structure FaultRec where
  bits : BitVec 512
  cleared : Bool
  deriving DecidableEq, Repr

/-- A firmware slot of the flash: the image's bytes, and that it is marked invalid (R424, R427, R432). -/
structure FwSlot where
  bytes : List Byte
  invalid : Bool
  deriving DecidableEq, Repr

/-- One of the two copies of the active-slot marker: counter, slot, CRC-32C (R424). -/
structure Marker where
  counter : BitVec 32
  slotB : Bool
  crc : BitVec 32
  deriving DecidableEq, Repr

/-- One of the two copies of the start-attempt record (R428): write counter, count of consecutive failures, index of the newest
entry, thermal mark, the eight entries, CRC-32C. -/
structure Attempts where
  counter : BitVec 32
  fails : Nat
  newest : Nat
  thermal : Bool
  entries : List (BitVec 64)
  crc : BitVec 32
  deriving DecidableEq, Repr

/-- The flash on QSPI (R424, R463). -/
structure Flash where
  markers : List Marker
  attempts : List Attempts
  /-- the area at 0x0010_0000: the identifiers whose derived key pairs stand sealed there, newest first (R421, R435) -/
  sealedKeys : List (BitVec 384)
  slotA : FwSlot
  slotB : FwSlot
  /-- the record area can be read (R428 reason FLASH) -/
  readable : Bool
  deriving DecidableEq, Repr

/-- An SPDM responder: DOE of HP0, DOE of HP1, MCTP (R436). -/
structure Spdm where
  version : Nat
  transcript : List Nat
  /-- the message the last RSA signature covered, `none` since the last GET_VERSION (R437) -/
  signed : Option (List Nat)
  /-- chunked request or response under way: handle, next sequence number, bytes -/
  chunkIn : Option (Nat × Nat × List Byte)
  chunkOut : Option (Nat × Nat × List Byte)
  deriving DecidableEq, Repr

/-- A request of the device to its host: CXL.cache reads and writes (R286, R288), CXL.io memory requests where CXL.cache is
not enabled (R281), and UIO to a peer below a switch (R295). -/
inductive HostReq where
  | rdShared | rdCurr | rdOwn | itoMWr | woWrInv | memRd | memWr | uioRd | uioWr
  deriving DecidableEq, Repr

/-- One output of the device to its surroundings. -/
inductive Out where
  /-- a 64-byte record written to ring r of port x, slot n (1 status, 2 fault; R304) -/
  | record (x r n : Nat) (bits : BitVec 512)
  /-- an MSI-X message (R297) -/
  | msix (x v : Nat)
  /-- a write of the device that landed at a physical address of the host (R288) -/
  | hostWrite (x : Nat) (addr : Nat) (mask : BitVec 64) (data : Line) (poison : Bool)
  /-- data returned to a register, CXL.mem, BAR, UIO or JTAG access -/
  | data (value : BitVec 512) (poison : Bool)
  /-- completion of a host write; false: with no effect or in error -/
  | done (ok : Bool)
  /-- a request sent to the host, for a host physical address; `hostWrite` or the host's data follows (R286, R288) -/
  | hostReq (x : Nat) (q : HostReq) (addr : Nat)
  /-- a snoop or invalidation answered, with the line's data when it was modified (R284, R287) -/
  | snoopRsp (x : Nat) (data : Option Line)
  /-- BISnp sent to the host (R291); a translation request, or a page request, with its PASID (R284) -/
  | bisnp (x : Nat) (da : Nat) (inv : Bool)
  | atsReq (x : Nat) (page : BitVec 45) (pasid : Option (BitVec 20))
  | pageReq (x : Nat) (page : BitVec 45) (pasid : Option (BitVec 20))
  /-- a flit sent on a link (R324) -/
  | flit (n : Nat) (bits : BitVec 2048)
  /-- bank-bus response words (R266) -/
  | bus (words : List (BitVec 16))
  /-- MCTP control and SMBus answers as bytes; JTAG shift-out -/
  | bytes (chan : Nat) (data : List Byte)
  /-- an SPDM response of responder r; ok false: ERROR, with its code first (R436) -/
  | spdm (r : Nat) (ok : Bool) (data : List Byte)
  /-- a PLDM sensor reading; none: unavailable (R462) -/
  | sensor (id : Nat) (value : Option Int)
  /-- the SMBus transaction was not acknowledged, or the bus was released -/
  | nak
  deriving DecidableEq, Repr

/-- The control cluster and everything of which the device has one. -/
structure Dev where
  state : DevState
  /-- reset is asserted: the device waits for RESET_RELEASE (R398, R421) -/
  inReset : Bool
  gen : BitVec 32
  /-- step number (R49) and START seen since BOOK -/
  step : BitVec 32
  straps : BitVec 11
  owner : Nat
  recno : BitVec 32
  /-- next fault sequence number, newest posted (0 before the first; R319, R379) -/
  faultSeq : BitVec 32
  lastFault : BitVec 32
  faults : List FaultRec
  long : Option Long
  deferred : Option Long
  /-- a START that waits for its translations to be locked again; `w0` is 1 once one is refused (R285) -/
  starting : Option Long
  /-- packets in the order in which they reached the control cluster (R308) -/
  arrivals : List Arrival
  /-- fault that halted the step and started it, for causes (R372) -/
  startFault : BitVec 32
  breaches : BitVec 32
  /-- a core set OVER in this step (R375) -/
  stepOver : Bool
  /-- first request timeout of the step posted (R337) -/
  pathTimeout : Bool
  /-- the step's legs are complete and its mirror commit is under way or done (R21): W4 -/
  commitDone : Option Bool
  holder : Tab (Option Nat)
  remaps : List Remap
  plan : Option Plan
  /-- map: staged and active windows as VC_MAPWIN lays them out, BUSY, LOCKED, BADWIN, ERR (R218, R236) -/
  staged : List (BitVec 64)
  active : List (BitVec 64)
  mapBusy : Bool
  mapLocked : BitVec 8
  mapBadwin : BitVec 4
  mapErr : BitVec 4
  /-- ranges in bank mode (base, length), by slot, and BU_FENCED (R279) -/
  ranges : List (Option (Nat × Nat))
  wrdrop : BitVec 32
  rdpois : BitVec 32
  /-- a bank job: packet of BANK_RUN, sums per block, stop asked (R268 to R270) -/
  job : Option (Long × List (Nat × Nat × Nat × Bool))
  jobStop : Bool
  /-- plan regions fenced (base, length) (R293) -/
  fences : List (Nat × Nat)
  /-- links: device block of R349 -/
  devid : BitVec 12
  dlTimeout : BitVec 16
  e2ebad : BitVec 16
  hopdrop : BitVec 16
  expdeny : BitVec 16
  timeout : BitVec 16
  exports : Tab (BitVec 64)
  routes : Tab (BitVec 64)
  peerRqs : List PeerRq
  serves : List Serve
  /-- tags not to be reused, with the control cycle at which each ended (R337) -/
  usedTags : List (Nat × Nat)
  /-- latched high halves of 64-bit counters, by requester and register (R12) -/
  latches : List (Requester × Nat × BitVec 32)
  /-- what the long command in progress reads and writes (R318, R367): its operation number and the next one, lines that
  have come, lines asked for that have not, and once its writes are issued how many are not yet acknowledged -/
  hubOp : Nat
  hubNext : Nat
  hubGot : List (Nat × Line × Bool)
  hubLeft : Option Nat
  hubAsk : List Nat
  /-- statuses of short commands that wait for their results to be acknowledged (R316) -/
  posts : List Post
  /-- W3 of the refusal that a loss during a BOOK in progress calls for (R395) -/
  bookLoss : Option Nat
  /-- the mirror map with its W and P bits as they stood before a BOOK in progress sent its own (R367) -/
  bookOld : Option (List (Nat × Nat) × List Nat × List Nat)
  /-- the error counter of R5 of the hub's own requester and of peers' requests -/
  r5 : Nat
  /-- the state that a freeze ended, whose sideband levels FROZEN holds (R452) -/
  preFreeze : DevState
  deriving DecidableEq, Repr

/-- Power, thermal configuration and meters (R397 to R419). -/
structure Power where
  /-- the levels on the balls; those that PM_SUPPLY shows, as last sampled (R419); whether each supply is valid (R397) -/
  supplies : Supplies
  shown : Supplies
  vinOk : Bool
  vauxOk : Bool
  vioOk : Bool
  latchedOff : Bool
  limit : Nat
  inputPower : Nat
  /-- energy of each meter and of the input in µJ (R400, R419) -/
  meters : Tab (BitVec 64)
  inEnergy : BitVec 64
  /-- the meters at the last power-loop ticks, newest first, and the input energy at them (R401, R409, R419) -/
  past : List (Tab (BitVec 64))
  inPast : List (BitVec 64)
  target : BitVec 8
  riseLim : BitVec 8
  cool : BitVec 16
  rplate : BitVec 16
  shortfalls : BitVec 16
  downsteps : BitVec 16
  disagrees : BitVec 16
  /-- VIN has fallen below 40 V and not since been at 40.5 V for 10 ms (R415) -/
  vinLow : Bool
  /-- control cycle from which every sample of VIN has been at 40.5 V or above (R415) -/
  vinHigh : Option Nat
  shuttingDown : Bool
  deriving DecidableEq, Repr

/-- All three supplies are valid (R397). -/
def Power.valid (p : Power) : Bool := p.vinOk && p.vauxOk && p.vioOk

/-- Start-up, security and debug (R420 to R446, R452 to R465). -/
structure Sec where
  flash : Flash
  cause : BitVec 4
  version : BitVec 32
  slotB : Bool
  keyset : BitVec 2
  lastWhy : BitVec 8
  /-- why no image verified in the start under way; 0: one did (R426, R428) -/
  imageWhy : BitVec 8
  /-- the identifier whose Alias keys the key engine holds; none before step 4 of a start (R421, R435) -/
  keyId : Option (BitVec 384)
  minsvn : Nat
  revoke : BitVec 8
  /-- a FUSE_ADVANCE is due after a successful start (R427) -/
  fuseDue : Bool
  fusemis : BitVec 16
  dbgUsed : Bool
  spdm : List Spdm
  /-- postcard byte address over SMBus (R443), MCTP endpoint ID (R462) -/
  postAddr : BitVec 32
  eid : BitVec 8
  ir : BitVec 8
  bsr : List Bool
  extest : Bool
  qspiExt : Bool
  freezeLow : Bool
  /-- FREEZE_N driven low by this device since a freeze (R441) -/
  freezeOut : Bool
  elsFlt : List Nat
  deriving DecidableEq, Repr

/-- The whole device. -/
structure State where
  fuses : Fuses
  dev : Dev
  power : Power
  sec : Sec
  mirror : Mirror
  tiles : Tab Tile
  cores : Tab Core
  vaults : Tab Vault
  units : Tab BankUnit
  xings : Tab Xing
  ports : Tab Port
  links : Tab Link
  /-- stacked memory: 80 stored bytes a line, address = physical line × 80 + layer × 8 + byte; unlisted 0 -/
  mem : List Host.Cell
  /-- scratch: address = physical core × 2^23 + offset; unlisted 0 -/
  scratch : List Host.Cell
  /-- host memory as the device last saw or wrote it: address = port × 2^52 + host physical address; unlisted 0 -/
  hostMem : List Host.Cell
  out : List Out
  /-- ticks of the model's clock since reset, resets seen; number of free values drawn (the model's own) -/
  ticks : Nat
  epoch : Nat
  free : Nat
  nextRq : Nat
  /-- commands waiting, first in first out (the block's queue) -/
  pending : List Instr
  deriving DecidableEq, Repr

/-! ## Reset -/

def Fuses.reset : Fuses :=
  { part := .rn808, spare := [16, 16, 16, 16, 16, 16, 16, 16], floorStep := 13, floorClk := 3000, floorLim := 3600,
    svn := 0, revoked := 0, serial := 1, revision := 1, debugW := false, keyHashes := [(0, 0), (0, 0), (0, 0), (0, 0)] }

def Xing.reset : Xing :=
  { fifo := [], back := [], half := .running, sent := 0, taken := 0, resets := 0, dropped := 0 }

def AccBank.reset : AccBank := { acc := [], er := 0, ec := 0, flags := 0 }

/-- Layout entries at reset and at every leg start: E4M3, 7 planes, row pitch 1, plane stride 0 (R85). -/
def Layout.reset : Layout := { typ := 0x03, planes := 7, rowp := 1, pstr := 0 }

def Mx.reset : Mx :=
  { queue := [], banks := List.replicate 4 AccBank.reset, layouts := List.replicate 8 Layout.reset, basket := [],
    mmas := [], drains := [], sticky := 0, leftover := 0, badop := 0, busy := 0 }

/-- A row state at reset: M −∞, S +0 (R100). -/
def RowState.reset : RowState := { m := 0xFF800000, s := 0, kinf := 0, nan := false, live := false, entries := [], accums := 0 }

def Stage.reset : Stage := { en := false, fn := 0, bsrc := 0, tb := 0, sb := 0, sc := 0, rm := 0, sat := false }

def Vx.reset : Vx :=
  { queue := [], tregs := [], masks := List.replicate 8 (BitVec.allOnes 1024), sregs := List.replicate 16 0, rows := [],
    stages := List.replicate 8 Stage.reset, lanes := List.replicate 256 1, taking := none, run := none, sticky := 0,
    badop := 0, trailop := 0, busy := 0 }

def Chan.reset : Chan := { queue := [], copies := [], flags := [], supp := [], bytes := 0 }

/-- The check-value unit at every leg start: CRC-32C with its standard initial value (R165). -/
def Ck.reset : Ck :=
  { queue := [], init := 0, poly := 0, fold := false, stepf := false, alive := false, acstep := false, run := 0xFFFFFFFF,
    ac := 0 }

def Seq.reset : Seq :=
  { phase := .idle, leg := 0, coreHdr := 0, legHdr := 0, pc := 0, g := List.replicate 16 0, awaited := [], run := none, hdrs := [], loops := [],
    hold := [], fetch := [], fetching := [], flagRq := 0, wait := .none, specs := [], sems := List.replicate 32 0, signals := [],
    filter := [], waitfs := 0, nextId := 0, nextCopy := 0, badop := 0, loopdepth := 0, sathi := 0, satlo := 0,
    specmiss := 0, semHi := 0, semLo := 0 }

def Demand.reset : Demand :=
  { legTimer := 0, stepTimer := 0, timing := false, ovr := false, undecl := false, cycles := false, offdev := false,
    stacked := false, overLeg := 0, breach := 0, stackedBytes := 0, offBytes := 0, mxCycles := 0, vxCycles := 0, ckCycles := 0, legPosted := false,
    waitPosted := [] }

def Core.reset : Core :=
  { seq := Seq.reset, mx := Mx.reset, vx := Vx.reset, ch0 := Chan.reset, ch1 := Chan.reset, ck := Ck.reset,
    dem := Demand.reset, inbox := [], sticky := 0, stAlign := 0, stAopbad := 0, stBadop := 0, stReload := 0,
    alignInfo := 0, valid := [], poison := [], poisonPosted := false, satPosted := false, lost := false,
    didAcc := false, didAddFlag := false, r5 := 0 }

def Vault.reset : Vault :=
  { queue := [], rmw := [], draining := false, openRow := List.replicate 8 none, rowHint := List.replicate 8 0, refBal := List.replicate 8 0,
    refRound := List.replicate 8 0, refreshing := List.replicate 8 false, acts := List.replicate 8 [], band := 0,
    bandNotice := none, calSlot := false, calibrating := false, slots := 0, calTarget := none, lost := false,
    thresh := 0x0400, nrStep := 0, nrTotal := 0, refCount := 0, misalign := 0, accPoison := 0, erased := none,
    layerEvents := [], ueTimes := [], recCount := 0, recOpen := false, lastUe := 0, lastErase := 0, ue := 0,
    layerev := 0, ce := 0, rawrd := 0, poisonrd := 0, errlog := 0, interval := 0x001000, pass := 0, pos := 0,
    flipctl := 0, flipmask := 0, stdrop := 0, badcmd := 0, kstop := 0, badRows := 0, usedSpares := 0, rawRows := [],
    kernels := List.replicate 4 none, todo := List.replicate 4 [] }

/-- A bank unit at device reset: all zero, READY 1, every store entry HALT (R261). -/
def BankUnit.reset : BankUnit :=
  { h := List.replicate 8 0, a0 := 0, a1 := 0, pc := 0, store := [], ready := true, held := false, fail := false,
    badop := false, stdrop := false, fcol := 0, bank := 0, repair := [] }

def Tile.reset : Tile :=
  { lost := false, clotu := false, clotuBusy := false, eraseThresh := 0x08, poisonCons := 0, granules := [],
    filling := [], slabs := [], nodes := [], seen := [], step := 16, clk := 3600, newClk := none, lowest := 16, power := 0, hot := 0,
    hotLayer := 0, rise := 0, band := 0, history := [], lastUp := none, shortfall := false, shift := 0,
    residualSince := none, readings := List.replicate 56 0, expects := List.replicate 56 0, aside := [],
    disagree := List.replicate 56 0, lastModelRec := none, done := List.replicate 16 0,
    legStart := List.replicate 16 0, remaps := List.replicate 16 0 }

def Ring.reset : Ring := { base := 0, en := false, log2n := 6, head := 0, tail := 0, slots := [] }

def Port.reset : Port :=
  { up := false, rate := 0, width := 0, lowLat := false, cxlMem := false, cxlCache := false, bme := false,
    perst := false, recovering := false, losing := none, lastRecovery := none, recov := 0, losses := 0, lastWhy := 0,
    fenced := 0, noport := 0, biBound := 0x02, recalls := 0, filter := [], bisnp := [], waitBi := [], recallWait := [], atsEn := false,
    pasidEn := false, pasid := 0, atc := [], atsReqs := [], pageReqs := [], pageWait := [], apbase := 0, baddb := 0, cmd := Ring.reset,
    stat := Ring.reset, fault := Ring.reset, stopped := false, failing := none, early := 0, holdoff := 0,
    masked := List.replicate 8 true, pendingMsix := List.replicate 8 false, msixAddr := List.replicate 8 0,
    msixData := List.replicate 8 0, heldMsix := List.replicate 8 (false, false),
    hdm := [none, none], cache := [], bars := [0, 0, 0], peers := [], heldPosted := false, hostRqs := [], heldRqs := [], bookWidth := 0, bookRate := 0,
    r5 := 0 }

def Link.reset : Link :=
  { state := .down, retry := 0, losses := 0, lastWhy := 0, peerPair := 0, peerRole := false, peerId := 0, txOut := [],
    rxOut := [], corr := 0, uncorr := 0, retryBuf := [], nextSeq := 0, expSeq := 0, replays := 0, rqCred := 1024,
    rsCred := 1024, rqBack := 0, rsBack := 0, txMsgs := [], rxUnits := [], rsUnits := [], rxMsgs := [], rqHeld := 0, rsHeld := 0, switches := [],
    lightOut := false }

def Mirror.reset : Mirror :=
  { en := false, resten := false, partner := 0, restsrc := 0, links := 0, linksDefault := false, storeBase := 0,
    storeLen := 0, pair := .off, committed := 0, silence := 0, hstep := 0, hvalid := false, rstep := 0, rvalid := false,
    map := [], w := [], p := [], copied := [], counts := List.replicate 8 0, commit := none, expect := 1, held := [], cur := [], wb := [],
    heldValid := [], otherValid := [], recv := List.replicate 8 0, bad := false, storeCommit := none, resync := false,
    refuse := false, mapWait := false, mapAnswer := none, partnerStep := 0, partnerState := 0, aliveTx := [],
    aliveRx := [], restoreTo := none, restoreShorts := 0, restoreIn := none }

/-- Tiles present on a part (R1). -/
def Part.tiles : Part → Nat
  | .rn802 => 2
  | .rn804 => 4
  | .rn808 => 8

/-- The window of tile t in the start-up configuration, as VC_MAPWIN lays it out: EN, VL, tile t alone, POFF 0,
128 GiB from t × 128 GiB (R220, R236). -/
def startWindow (t : Nat) : BitVec 64 :=
  BitVec.ofNat 64 (2 ^ 63 + 1 * 2 ^ 61 + 2 ^ t * 2 ^ 53 + 127 * 2 ^ 36 + 128 * t * 2 ^ 26)

/-- A disabled window of the start-up configuration. -/
def noWindow : BitVec 64 := BitVec.ofNat 64 (0x3FF * 2 ^ 36 + 1 * 2 ^ 61)

/-- The sixteen windows of the start-up configuration (R220). -/
def startWindows (p : Part) : List (BitVec 64) :=
  (List.range 16).map fun t => if t < p.tiles then startWindow t else noWindow

/-- MAXLIM of the part in W (R417). -/
def Part.maxLim : Part → Nat
  | .rn802 => 1300
  | .rn804 => 2500
  | .rn808 => 4800

def Dev.reset (p : Part) : Dev :=
  { state := .boot, inReset := true, gen := 1, step := 0, straps := 0, owner := 0, recno := 1, faultSeq := 1,
    lastFault := 0, faults := [], long := none, deferred := none, starting := none, arrivals := [], startFault := 0, breaches := 0, stepOver := false,
    pathTimeout := false, commitDone := none, holder := [], remaps := [], plan := none, staged := startWindows p,
    active := startWindows p, mapBusy := false, mapLocked := 0, mapBadwin := 0, mapErr := 0,
    ranges := List.replicate 8 none, wrdrop := 0, rdpois := 0, job := none, jobStop := false, fences := [],
    devid := 0xFFF, dlTimeout := 0x0064, e2ebad := 0, hopdrop := 0, expdeny := 0, timeout := 0, exports := [],
    routes := [], peerRqs := [], serves := [], usedTags := [], latches := [], hubOp := 0, hubNext := 1, hubGot := [],
    hubLeft := none, hubAsk := [], posts := [], bookLoss := none, bookOld := none, r5 := 0, preFreeze := .boot }

def Power.reset (p : Part) : Power :=
  { supplies := ⟨4800, 3300, 1800⟩, shown := ⟨0, 0, 0⟩, vinOk := true, vauxOk := true, vioOk := true, latchedOff := false, limit := p.maxLim, inputPower := 0, meters := [],
    inEnergy := 0, past := [[]], inPast := [0], target := 0x5A, riseLim := 0x14, cool := 0x0230, rplate := 0x012C, shortfalls := 0, downsteps := 0,
    disagrees := 0, vinLow := false, vinHigh := none, shuttingDown := false }

def Attempts.reset : Attempts :=
  { counter := 0, fails := 0, newest := 0, thermal := false, entries := List.replicate 8 0, crc := 0x1FE25FCB }

def FwSlot.empty : FwSlot := { bytes := [], invalid := true }

def Flash.reset : Flash :=
  { markers := [⟨0, false, 0x45727635⟩, ⟨0, false, 0⟩], attempts := [Attempts.reset, { Attempts.reset with crc := 0 }], sealedKeys := [],
    slotA := FwSlot.empty, slotB := FwSlot.empty, readable := true }

def Spdm.reset : Spdm :=
  { version := 0, transcript := [], signed := none, chunkIn := none, chunkOut := none }

def Sec.reset : Sec :=
  { flash := Flash.reset, cause := 0, version := 0, slotB := false, keyset := 0, lastWhy := 0, imageWhy := 0, keyId := none, minsvn := 0, revoke := 0,
    fuseDue := false, fusemis := 0, dbgUsed := false, spdm := List.replicate 3 Spdm.reset, postAddr := 0,
    eid := 0, ir := 0x02, bsr := [], extest := false, qspiExt := false, freezeLow := false, freezeOut := false,
    elsFlt := [] }

/-- The device right after reset is asserted with the supplies valid: in BOOT, waiting for RESET_RELEASE (R10, R24,
R421), every table at its reset values, the queue empty. -/
def State.reset : State :=
  { fuses := Fuses.reset, dev := Dev.reset .rn808, power := Power.reset .rn808, sec := Sec.reset, mirror := Mirror.reset,
    tiles := [], cores := [], vaults := [], units := [], xings := [], ports := [], links := [], mem := [], scratch := [],
    hostMem := [], out := [], ticks := 0, epoch := 0, free := 0, nextRq := 0, pending := [] }

end Sys2Proof.Machine
end

