-- ==== Sys2Proof/Machine/Bits.lean ====
section
/-!
DEFINITION. Bit fields, saturating counters, sign extension, byte order, CRC-32C and finite tables: the helpers every
family uses (R6, R182).
-/
namespace Sys2Proof.Machine

/-- The machine's outcome. -/
abbrev Answer := Host.Outcome State Fault Refusal

/-- Bits [hi:lo] of a number (R6). -/
def nfld (w hi lo : Nat) : Nat := w / 2 ^ lo % 2 ^ (hi + 1 - lo)

/-- Bits [hi:lo] of a word, as a number (R6). -/
def fld {n : Nat} (w : BitVec n) (hi lo : Nat) : Nat := nfld w.toNat hi lo

/-- Bit i of a word. -/
def tst {n : Nat} (w : BitVec n) (i : Nat) : Bool := w.getLsbD i

/-- 1 for true. -/
def b2n (b : Bool) : Nat := if b then 1 else 0

/-- A number put together from fields: each pair is the lowest bit and the value. -/
def pack : List (Nat × Nat) → Nat
  | [] => 0
  | (lo, v) :: rest => v * 2 ^ lo + pack rest

/-- A word put together from fields. -/
def packW (n : Nat) (fs : List (Nat × Nat)) : BitVec n := BitVec.ofNat n (pack fs)

/-- w with bits [hi:lo] replaced by v. -/
def setFld {n : Nat} (w : BitVec n) (hi lo v : Nat) : BitVec n :=
  BitVec.ofNat n (w.toNat - nfld w.toNat hi lo * 2 ^ lo + v % 2 ^ (hi + 1 - lo) * 2 ^ lo)

/-- The two's complement value of the low k bits of v. -/
def sext (k v : Nat) : Int := if v % 2 ^ k < 2 ^ (k - 1) then (v % 2 ^ k : Nat) else (v % 2 ^ k : Nat) - (2 ^ k : Int)

/-- A counter of n bits that stops at its greatest value. -/
def satAdd {n : Nat} (w : BitVec n) (k : Nat) : BitVec n := BitVec.ofNat n (min (2 ^ n - 1) (w.toNat + k))

/-- A counter of n bits that wraps. -/
def wrapAdd {n : Nat} (w : BitVec n) (k : Nat) : BitVec n := BitVec.ofNat n (w.toNat + k)

/-- The serial comparison of two 32-bit numbers: a is at or after b, modulo 2^32 (R181). -/
def serialGe (a b : BitVec 32) : Bool := (a - b).toNat < 2 ^ 31

/-- Bits 0 to n − 1 that are set, rising. -/
def onBits (n w : Nat) : List Nat := (List.range n).filter fun i => w.testBit i

/-- The word with exactly the listed bits set. -/
def ofBits (l : List Nat) : Nat := l.foldl (fun a i => a ||| 2 ^ i) 0

/-- The bytes of a number, byte 0 first (R6). -/
def bytesOf : Nat → Nat → List Byte
  | 0, _ => []
  | n + 1, v => BitVec.ofNat 8 v :: bytesOf n (v / 256)

/-- The number that bytes spell, byte 0 lowest (R6). -/
def ofBytes : List Byte → Nat
  | [] => 0
  | b :: bs => b.toNat + 256 * ofBytes bs

/-- Byte i of a word. -/
def byteAt {n : Nat} (w : BitVec n) (i : Nat) : Byte := BitVec.ofNat 8 (w.toNat / 2 ^ (8 * i))

/-- The line of up to 64 bytes, zeros behind them. -/
def lineOf (bs : List Byte) : Line := BitVec.ofNat 512 (ofBytes bs)

/-- The bit mask of k bytes starting at byte o of a line. -/
def maskOf (o k : Nat) : BitVec 64 := BitVec.ofNat 64 ((2 ^ k - 1) * 2 ^ o)

/-- Every byte of a line. -/
def fullMask : BitVec 64 := BitVec.allOnes 64

/-- The 512-bit mask whose byte i is ones where bit i of the byte mask is set. -/
def spread (m : BitVec 64) : Nat → Nat
  | 0 => 0
  | i + 1 => spread m i + (if m.getLsbD i then 255 * 2 ^ (8 * i) else 0)

/-- `old` with the masked bytes of `new`. -/
def mergeLine (old new : Line) (m : BitVec 64) : Line :=
  let k : Line := BitVec.ofNat 512 (spread m 64)
  (old &&& ~~~k) ||| (new &&& k)

/-- Element i of a list, or d. -/
def nth {α : Type} (l : List α) (i : Nat) (d : α) : α := l.getD i d

/-- The sum of f 0 … f (n − 1). -/
def sumTo (f : Nat → Nat) : Nat → Nat
  | 0 => 0
  | n + 1 => sumTo f n + f n

/-- Rising list with k put in (once). -/
def insertNat (k : Nat) : List Nat → List Nat
  | [] => [k]
  | x :: xs => if k < x then k :: x :: xs else if k = x then x :: xs else x :: insertNat k xs

/-- The list without k. -/
def dropNat (k : Nat) (l : List Nat) : List Nat := l.filter (· ≠ k)

/-! ## Finite tables -/

/-- The entry of key k, or the default d. -/
def tget {α : Type} (d : α) : Tab α → Nat → α
  | [], _ => d
  | (i, v) :: rest, k => if i = k then v else tget d rest k

/-- The table without key k. -/
def tdel {α : Type} : Tab α → Nat → Tab α
  | [], _ => []
  | (i, v) :: rest, k => if i = k then tdel rest k else (i, v) :: tdel rest k

/-- The table with key k put in, keys rising. -/
def tput {α : Type} : Tab α → Nat → α → Tab α
  | [], k, v => [(k, v)]
  | (i, w) :: rest, k, v => if k < i then (k, v) :: (i, w) :: rest else if k = i then (k, v) :: rest else (i, w) :: tput rest k v

/-- The table with entry k set; an entry equal to the default is not listed. -/
def tset {α : Type} [DecidableEq α] (d : α) (t : Tab α) (k : Nat) (v : α) : Tab α :=
  if v = d then tdel t k else tput t k v

/-! ## CRC-32C (R182) -/

/-- One bit of the reflected CRC-32C register. -/
def crcBit (c : Nat) : Nat := if c % 2 = 1 then c / 2 ^^^ 0x82F63B78 else c / 2

/-- One byte into the register. -/
def crcByte (c : Nat) (b : Byte) : Nat :=
  crcBit (crcBit (crcBit (crcBit (crcBit (crcBit (crcBit (crcBit (c ^^^ b.toNat))))))))

/-- CRC-32C with the standard initial value and final XOR (R182, R305). -/
def crc32c (bs : List Byte) : BitVec 32 := BitVec.ofNat 32 (bs.foldl crcByte 0xFFFFFFFF ^^^ 0xFFFFFFFF)

/-- A 64-byte record with its CRC over bytes 0 to 59 put into bytes 60 to 63 (R305, R315, R378). -/
def sealRecord (fields : Nat) : BitVec 512 :=
  packW 512 [(0, fields % 2 ^ 480), (480, (crc32c (bytesOf 60 fields)).toNat)]

end Sys2Proof.Machine
end

