-- ==== Sys2Proof/Machine/Mem.lean ====
section
/-!
DEFINITION. Byte memories as plain data: lists of cells with strictly rising addresses and no cell that holds zero,
which is what an unlisted address reads as.
-/
namespace Sys2Proof.Machine

/-- The canonical form: every address above `lo` and strictly rising, no zero byte listed. -/
def Memory.wfFrom : Option Nat → List Host.Cell → Bool
  | _, [] => true
  | lo, (a, b) :: rest =>
    (match lo with
      | none => true
      | some l => decide (l < a)) && decide (b ≠ 0) && Memory.wfFrom (some a) rest

/-- The canonical form of a memory. -/
def Memory.wf (m : List Host.Cell) : Bool := Memory.wfFrom none m

/-- The byte at an address; 0 where nothing is listed. -/
def memGet : List Host.Cell → Nat → Byte
  | [], _ => 0
  | (i, v) :: rest, a => if a < i then 0 else if i = a then v else memGet rest a

/-- The memory with the byte at an address replaced. -/
def memPut : List Host.Cell → Nat → Byte → List Host.Cell
  | [], a, b => if b = 0 then [] else [(a, b)]
  | (i, v) :: rest, a, b =>
    if a < i then (if b = 0 then (i, v) :: rest else (a, b) :: (i, v) :: rest)
    else if i = a then (if b = 0 then rest else (a, b) :: rest)
    else (i, v) :: memPut rest a b

/-- n bytes from an address on. -/
def memRead (m : List Host.Cell) (a : Nat) : Nat → List Byte
  | 0 => []
  | n + 1 => memGet m a :: memRead m (a + 1) n

/-- Bytes written from an address on. -/
def memWrite (m : List Host.Cell) (a : Nat) : List Byte → List Host.Cell
  | [] => m
  | b :: bs => memWrite (memPut m a b) (a + 1) bs

/-- Bytes written where the mask has a 1; the mask's bit i belongs to byte i. -/
def memWriteMasked (m : List Host.Cell) (a mask : Nat) : List Byte → List Host.Cell
  | [] => m
  | b :: bs => memWriteMasked (if mask % 2 = 1 then memPut m a b else m) (a + 1) (mask / 2) bs

/-- The memory with the n bytes from an address on zero. -/
def memClear (m : List Host.Cell) (a n : Nat) : List Host.Cell := m.filter fun c => decide (c.1 < a ∨ a + n ≤ c.1)

/-- The 64-byte line at an address. -/
def memLine (m : List Host.Cell) (a : Nat) : Line := lineOf (memRead m a 64)

end Sys2Proof.Machine
end

