-- ==== Sys2Proof/Machine/Rs.lean ====
section
/-!
DEFINITION. The layer-loss code of a line (R237 to R240) and the Clotu byte-check arrangement (R249): a stored line is
80 bytes, ten layers of 8 bytes. Symbols and field elements are numbers below 65,536.
-/
namespace Sys2Proof.Machine

/-- Multiplication by α in GF(2^16) on x^16 + x^12 + x^3 + x + 1 (R238). -/
def gfDouble (a : Nat) : Nat := if a < 32768 then 2 * a else (2 * a) ^^^ 0x1100B

/-- The product's first k steps, by the bits of b from the lowest. -/
def gfMulSteps : Nat → Nat → Nat → Nat → Nat
  | 0, _, _, acc => acc
  | k + 1, a, b, acc => gfMulSteps k (gfDouble a) (b / 2) (if b % 2 = 1 then acc ^^^ a else acc)

/-- The product in GF(2^16). -/
def gfMul (a b : Nat) : Nat := gfMulSteps 16 a b 0

/-- a^(2^k − 1) for k steps: a · (…)^2. -/
def gfPowSteps : Nat → Nat → Nat
  | 0, _ => 1
  | k + 1, a => let p := gfPowSteps k a; gfMul (gfMul p p) a

/-- The inverse: a^(2^16 − 2) = (a^(2^15 − 1))^2. -/
def gfInv (a : Nat) : Nat := let p := gfPowSteps 15 a; gfMul p p

/-- α^i. -/
def alphaPow : Nat → Nat
  | 0 => 1
  | i + 1 => gfDouble (alphaPow i)

/-- The coefficients, from the lowest, of the monic polynomial whose roots are α^0, α^−1, …, α^−7. The code word read
from s39 to s0 is a multiple of it exactly when s0 + s1·x + … + s39·x^39 is a multiple of g (R238). -/
def rsGen : List Nat := [0xC2FF, 0xB9B2, 0x610A, 0x7517, 0xFA6A, 0x1A03, 0x9499, 0x1BA1]

/-- One data symbol into the division by `rsGen`; the remainder stands from the lowest coefficient. -/
def rsFeed (r : List Nat) (d : Nat) : List Nat :=
  let fb := d ^^^ r.getLastD 0
  List.zipWith (fun a g => a ^^^ gfMul fb g) (0 :: r.dropLast) rsGen

/-- The eight check symbols s32 to s39 of 32 data symbols (R238). -/
def rsCheck (data : List Nat) : List Nat := (data.foldl rsFeed (List.replicate 8 0)).reverse

/-- The 40 symbols of a stored line: symbol i is bytes 2i and 2i + 1, little-endian (R237). -/
def symbolsOf : List Byte → List Nat
  | a :: b :: rest => (a.toNat + 256 * b.toNat) :: symbolsOf rest
  | _ => []

/-- The bytes of symbols. -/
def bytesOfSymbols (l : List Nat) : List Byte := l.flatMap fun s => [BitVec.ofNat 8 s, BitVec.ofNat 8 (s / 256)]

/-- Syndrome i: the word's polynomial at α^i. -/
def syndrome (w : List Nat) (i : Nat) : Nat := w.foldr (fun s acc => gfMul acc (alphaPow i) ^^^ s) 0

/-- The eight syndromes. -/
def syndromes (w : List Nat) : List Nat := (List.range 8).map (syndrome w)

/-- The syndromes with the contribution of locator x taken out: S(i+1) + x·S(i). -/
def elimLocator (x : Nat) (s : List Nat) : List Nat := List.zipWith (fun a b => b ^^^ gfMul x a) s s.tail

/-- The error values at the given positions that explain the syndromes, if there are any. -/
def solveAt : List Nat → List Nat → Option (List Nat)
  | [], s => if s.all (· = 0) then some [] else none
  | p :: ps, s =>
    let x := alphaPow p
    match solveAt ps (elimLocator x s) with
    | none => none
    | some es =>
      let es' := List.zipWith (fun q e => gfMul e (gfInv (alphaPow q ^^^ x))) ps es
      some ((es'.foldl (· ^^^ ·) (s.headD 0)) :: es')

/-- The symbol positions of a layer (R237). -/
def layerPositions (l : Nat) : List Nat := [4 * l, 4 * l + 1, 4 * l + 2, 4 * l + 3]

/-- Positions outside the erased layer, if any. -/
def freePositions (er : Option Nat) : List Nat :=
  (List.range 40).filter fun p => match er with
    | none => true
    | some l => p / 4 ≠ l

/-- All pairs of positions, the lower one first. -/
def pairsOf : List Nat → List (List Nat)
  | [] => []
  | p :: ps => ps.map (fun q => [p, q]) ++ pairsOf ps

/-- The error patterns that cases 2 to 4 of R239 allow outside the erased layer, in order. -/
def errorPatterns (er : Option Nat) : List (List Nat) :=
  let free := freePositions er
  [[]] ++ free.map (fun p => [p]) ++ pairsOf free ++
    (match er with
      | none => (List.range 10).map layerPositions
      | some _ => [])

/-- Errors found: positions with their nonzero values, the positions of the erased layer apart. -/
structure ErrorSet where
  inErased : List (Nat × Nat)
  outside : List (Nat × Nat)
  deriving DecidableEq, Repr

/-- The first pattern that explains the syndromes. Distance 9 makes the code word unique (R240). -/
def findErrors (er : Option Nat) (syn : List Nat) : List (List Nat) → Option ErrorSet
  | [] => none
  | pat :: rest =>
    let ep := match er with
      | none => []
      | some l => layerPositions l
    match solveAt (ep ++ pat) syn with
    | some es => some { inErased := ep.zip es, outside := (pat.zip (es.drop ep.length)).filter fun e => e.2 ≠ 0 }
    | none => findErrors er syn rest

/-- A word with errors taken out. -/
def applyErrors (w : List Nat) (es : List (Nat × Nat)) : List Nat :=
  es.foldl (fun w e => w.set e.1 (w.getD e.1 0 ^^^ e.2)) w

/-- A line as read (R239, R249). `layers`: the layers in error (R257). -/
inductive Decoded where
  | clean (data : Line)
  | corrected (data : Line) (layers : Nat) (event : Option Nat)
  | raw
  | poisoned
  | bad (layers : Nat)
  deriving DecidableEq, Repr

/-- Cases 2 to 4 of R239. -/
def decodeCases (er : Option Nat) (w : List Nat) : Option (List Nat × List Nat) :=
  match findErrors er (syndromes w) (errorPatterns er) with
  | none => none
  | some es => some (applyErrors (applyErrors w es.inErased) es.outside, es.outside.map Prod.fst)

/-- Every check symbol outside the erased layer is the raw marker (case 1). -/
def isRaw (er : Option Nat) (w : List Nat) : Bool :=
  (List.range 8).all fun i => (match er with
    | some l => decide ((32 + i) / 4 = l)
    | none => false) || decide (w.getD (32 + i) 0 = 0xFFFF)

/-- The check symbols XORed with 0x5AA5 (case 5). -/
def flipChecks (w : List Nat) : List Nat := w.take 32 ++ (w.drop 32).map (· ^^^ 0x5AA5)

/-- The decoder of R239 over the 80 stored bytes, with the vault's erased layer if it has one. -/
def decodeLine (er : Option Nat) (bytes : List Byte) : Decoded :=
  let w := symbolsOf bytes
  if isRaw er w then .raw
  else match decodeCases er w with
    | some (c, []) => .clean (lineOf (bytesOfSymbols (c.take 32)))
    | some (c, ps) =>
      .corrected (lineOf (bytesOfSymbols (c.take 32))) (ofBits (ps.map (· / 4)))
        (if 3 ≤ ps.length then (ps.head?).map (· / 4) else none)
    | none => match decodeCases er (flipChecks w) with
      | some _ => .poisoned
      | none => .bad (match er with
        | some l => 2 ^ l
        | none => 0)

/-- The 80 stored bytes of a line, poisoned if asked (R238, R239 case 5). -/
def encodeLine (data : Line) (poison : Bool) : List Byte :=
  let d := symbolsOf (bytesOf 64 data.toNat)
  let w := d ++ rsCheck d
  bytesOfSymbols (if poison then flipChecks w else w)

/-! ## Clotu mode -/

/-- The check pair of a byte (R249). -/
def clotuPair (b : Byte) : Nat :=
  b2n (b.getLsbD 0 ^^ b.getLsbD 2 ^^ b.getLsbD 4 ^^ b.getLsbD 6) +
    2 * b2n (b.getLsbD 1 ^^ b.getLsbD 3 ^^ b.getLsbD 5 ^^ b.getLsbD 7)

/-- The 128-bit check field of 64 bytes. -/
def clotuField : List Byte → Nat
  | [] => 0
  | b :: bs => clotuPair b + 4 * clotuField bs

/-- The 80 stored bytes in Clotu mode. -/
def clotuEncode (data : Line) (poison : Bool) : List Byte :=
  let bs := bytesOf 64 data.toNat
  let f := clotuField bs
  bs ++ bytesOf 16 (if poison then f ^^^ (2 ^ 128 - 1) else f)

/-- A read in Clotu mode. -/
def clotuDecode (bytes : List Byte) : Decoded :=
  let bs := bytes.take 64
  let f := ofBytes (bytes.drop 64)
  let g := clotuField bs
  if f = g then .clean (lineOf bs)
  else if f = g ^^^ (2 ^ 128 - 1) then .poisoned
  else .bad (ofBits ((List.range 8).filter fun l => decide ((f ^^^ g) / 2 ^ (16 * l) % 65536 ≠ 0)))

/-- 80 stored bytes with the flip mask applied in each named layer (R254). -/
def flipBytes (bytes : List Byte) (layers mask : Nat) : List Byte :=
  bytesOf 80 (ofBytes bytes ^^^ sumTo (fun l => if layers.testBit l then mask * 2 ^ (64 * l) else 0) 10)

end Sys2Proof.Machine
end

