-- ==== Sys2Proof/Machine/Access.lean ====
section
/-!
DEFINITION. Reading and replacing the parts of the state: cores, vaults, bank units, tiles, crossings, ports, links;
which parts a part number has and which are usable; free values; island clocks.
-/
namespace Sys2Proof.Machine

/-! ## Parts of the state -/

def State.core (s : State) (c : Nat) : Core := tget Core.reset s.cores c
def State.vault (s : State) (t v : Nat) : Vault := tget Vault.reset s.vaults (64 * t + v)
def State.tile (s : State) (t : Nat) : Tile := tget Tile.reset s.tiles t
def State.port (s : State) (x : Nat) : Port := tget Port.reset s.ports x
def State.link (s : State) (n : Nat) : Link := tget Link.reset s.links n
def State.xing (s : State) (k : Nat) : Xing := tget Xing.reset s.xings k

/-- Key of a bank unit: vault, layer, pair. -/
def unitKey (t v layer pair : Nat) : Nat := ((64 * t + v) * 10 + layer) * 4 + pair
def State.unit (s : State) (k : Nat) : BankUnit := tget BankUnit.reset s.units k

def State.setCore (s : State) (c : Nat) (x : Core) : State := { s with cores := tset Core.reset s.cores c x }
def State.setVault (s : State) (t v : Nat) (x : Vault) : State :=
  { s with vaults := tset Vault.reset s.vaults (64 * t + v) x }
def State.setTile (s : State) (t : Nat) (x : Tile) : State := { s with tiles := tset Tile.reset s.tiles t x }
def State.setPort (s : State) (x : Nat) (p : Port) : State := { s with ports := tset Port.reset s.ports x p }
def State.setLink (s : State) (n : Nat) (l : Link) : State := { s with links := tset Link.reset s.links n l }
def State.setXing (s : State) (k : Nat) (x : Xing) : State := { s with xings := tset Xing.reset s.xings k x }
def State.setUnit (s : State) (k : Nat) (u : BankUnit) : State := { s with units := tset BankUnit.reset s.units k u }

def State.updCore (s : State) (c : Nat) (f : Core → Core) : State := s.setCore c (f (s.core c))
def State.updVault (s : State) (t v : Nat) (f : Vault → Vault) : State := s.setVault t v (f (s.vault t v))
def State.updTile (s : State) (t : Nat) (f : Tile → Tile) : State := s.setTile t (f (s.tile t))
def State.updPort (s : State) (x : Nat) (f : Port → Port) : State := s.setPort x (f (s.port x))
def State.updLink (s : State) (n : Nat) (f : Link → Link) : State := s.setLink n (f (s.link n))
def State.updXing (s : State) (k : Nat) (f : Xing → Xing) : State := s.setXing k (f (s.xing k))
def State.updUnit (s : State) (k : Nat) (f : BankUnit → BankUnit) : State := s.setUnit k (f (s.unit k))
def State.updDev (s : State) (f : Dev → Dev) : State := { s with dev := f s.dev }
def State.updSeq (s : State) (c : Nat) (f : Seq → Seq) : State := s.updCore c fun k => { k with seq := f k.seq }
def State.updMx (s : State) (c : Nat) (f : Mx → Mx) : State := s.updCore c fun k => { k with mx := f k.mx }
def State.updVx (s : State) (c : Nat) (f : Vx → Vx) : State := s.updCore c fun k => { k with vx := f k.vx }
def State.updCk (s : State) (c : Nat) (f : Ck → Ck) : State := s.updCore c fun k => { k with ck := f k.ck }
def State.updMirror (s : State) (f : Mirror → Mirror) : State := { s with mirror := f s.mirror }
def State.updPower (s : State) (f : Power → Power) : State := { s with power := f s.power }
def State.updSec (s : State) (f : Sec → Sec) : State := { s with sec := f s.sec }

/-- Channel 0 or 1 of a core. -/
def Core.chan (k : Core) (ch : Nat) : Chan := if ch = 0 then k.ch0 else k.ch1
def Core.setChan (k : Core) (ch : Nat) (x : Chan) : Core := if ch = 0 then { k with ch0 := x } else { k with ch1 := x }
def State.updChan (s : State) (c ch : Nat) (f : Chan → Chan) : State :=
  s.updCore c fun k => k.setChan ch (f (k.chan ch))

/-- One more output of the device, in order. -/
def State.emit (s : State) (o : Out) : State := { s with out := s.out ++ [o] }

/-- Fold an action over a list of places. -/
def forEach {α : Type} (l : List α) (s : State) (f : State → α → State) : State := l.foldl f s

/-! ## Free values -/

/-- A free value of w bits, and the state that has drawn it. -/
def drawBits (w : Nat) (s : State) : BitVec w × State := (Config.freeBits w s.free, { s with free := s.free + 1 })

/-- Count one draw. -/
def State.drawn (s : State) : State := { s with free := s.free + 1 }

/-! ## What the part has (R1, R2, R4, R15 to R19) -/

def tileOfCore (c : Nat) : Nat := c / 17
def coreWithin (c : Nat) : Nat := c % 17
def coreAt (t p : Nat) : Nat := 17 * t + p

/-- Tiles of the part, in order (R1). -/
def State.tileList (s : State) : List Nat := List.range s.fuses.part.tiles

/-- Cores of the part, in order (R4). -/
def State.coreList (s : State) : List Nat := List.range (17 * s.fuses.part.tiles)

/-- Vaults of the part as 64t + v. -/
def State.vaultList (s : State) : List Nat := List.range (64 * s.fuses.part.tiles)

/-- Links populated per photonic engine (R1). -/
def Part.linksPerEngine : Part → Nat
  | .rn802 => 1
  | .rn804 => 2
  | .rn808 => 4

/-- The link is populated on the part (R2). -/
def State.populated (s : State) (n : Nat) : Bool := decide (n < 24) && decide (n % 4 < s.fuses.part.linksPerEngine)

/-- Populated links, in order. -/
def State.linkList (s : State) : List Nat := (List.range 24).filter s.populated

/-- Default mirror links (R1): the populated links of PE5. -/
def State.defaultMirrorLinks (s : State) : List Nat := s.linkList.filter fun n => decide (20 ≤ n)

/-- The tile that a photonic engine attaches to (R16). -/
def engineTile : Part → Nat → Nat
  | .rn802, e => nth [0, 1, 0, 1, 0, 1] e 0
  | .rn804, e => nth [0, 1, 2, 3, 0, 3] e 0
  | .rn808, e => nth [0, 1, 2, 5, 6, 7] e 0

/-- Which of its tile's link-port blocks an engine is: counted over the engines of the tile (R211). -/
def engineBlock (p : Part) (e : Nat) : Nat :=
  ((List.range e).filter fun e' => engineTile p e' = engineTile p e).length

def State.tilePresent (s : State) (t : Nat) : Bool := decide (t < s.fuses.part.tiles)
def State.tileUsable (s : State) (t : Nat) : Bool := s.tilePresent t && !(s.tile t).lost
def State.vaultUsable (s : State) (t v : Nat) : Bool := s.tileUsable t && !(s.vault t v).lost
def State.coreUsable (s : State) (c : Nat) : Bool := s.tileUsable (tileOfCore c) && !(s.core c).lost

/-- Highest stacked-memory DA of the part, plus 1 (R1). -/
def State.stackedTop (s : State) : Nat := 2 ^ 37 * s.fuses.part.tiles

/-- Usable physical cores of a tile. -/
def State.usableCores (s : State) (t : Nat) : List Nat := (List.range 17).filter fun p => s.coreUsable (coreAt t p)

/-- Bit t set for each usable tile. -/
def State.usableTileMask (s : State) : Nat := ofBits (s.tileList.filter s.tileUsable)

/-- Core of tile t that the fuses give index i: the i-th core that is not the spare (R467). -/
def State.fusedCore (s : State) (t i : Nat) : Nat :=
  coreAt t (nth ((List.range 17).filter fun p => p ≠ nth s.fuses.spare t 16) i 0)

/-- The physical core that holds logical index l = 16t + i, if any (R4, R385). -/
def State.holderOf (s : State) (l : Nat) : Option Nat := tget (some (s.fusedCore (l / 16) (l % 16))) s.dev.holder l

/-- The logical core a physical core carries (R4). -/
def State.logicalOf (s : State) (c : Nat) : Option Nat :=
  ((List.range 16).map fun i => 16 * tileOfCore c + i).find? fun l => s.holderOf l = some c

/-- A logical core as a detail word: 0xFFFF_FFFF for none. -/
def State.logicalWord (s : State) (c : Nat) : Nat := (s.logicalOf c).getD 0xFFFFFFFF

/-- The core that holds no index of its tile and is usable: the free spare (R19, R383). -/
def State.freeSpare (s : State) (t : Nat) : Option Nat :=
  (s.usableCores t).map (coreAt t) |>.find? fun c => (s.logicalOf c).isNone

/-- Logical cores carried by a usable core, in order. -/
def State.usableLogical (s : State) : List Nat :=
  (List.range (16 * s.fuses.part.tiles)).filter fun l => match s.holderOf l with
    | some c => s.coreUsable c
    | none => false

/-- A link is up (R327). -/
def LinkState.isUp : LinkState → Bool
  | .up => true
  | .verified => true
  | _ => false

def State.linkUp (s : State) (n : Nat) : Bool := s.populated n && (s.link n).state.isUp

/-! ## Island clocks (R187, R188) -/

/-- The islands of the device. -/
inductive Island where
  | core (c : Nat)
  | fabric (t : Nat)
  | bridge (lo hi : Nat)
  | vault (t v : Nat)
  | bankBus (t v : Nat)
  | link (e : Nat)
  | host (x : Nat)
  | hub
  | control
  deriving DecidableEq, Repr

/-- A number for each island. -/
def Island.num : Island → Nat
  | .core c => c
  | .fabric t => 200 + t
  | .bridge a b => 300 + 10 * a + b
  | .vault t v => 1000 + 64 * t + v
  | .bankBus t v => 2000 + 64 * t + v
  | .link e => 400 + e
  | .host x => 410 + x
  | .hub => 420
  | .control => 421

/-- An island's cycle counter (R188): it starts at 0 at reset and counts every cycle of the island's own clock. -/
def State.cycles (s : State) (i : Island) : Nat := sumTo (Config.cycleRate i.num s.epoch) s.ticks

end Sys2Proof.Machine
end

