-- ==== Sys2Proof/Machine/Map.lean ====
section
/-!
DEFINITION. The address map (R3, R213 to R217), the fabric's routing tables (R197 to R199) and the crossings a request
passes on its way (R211, R212).
-/
namespace Sys2Proof.Machine

/-! ## Windows and lines -/

/-- A map window decoded (R214, R236); base and size in GiB. -/
structure Win where
  en : Bool
  order : Nat
  tiles : List Nat
  poff : Nat
  size : Nat
  base : Nat
  deriving DecidableEq, Repr

/-- The fields of VC_MAPWIN (R236). -/
def winOf (w : BitVec 64) : Win :=
  { en := tst w 63, order := fld w 62 61, tiles := onBits 8 (fld w 60 53), poff := fld w 52 46, size := fld w 45 36 + 1,
    base := fld w 35 26 }

/-- The active windows that are enabled, with their numbers. -/
def State.windows (s : State) : List (Nat × Win) :=
  (s.dev.active.zipIdx.map fun (w, i) => (i, winOf w)).filter fun e => e.2.en

/-- A physical line: tile, vault, and bank stack, row and column (R213). -/
structure Place where
  tile : Nat
  vault : Nat
  bs : Nat
  row : Nat
  col : Nat
  deriving DecidableEq, Repr

/-- A line's number within its vault: bank stack, row, column. -/
def Place.line (p : Place) : Nat := (p.bs * 16384 + p.row) * 256 + p.col

/-- The place that a vault's line number names. -/
def placeOf (t v line : Nat) : Place :=
  { tile := t, vault := v, bs := line / 2 ^ 22 % 8, row := line / 256 % 16384, col := line % 256 }

/-- Address of a line's 80 stored bytes in `State.mem`. -/
def lineKey (t v line : Nat) : Nat := (2 ^ 25 * (64 * t + v) + line) * 80

/-- The split of a tile-local offset (R216). -/
def splitP (order t p : Nat) : Place :=
  let slab := nfld p 36 30
  match order with
  | 0 => { tile := t, vault := nfld p 11 6, bs := nfld p 14 12, row := slab * 128 + nfld p 29 23, col := nfld p 22 15 }
  | 1 => { tile := t, vault := nfld p 29 24, bs := nfld p 23 21, row := slab * 128 + nfld p 20 14, col := nfld p 13 6 }
  | 2 => { tile := t, vault := nfld p 29 24, bs := nfld p 8 6, row := slab * 128 + nfld p 23 17, col := nfld p 16 9 }
  | _ => { tile := t, vault := nfld p 11 6 ^^^ nfld p 20 15 ^^^ nfld p 28 23, bs := nfld p 14 12 ^^^ nfld p 25 23,
           row := slab * 128 + nfld p 29 23, col := nfld p 22 15 }

/-- The tile-local offset of a line (R217). -/
def joinP (order : Nat) (l : Place) : Nat :=
  let s := l.row / 128
  let r := l.row % 128
  match order with
  | 0 => 2 ^ 30 * s + 2 ^ 23 * r + 2 ^ 15 * l.col + l.bs * 2 ^ 12 + l.vault * 2 ^ 6
  | 1 => 2 ^ 30 * s + 2 ^ 24 * l.vault + 2 ^ 21 * l.bs + 2 ^ 14 * r + l.col * 2 ^ 6
  | 2 => 2 ^ 30 * s + 2 ^ 24 * l.vault + 2 ^ 17 * r + l.col * 2 ^ 9 + l.bs * 2 ^ 6
  | _ => 2 ^ 30 * s + 2 ^ 23 * r + 2 ^ 15 * l.col + (l.bs ^^^ (r % 8)) * 2 ^ 12
      + (l.vault ^^^ (l.col % 64) ^^^ (r % 64)) * 2 ^ 6

/-- Tile and tile-local offset of an offset o into a window (R215). -/
def Win.locate (w : Win) (o : Nat) : Nat × Nat :=
  if w.order = 0 then
    let l := o / 64
    let n := w.tiles.length
    (nth w.tiles (l % n) 0, 2 ^ 30 * w.poff + 64 * (l / n) + o % 64)
  else (nth w.tiles 0 0, 2 ^ 30 * w.poff + o)

/-- The enabled window that holds a DA (R214). -/
def State.windowOf (s : State) (da : Nat) : Option Win :=
  ((s.windows.map Prod.snd).find? fun w => decide (2 ^ 30 * w.base ≤ da) && decide (da < 2 ^ 30 * (w.base + w.size)))

/-- The physical line of a stacked-memory DA (R215, R216); none: handled under R5. -/
def State.place (s : State) (da : Nat) : Option Place :=
  if da < s.stackedTop then
    match s.windowOf da with
    | some w => let tp := w.locate (da - 2 ^ 30 * w.base); some (splitP w.order tp.1 tp.2)
    | none => none
  else none

/-- The window through which a line is reached, and the DA (R217). -/
def State.lineDa (s : State) (l : Place) : Option Nat :=
  match (s.windows.map Prod.snd).find? fun w => w.tiles.contains l.tile && decide (w.poff ≤ l.row / 128) &&
      decide (l.row / 128 < w.poff + w.size / w.tiles.length) with
  | none => none
  | some w =>
    let p := joinP w.order l
    let o := p - 2 ^ 30 * w.poff
    if w.order = 0 then some (2 ^ 30 * w.base + 64 * (w.tiles.length * (o / 64) + w.tiles.idxOf l.tile))
    else some (2 ^ 30 * w.base + o)

/-- The order whose geometry a slab keeps (R246). -/
def State.slabOrder (s : State) (t slab : Nat) : Nat := tget 1 (s.tile t).slabs slab

/-- The granule of a line in its tile's directory: p[36:12] (R243). -/
def State.granuleOf (s : State) (l : Place) : Nat := joinP (s.slabOrder l.tile (l.row / 128)) l / 4096

/-- The lines of granule g of tile t, under the order of its slab (R246). -/
def State.granuleLines (s : State) (t g : Nat) : List Place :=
  (List.range 64).map fun i => splitP (s.slabOrder t (g / 2 ^ 18)) t (g * 4096 + 64 * i)

/-- The granule's bit is set (R243). -/
def State.granuleValid (s : State) (t g : Nat) : Bool := (s.tile t).granules.contains g

/-- DA span of a granule in a window: 4 KiB, or n × 4 KiB under LI (R247). -/
def Win.span (w : Win) : Nat := if w.order = 0 then 4096 * w.tiles.length else 4096

/-! ## Kinds of device address (R3) -/

/-- What a DA names (R3). -/
inductive DaKind where
  | stacked
  | scratch (c off : Nat)
  | csr
  | host (x addr : Nat)
  | peer (dst addr : Nat)
  | reserved
  deriving DecidableEq, Repr

/-- The device address map (R3), with the part's highest populated DAs (R1). -/
def State.kind (s : State) (da : Nat) : DaKind :=
  if da < 2 ^ 40 then (if da < s.stackedTop then .stacked else .reserved)
  else if da < 0x020000000000 then
    (let o := da % 2 ^ 40
     if o / 2 ^ 23 < 17 * s.fuses.part.tiles then .scratch (o / 2 ^ 23) (o % 2 ^ 23) else .reserved)
  else if da < 0x020010000000 then .csr
  else if da < 2 ^ 46 then .reserved
  else if da < 2 ^ 47 then .host (da / 2 ^ 45 % 2) (da % 2 ^ 45)
  else if da < 2 ^ 47 + 2 ^ 46 then .peer (da / 2 ^ 34 % 4096) (da % 2 ^ 34)
  else .reserved

/-! ## The mesh and the bridges -/

/-- The tile reached through a bridge port (R197); none: absent on the part. -/
def State.neighbour (s : State) (t b : Nat) : Option Nat :=
  match b with
  | 0 => if 2 ≤ t then some (t - 2) else none
  | 1 => if t + 2 < s.fuses.part.tiles then some (t + 2) else none
  | 2 => if s.tilePresent (t ^^^ 1) then some (t ^^^ 1) else none
  | _ => none

/-- FAB_PORTS.PRESENT of a tile (R210). -/
def State.portPresent (s : State) (t b : Nat) : Bool := (s.neighbour t b).isSome || (decide (b = 3) && decide (t < 2))

/-- One round of a shortest-path search back from the tiles already reached. -/
def State.spread (s : State) (reached : List (Nat × Nat)) (d : Nat) : List (Nat × Nat) :=
  reached ++ (s.tileList.filter fun t => s.tileUsable t && !(reached.any fun e => e.1 = t) &&
    [0, 1, 2].any fun b => match s.neighbour t b with
      | some u => reached.any fun e => e.1 = u && e.2 = d
      | none => false).map fun t => (t, d + 1)

/-- Distances in hops to a set of tiles over usable tiles. -/
def State.distances (s : State) (dst : List Nat) : List (Nat × Nat) :=
  (List.range 8).foldl (fun r d => s.spread r d) ((dst.filter s.tileUsable).map fun t => (t, 0))

/-- Distance of a tile; none: unreachable. -/
def distOf (ds : List (Nat × Nat)) (t : Nat) : Option Nat := (ds.find? fun e => e.1 = t).map Prod.snd

/-- The port of tile t on a shortest path: along the row first (R198, R199). -/
def State.nextPort (s : State) (ds : List (Nat × Nat)) (t : Nat) : Option Nat :=
  match distOf ds t with
  | none => none
  | some 0 => none
  | some (d + 1) => [0, 1, 2].find? fun b => match s.neighbour t b with
      | some u => s.tileUsable u && decide (distOf ds u = some d)
      | none => false

/-- The tile through which traffic between tile t and the hub passes: of tiles 0 and 1 the nearer over usable tiles, which
is tile t mod 2 while its row stands; the two are never equally far (R198, R199). -/
def State.hubTile (s : State) (t : Nat) : Option Nat :=
  match distOf (s.distances [t % 2]) t, distOf (s.distances [1 - t % 2]) t with
  | some a, some b => if b < a then some (1 - t % 2) else some (t % 2)
  | some _, none => some (t % 2)
  | none, some _ => some (1 - t % 2)
  | none, none => none

/-- FAB_ROUTE.TOd of tile t (R210). -/
def State.routePort (s : State) (t d : Nat) : Nat :=
  if !s.tileUsable t then 0xF
  else if t = d then 0xE
  else match s.nextPort (s.distances [d]) t with
    | some b => b
    | none => 0xF

/-- FAB_ROUTE.HUB of tile t: the port towards the hub. -/
def State.routeHub (s : State) (t : Nat) : Nat :=
  match s.hubTile t with
  | none => 0xF
  | some h => if t = h then 3 else s.routePort t h

/-! ## Crossings on the way -/

/-- Key of crossing n of window w (R211, R212, R380). -/
def xkey (w n : Nat) : Nat := w * 256 + n

/-- A stop of the fabric: an end of a path. -/
inductive Stop where
  | core (c : Nat)
  | ledger (t : Nat)
  | vault (t v : Nat)
  | engine (e : Nat)
  | hostPort (x : Nat)
  | control
  deriving DecidableEq, Repr

/-- The crossings from tile t's mesh to tile u's mesh, with fuel for the hops. -/
def State.meshPath (s : State) (u : Nat) : Nat → Nat → Option (List Nat)
  | 0, t => if t = u then some [] else none
  | k + 1, t =>
    if t = u then some []
    else match s.routePort t u with
      | 0xF => none
      | b => match s.neighbour t b with
        | none => none
        | some w =>
          let back := if b = 2 then 2 else 1 - b
          (s.meshPath u k w).map fun r => xkey t (200 + b) :: xkey w (192 + back) :: r

/-- The tile of a stop; none for the hub. -/
def State.stopTile (s : State) : Stop → Option Nat
  | .core c => some (tileOfCore c)
  | .ledger t => some t
  | .vault t _ => some t
  | .engine e => some (engineTile s.fuses.part e)
  | _ => none

/-- The crossings by which a stop enters its mesh, or the hub. -/
def State.inPath (s : State) : Stop → List Nat
  | .core c => [xkey (tileOfCore c) (coreWithin c)]
  | .ledger _ => []
  | .vault t v => [xkey t (64 + v)]
  | .engine e => [xkey (engineTile s.fuses.part e) (208 + engineBlock s.fuses.part e)]
  | .hostPort x => [xkey (9 + x) 1, xkey 8 (208 + x)]
  | .control => [xkey 8 210]

/-- The crossings by which a stop is reached from its mesh, or the hub. -/
def State.outPath (s : State) : Stop → List Nat
  | .core c => [xkey (tileOfCore c) (32 + coreWithin c)]
  | .ledger _ => []
  | .vault t v => [xkey t (128 + v)]
  | .engine e => [xkey (engineTile s.fuses.part e) (216 + engineBlock s.fuses.part e)]
  | .hostPort x => [xkey 8 (216 + x), xkey (9 + x) 0]
  | .control => [xkey 8 218]

/-- The crossings of a path between two stops (R198, R199, R469); none: no path over usable tiles. -/
def State.path (s : State) (a b : Stop) : Option (List Nat) :=
  let mid := match s.stopTile a, s.stopTile b with
    | some t, some u => s.meshPath u 8 t
    | some t, none => match s.hubTile t with
      | some h => (s.meshPath h 8 t).map fun r => r ++ [xkey h 203, xkey 8 (192 + h)]
      | none => none
    | none, some u => match s.hubTile u with
      | some h => (s.meshPath u 8 h).map fun r => [xkey 8 (200 + h), xkey h 195] ++ r
      | none => none
    | none, none => some []
  mid.map fun r => s.inPath a ++ r ++ s.outPath b

end Sys2Proof.Machine
end

