-- ==== Sys2Proof/Machine/LinkOps.lean ====
section
/-!
DEFINITION. Sending on the device links (R324 to R336): routing, message headers with their end-to-end checks, flits
with sequence numbers, credits and the retry buffer.
-/
namespace Sys2Proof.Machine

/-- Where the routing table sends a message (R331). -/
inductive Route where
  | here
  | links (l : List Nat)
  | unreachable
  deriving DecidableEq, Repr

/-- The routing entry of a destination as it stands (R330, R331). -/
def State.route (s : State) (dst : Nat) : Route :=
  if s.dev.devid = 0xFFF ∨ dst = 0xFFF then .unreachable
  else if dst = s.dev.devid.toNat then .here
  else
    let e := tget 0 s.dev.routes dst
    if fld e 63 62 = 1 then .here
    else if fld e 63 62 = 2 then
      match (onBits 24 (fld e 23 0)).filter s.linkUp with
      | [] => .unreachable
      | l => .links l
    else .unreachable

/-- The links of the mirror mask, in order (R339). -/
def State.mirrorMask (s : State) : List Nat :=
  if s.mirror.linksDefault then s.defaultMirrorLinks else onBits 24 s.mirror.links.toNat

/-- The mirror links that are up: with mask 0 those that are pair-verified (R339). A device without an ID has none, as it
carries only link-management flits (R330). -/
def State.mirrorUp (s : State) : List Nat :=
  if s.dev.devid = 0xFFF then []
  else s.mirrorMask.filter fun n =>
    if s.mirror.linksDefault then decide ((s.link n).state = .verified) else s.linkUp n

/-- The message type of a header (R334, R336). -/
def Msg.mt (m : Msg) : Nat := fld m.hdr 31 28

/-- Response-class message types (R333). -/
def isResponse (mt : Nat) : Bool := mt = 4 || mt = 5 || mt = 0xA || mt = 0xE

/-- The four 16-byte units of a line. -/
def lineUnits (l : Line) : List (BitVec 128) := (List.range 4).map fun i => BitVec.ofNat 128 (fld l (128 * i + 127) (128 * i))

/-- The line that four units make. -/
def unitsLine (us : List (BitVec 128)) : Line := packW 512 ((us.take 4).zipIdx.map fun (u, i) => (128 * i, u.toNat))

/-- The bytes of units. -/
def unitBytes (us : List (BitVec 128)) : List Byte := us.flatMap fun u => bytesOf 16 u.toNat

/-- CRC of a control message: header bytes 0 to 11 with HOPS 0, then the body (R336). -/
def controlCrc (m : Msg) : BitVec 32 := crc32c (bytesOf 12 (setFld m.hdr 15 12 0).toNat ++ unitBytes m.body)

/-- CRC of a data message, with the 32-bit value S between header and body (R335). -/
def dataCrc (m : Msg) (st : BitVec 32) : BitVec 32 :=
  crc32c (bytesOf 12 (setFld m.hdr 15 12 0).toNat ++ bytesOf 4 st.toNat ++ unitBytes m.body)

/-- A data message with its CRC (R334, R335). -/
def dataMsg (s : State) (addr dst mt nl aop page : Nat) (pois : Bool) (tag : Nat) (st : BitVec 32)
    (body : List (BitVec 128)) : Msg :=
  let m : Msg := { hdr := packW 128 [(56, addr % 2 ^ 40), (44, dst % 4096), (32, s.dev.devid.toNat), (28, mt), (24, nl),
    (21, aop), (19, page), (18, b2n pois), (16, st.toNat % 4), (0, tag % 4096)], body := body }
  { m with hdr := setFld m.hdr 127 96 (dataCrc m st).toNat }

/-! ## Flits -/

/-- A flit as link n sends it (R324): every one carries a valid ACK or NAK and the credits to return. -/
def makeFlit (l : Link) (fkind payload : Nat) (nak : Bool) : BitVec 2048 :=
  let body := pack [(0, payload % 2 ^ 1920), (1952, min 63 l.rsBack), (1958, min 63 l.rqBack), (1964, fkind),
    (1966, b2n nak), (1968, (l.expSeq - 1).toNat), (1992, l.nextSeq.toNat)]
  packW 2048 [(0, body), (2016, (crc32c (bytesOf 252 body)).toNat)]

/-- One item through a crossing of a link port or host port that is never full in the model (R212). -/
def passItem (s : State) (k : Nat) : State :=
  s.updXing k fun x => { x with sent := x.sent + 1, taken := x.taken + 1 }

/-- One item of the store, of the mirror set or of the control cluster passes the crossings between two stops; it is counted
at each (R196, R211, R469). -/
def crossAt (s : State) (a b : Stop) : State :=
  match s.path a b with
  | some p => forEach p s passItem
  | none => s

/-- Link n sends one flit. Message and management flits take a sequence number, a credit of their class and a place
in the retry buffer (R325). -/
def sendFlit (s : State) (n fkind payload : Nat) (nak : Bool) : State :=
  let l := s.link n
  let f := makeFlit l fkind payload nak
  let l := { l with rqBack := l.rqBack - min 63 l.rqBack, rsBack := l.rsBack - min 63 l.rsBack }
  let l := if fkind = 2 then l else { l with retryBuf := l.retryBuf ++ [(l.nextSeq, f)], nextSeq := l.nextSeq + 1 }
  let l := if fkind = 0 then { l with rqCred := l.rqCred - 1 }
    else if fkind = 1 then { l with rsCred := l.rsCred - 1 } else l
  passItem ((s.setLink n l).emit (.flit n f)) ((16 + n / 4) * 256 + 2 * (n % 4))

/-- The payload of a flit: up to 15 units from bit 0 up; a zero unit ends the messages (R324, R333). -/
def payloadOf (us : List (BitVec 128)) : Nat := pack (us.zipIdx.map fun (u, i) => (128 * i, u.toNat))

/-- The units of a message cut into flits of 15. -/
def flitChunks : Nat → List (BitVec 128) → List (List (BitVec 128))
  | 0, _ => []
  | _ + 1, [] => []
  | k + 1, us => us.take 15 :: flitChunks k (us.drop 15)

/-- Send one message if credits and the retry buffer allow (R325); the flag says whether it went. -/
def trySend (s : State) (n : Nat) (m : Msg) : State × Bool :=
  let us := m.hdr :: m.body
  let chunks := flitChunks us.length us
  let l := s.link n
  let cred := if isResponse m.mt then l.rsCred else l.rqCred
  if chunks.length ≤ cred ∧ l.retryBuf.length + chunks.length ≤ 4096 then
    (forEach chunks s fun s ch => sendFlit s n (b2n (isResponse m.mt)) (payloadOf ch) false, true)
  else (s, false)

/-- Send what waits, in order within each class; what cannot go is kept (R325). -/
def flushQueue (n : Nat) : List Msg → Bool → Bool → State → State
  | [], _, _, s => s
  | m :: ms, rqStop, rsStop, s =>
    if (if isResponse m.mt then rsStop else rqStop) then
      flushQueue n ms rqStop rsStop (s.updLink n fun l => { l with txMsgs := l.txMsgs ++ [m] })
    else
      match trySend s n m with
      | (s, true) => flushQueue n ms rqStop rsStop s
      | (s, false) => flushQueue n ms (rqStop || !isResponse m.mt) (rsStop || isResponse m.mt)
          (s.updLink n fun l => { l with txMsgs := l.txMsgs ++ [m] })

/-- Send what waits on a link that is up; a device without an ID sends no messages (R330). -/
def flushLink (s : State) (n : Nat) : State :=
  if s.linkUp n && decide (s.dev.devid ≠ 0xFFF) then
    let ms := (s.link n).txMsgs
    flushQueue n ms false false (s.updLink n fun l => { l with txMsgs := [] })
  else s

/-- Hand a message to link n. A link that is down loses it (R329), and so does a device without an ID (R330). -/
def sendMsg (s : State) (n : Nat) (m : Msg) : State :=
  if s.linkUp n && decide (s.dev.devid ≠ 0xFFF) then flushLink (s.updLink n fun l => { l with txMsgs := l.txMsgs ++ [m] }) n else s

/-- A control message to dst on link n (R336): the alive counter of that destination and type advances first. A device
without an ID carries no messages (R330); it passes from the control cluster to the link port (R469); with tiles 0 and 1 both lost the hub reaches no link (R392). -/
def sendControl (s : State) (n dst mt : Nat) (word : BitVec 32) (res : Nat) (body : List (BitVec 128)) : State :=
  if decide (s.dev.devid = 0xFFF) || (!s.tileUsable 0 && !s.tileUsable 1) then s
  else
  let k := dst * 16 + mt
  let a := tget 0 s.mirror.aliveTx k + 1
  let s := s.updMirror fun m => { m with aliveTx := tset 0 m.aliveTx k a }
  let msg : Msg := { hdr := packW 128 [(64, word.toNat), (56, res), (44, dst), (32, s.dev.devid.toNat), (28, mt),
    (24, a.toNat), (16, body.length)], body := body }
  sendMsg (crossAt s .control (.engine (n / 4))) n { msg with hdr := setFld msg.hdr 127 96 (controlCrc msg).toNat }

/-- A control message to the partner: on the lowest-numbered up mirror link, or by the routing table when none is up
(R331, R344). -/
def sendToPartner (s : State) (dst mt : Nat) (word : BitVec 32) (res : Nat) (body : List (BitVec 128)) : State :=
  match s.mirrorUp with
  | n :: _ => sendControl s n dst mt word res body
  | [] => match s.route dst with
    | .links (n :: _) => sendControl s n dst mt word res body
    | _ => s

/-- A data message towards dst by the routing table: the link at position floor(ADDR / 1,024) mod k (R331). -/
def pickLink (l : List Nat) (addr : Nat) : Nat := nth l (addr / 1024 % l.length) 0

/-- A data message to dst on the link that the routing table picks; unreachable, it is lost (R331). -/
def sendRouted (s : State) (dst addr : Nat) (m : Msg) : State :=
  match s.route dst with
  | .links ls => sendMsg s (pickLink ls addr) m
  | _ => s

end Sys2Proof.Machine
end

