-- ==== Sys2Proof/Machine/Ops.lean ====
section
/-!
DEFINITION. The shared operations of the control cluster: the device state and the generation, status and fault
records with their rings and interrupts, halting a step (R22 to R26, R297, R304, R315, R319, R378, R379).
-/
namespace Sys2Proof.Machine

/-- State codes (R22). -/
def DevState.code : DevState → Nat
  | .off => 0 | .boot => 1 | .ready => 2 | .booked => 3 | .running => 4 | .halted => 5 | .bank => 6
  | .degraded => 7 | .grey => 8 | .frozen => 9

/-- Some usable resource is missing (R23). -/
def State.lessThanWhole (s : State) : Bool :=
  s.tileList.any (fun t => !s.tileUsable t || decide ((s.usableCores t).length < 16)) ||
    s.vaultList.any (fun i => (tget Vault.reset s.vaults i).lost)

/-- The idle state (R23). -/
def State.idleState (s : State) : DevState := if s.lessThanWhole then .degraded else .ready

/-- A change of device state adds one to the plan generation; the same state again changes nothing (R25). -/
def State.enter (s : State) (d : DevState) : State :=
  if s.dev.state = d then s else s.updDev fun v => { v with state := d, gen := v.gen + 1 }

/-- A plan is booked (R24). -/
def State.planBooked (s : State) : Bool :=
  s.dev.state = .booked || s.dev.state = .running || s.dev.state = .halted

/-- A step runs. -/
def State.running (s : State) : Bool := s.dev.state = .running

/-- 0xFFFF_FFFF, the word that does not apply (R368, R379). -/
def noWord : Nat := 0xFFFFFFFF

/-- The least clock of a tile's cores in MHz: PM_FLOORCLK while a plan is booked and the step is at F or above (R373, R409). -/
def State.leastClock (s : State) (x : Tile) : Nat :=
  if s.planBooked && decide (s.fuses.floorStep ≤ x.step) then max 600 s.fuses.floorClk else 600

/-- The control cluster and the host ports run: the device is supplied, out of reset and not frozen (R398, R441). -/
def State.awake (s : State) : Bool := !s.dev.inReset && decide (s.dev.state ≠ .off) && decide (s.dev.state ≠ .frozen)

/-- Every island runs; in GREY only the control cluster, HP0, SMBus and JTAG do (R27). -/
def State.clocked (s : State) : Bool := s.awake && decide (s.dev.state ≠ .grey)

/-- Answers that a core can take now. -/
def State.inboxOf (s : State) (c : Nat) : List Rsp := if s.clocked then (s.core c).inbox else []

/-! ## Host memory and interrupts -/

/-- Key of a host physical address behind port x (R283). -/
def hostKey (x a : Nat) : Nat := 2 ^ 52 * x + a % 2 ^ 52

/-- The translation that covers a host address (R284). -/
def Port.translation (p : Port) (addr : Nat) : Option Atc :=
  p.atc.find? fun e => decide (e.page.toNat ≤ addr) && decide (addr < e.page.toNat + 2 ^ e.log2)

/-- The host physical address of a host address that a translation covers (R284): the place in the page goes over. -/
def Atc.phys (e : Atc) (addr : Nat) : Nat := e.hpa.toNat / 2 ^ e.log2 * 2 ^ e.log2 + addr % 2 ^ e.log2

/-- The host physical address of host address a of port x (R283, R284). -/
def State.hostPhys (s : State) (x a : Nat) : Nat :=
  let p := s.port x
  if p.atsEn then match p.translation a with
    | some e => e.phys a
    | none => Config.hostPage x (a / 4096) % 2 ^ 40 * 4096 + a % 4096
  else a

/-- The port carries traffic: up with Bus Master Enable (R283). -/
def Port.live (p : Port) : Bool := p.up && p.bme && !p.perst && p.losing.isNone

/-- A host physical address lies in a peer's BAR or HDM range that UIO reaches (R295). -/
def Port.peerAt (p : Port) (h : Nat) : Bool := p.peers.any fun r => decide (r.1 ≤ h) && decide (h < r.1 + r.2)

/-- The request that a write to host physical address h goes out as (R281, R288, R295). -/
def Port.writeReq (p : Port) (h : Nat) (mask : BitVec 64) : HostReq :=
  if p.peerAt h then .uioWr else if !p.cxlCache then .memWr else if mask = fullMask then .itoMWr else .woWrInv

/-- The request that a read of host physical address h goes out as; `keep`: a line that the port caches (R281, R286, R295). -/
def Port.readReq (p : Port) (h : Nat) (keep : Bool) : HostReq :=
  if p.peerAt h then .uioRd else if !p.cxlCache then .memRd else if keep then .rdShared else .rdCurr

/-- A write of the device lands at a host physical address. -/
def landHost (s : State) (x h : Nat) (mask : BitVec 64) (d : Line) (poison : Bool) : State :=
  ({ s with hostMem := memWriteMasked s.hostMem (hostKey x h) mask.toNat (bytesOf 64 d.toNat) }).emit (.hostWrite x h mask d poison)

/-- The device writes bytes at host address a through port x (R288); a port that is not live refuses it (R283). -/
def hostWriteLine (s : State) (x a : Nat) (mask : BitVec 64) (d : Line) (poison : Bool) : State :=
  let h := s.hostPhys x a
  if (s.port x).live then landHost (s.emit (.hostReq x ((s.port x).writeReq h mask) h)) x h mask d poison
  else s.updPort x fun p => { p with noport := satAdd p.noport 1 }

/-! ## Lines of the host that a port caches (R286, R287) -/

/-- Set of a host line among the 8,192 of a 16-way cache of 131,072 lines. DESIGN CHOICE (log 162): the line's low bits. -/
def cacheSet (h : Nat) : Nat := h / 64 % 8192

/-- The port holds a host line, or holds it as Modified. -/
def Port.holds (p : Port) (h : Nat) : Bool := p.cache.any fun e => e.1 = h
def Port.owns (p : Port) (h : Nat) : Bool := p.cache.any fun e => e.1 = h && e.2

/-- The line evicted for line h: of a full set, the one held longest (DESIGN CHOICE, log 162). -/
def Port.evicted (p : Port) (h : Nat) : Option (Nat × Bool) :=
  let set := p.cache.filter fun e => decide (cacheSet e.1 = cacheSet h)
  if p.holds h then none else if 16 ≤ set.length then set.head? else none

/-- A modified line is written back to the host (R287). -/
def writeBack (s : State) (x h : Nat) : State := s.emit (.hostWrite x h fullMask (memLine s.hostMem (hostKey x h)) false)

/-- Port x holds a host line from now on, Modified where `m` says so or it was; a modified line that it evicts for it is
written back (R286, R287). -/
def cacheLine (s : State) (x h : Nat) (m : Bool) : State :=
  let v := (s.port x).evicted h
  let s := match v with
    | some (l, true) => writeBack s x l
    | _ => s
  s.updPort x fun p => { p with
    cache := (p.cache.filter fun e => decide (e.1 ≠ h) && decide (some e.1 ≠ v.map Prod.fst)) ++ [(h, m || p.owns h)] }

/-- Buaman writes a line of a status or fault ring: under CXL.cache the port owns the line and holds it Modified until it is
written back, else it is a write of its own (R281, R286). -/
def ringWrite (s : State) (x a : Nat) (d : Line) : State :=
  let p := s.port x
  let h := s.hostPhys x a
  if p.live && p.cxlCache && !p.peerAt h then
    let s := if p.owns h then s else s.emit (.hostReq x .rdOwn h)
    cacheLine { s with hostMem := memWrite s.hostMem (hostKey x h) (bytesOf 64 d.toNat) } x h true
  else hostWriteLine s x a fullMask d false

/-- Send MSI-X vector v of port x: a memory write of its own, which a port without Bus Master Enable does not make (R297). -/
def sendMsix (s : State) (x v : Nat) : State :=
  let p := s.port x
  if !p.live then s
  else if nth p.masked v true then s.setPort x { p with pendingMsix := p.pendingMsix.set v true }
  else if p.recovering ∨ (nth p.heldMsix v (false, false)).1 then
    s.setPort x { p with heldMsix := p.heldMsix.set v ((nth p.heldMsix v (false, false)).1, true) }
  else (s.setPort x { p with heldMsix := p.heldMsix.set v (decide (p.holdoff ≠ 0), false) }).emit (.msix x v)

/-- Send a vector on both ports. -/
def sendMsixBoth (s : State) (v : Nat) : State := sendMsix (sendMsix s 0 v) 1 v

/-- A command has changed the device state from `prev`: vector 3 follows its status record (R297). -/
def tellMove (s : State) (prev : DevState) : State := if s.dev.state = prev then s else sendMsixBoth s 3

/-! ## Rings (R297, R302 to R304) -/

/-- Entries of a ring: LOG2N from 6 to 16 (R301). -/
def Ring.size (r : Ring) : Nat := 2 ^ max 6 (min 16 r.log2n.toNat)

/-- The next lap or sequence byte: from 0xFF to 0x01, never 0x00 (R303, R304). -/
def nextLap (b : Byte) : Byte := if b = 0xFF then 1 else b + 1

/-- Ring 1 (status) or 2 (fault) of a port. -/
def Port.ring (p : Port) (r : Nat) : Ring := if r = 0 then p.cmd else if r = 1 then p.stat else p.fault
def Port.setRing (p : Port) (r : Nat) (g : Ring) : Port :=
  if r = 0 then { p with cmd := g } else if r = 1 then { p with stat := g } else { p with fault := g }

/-- Post one record to ring r of port x, if that ring is enabled and the link up (R304): the slot's lap byte advances,
the record is sealed with it, TAIL moves on, and the ring's vector is sent. -/
def postToPort (s : State) (x r : Nat) (fields : Nat) : State :=
  let p := s.port x
  let g := p.ring r
  if g.en && p.up then
    let lap := nextLap (tget 0 g.slots g.tail)
    let rec' := sealRecord (fields + lap.toNat * 2 ^ 8)
    let s := s.setPort x (p.setRing r { g with slots := tset 0 g.slots g.tail lap, tail := (g.tail + 1) % g.size })
    let s := ringWrite (crossAt s .control (.hostPort x)) x (g.base.toNat + 64 * g.tail) rec'
    if p.live then sendMsix (s.emit (.record x r g.tail rec')) x (r - 1) else s
  else s

/-- The source codes of a status record (R315). -/
def Src.code : Src → Nat
  | .hp0 => 0 | .hp1 => 1 | .partner => 2

/-- Post a status record (R315). Its generation and state are those after the command or event. -/
def postStatus (s : State) (kind opc tag status cause src : Nat) (ws : List Nat) : State :=
  let fields := pack ([(0, kind), (16, tag), (32, opc), (40, status), (48, s.dev.state.code), (52, src),
    (64, s.dev.gen.toNat), (96, s.dev.recno.toNat), (128, cause)] ++
    (ws.take 9).zipIdx.map fun (w, k) => (160 + 32 * k, w % 2 ^ 32))
  let s := s.updDev fun d => { d with recno := d.recno + 1 }
  let s := postToPort (postToPort s 0 1 fields) 1 1 fields
  if src = 2 then
    let r := sealRecord fields
    sendToPartner s s.mirror.partner.toNat 0xE 0 0 (lineUnits r)
  else s

/-! ## Fault records (R378, R379, R319) -/

/-- The next fault sequence number: from 0xFFFF_FFFF to 1 (R379). -/
def nextFaultSeq (q : BitVec 32) : BitVec 32 := if q = 0xFFFFFFFF then 1 else q + 1

/-- Room for a new record among 4,096: the oldest cleared one goes first, else the oldest (R319). -/
def dropOldest (l : List FaultRec) : List FaultRec :=
  if l.length < 4096 then l
  else match l.findIdx? (·.cleared) with
    | some i => l.eraseIdx i
    | none => l.tail

/-- Post a fault record, the device already being as the fault left it (R378). -/
def postFaultRec (s : State) (cls reason : Nat) (ds : List Nat) (cause : BitVec 32) (more halted chg : Bool) : State :=
  let q := s.dev.faultSeq
  let fields := pack ([(0, 0x10), (37, b2n chg), (38, b2n halted), (39, b2n more), (44, s.dev.state.code), (48, reason),
    (56, cls), (64, s.dev.step.toNat), (96, s.dev.gen.toNat), (128, q.toNat), (160, cause.toNat),
    (192, s.cycles .control % 2 ^ 64)] ++ (ds.take 7).zipIdx.map fun (w, k) => (256 + 32 * k, w % 2 ^ 32))
  let s := s.updDev fun d => { d with
    faultSeq := nextFaultSeq q, lastFault := q,
    faults := dropOldest d.faults ++ [{ bits := sealRecord fields, cleared := false }] }
  postToPort (postToPort s 0 2 fields) 1 2 fields

/-- A fault that changes no state. -/
def postFault (s : State) (cls reason : Nat) (ds : List Nat) (cause : BitVec 32) : State :=
  postFaultRec s cls reason ds cause false false false

/-- Legs complete over the ledgers of all tiles (R315 record 0x03). -/
def State.legsDone (s : State) : Nat :=
  (s.tileList.map fun t => ((s.tile t).done.map (·.toNat)).foldl (· + ·) 0).foldl (· + ·) 0

/-- A core stops with its step: it runs no leg and no timer (R394). -/
def Core.stopLeg (k : Core) : Core :=
  { k with seq := { k.seq with phase := .idle, wait := .none }, dem := { k.dem with timing := false } }

/-- A running step stops into HALTED (R24). A mirror commit whose COMMIT is sent runs to its end, one before that is
dropped (R395); no leg waits to be repeated. -/
def haltStep (s : State) : State :=
  let s := forEach (s.cores.map Prod.fst) s fun s c => s.updCore c Core.stopLeg
  let s := s.updMirror fun m => { m with commit := m.commit.filter (·.sent) }
  (s.updDev fun d => { d with commitDone := none, remaps := [] }).enter .halted

/-- The status record of a halt, and its vector (R297, R315). -/
def postHalted (s : State) (cause : BitVec 32) : State :=
  sendMsixBoth (postStatus s 0x03 0xFF 0 0 cause.toNat 3 [s.dev.step.toNat, s.legsDone]) 2

/-- The status record of a state change by an event, and its vector (R315 kind 0x04, R378). -/
def postChange (s : State) (prev : DevState) (cause : BitVec 32) : State :=
  sendMsixBoth (postStatus s 0x04 0xFF 0 0 cause.toNat 3 [prev.code]) 3

/-- A loss while a BOOK is in progress: BOOK is undone and refused with DEGRADED (R395). DEDUCED (log 172): W3 is 0x0011 for a
vault, 0x0010 for a core or a tile; the first loss is the one reported. -/
def noteLoss (s : State) (cls : Nat) : State :=
  match s.dev.long with
  | some l => if fld l.pkt 7 0 = 0x08 ∧ s.dev.bookLoss = none then
      s.updDev fun d => { d with bookLoss := some (if cls = 0x09 then 0x11 else 0x10) } else s
  | none => s

/-- A loss of R24 (CORE_LOST that leaves an index uncarried, TILE_LOST, VAULT_LOST; `idle` false for HOST_LINK_LOST):
a running step halts, an idle READY device becomes DEGRADED, and the fault is posted as it left the device. -/
def postLoss (s : State) (cls reason : Nat) (ds : List Nat) (cause : BitVec 32) (idle : Bool) : State :=
  let prev := s.dev.state
  let s := if idle then noteLoss s cls else s
  let s := if prev = .running then haltStep s
    else if idle && prev = .ready then s.enter s.idleState else s
  let chg := decide (s.dev.state ≠ prev)
  let s := postFaultRec s cls reason ds cause false (decide (prev = .running)) chg
  if prev = .running then postHalted s s.dev.lastFault
  else if chg then postChange s prev s.dev.lastFault else s

end Sys2Proof.Machine
end

