-- ==== Sys2Proof/Machine/VaultOps.lean ====
section
/-!
DEFINITION. One vault's line accesses: decode with its counters, latches and records, encode, flip mask, granules,
and what a change of a mapped line owes the mirror (R237 to R258, R342).
-/
namespace Sys2Proof.Machine

/-! ## Rows (R224, R229, R230) -/

/-- The threshold in force (R231). -/
def Vault.threshold (v : Vault) : Nat := max 64 v.thresh.toNat

/-- Index of the entry with the lowest count, the lowest-numbered on a tie. -/
def lowestEntry (l : List (Nat × Nat)) : Nat :=
  (l.zipIdx.foldl (fun (b : Nat × Nat) e => if e.1.2 < b.1 then (e.1.2, e.2) else b) (2 ^ 17, 0)).2

/-- One activate of row r into a bank stack's activate table (R229). -/
def countActivate (l : List (Nat × Nat)) (r : Nat) : List (Nat × Nat) :=
  if l.any fun e => e.1 = r then l.map fun e => if e.1 = r then (r, min 0xFFFF (e.2 + 1)) else e
  else if l.length < 32 then l ++ [(r, 1)]
  else
    let i := lowestEntry l
    l.set i (r, min 0xFFFF ((nth l i (0, 0)).2 + 1))

/-- Some row of the bank stack has reached the threshold: a neighbour refresh is due before another activate (R230). -/
def Vault.neighbourDue (v : Vault) (b : Nat) : Bool := (nth v.acts b []).any fun e => decide (v.threshold ≤ e.2)

/-- Row r of bank stack b is opened if it is not open: an activate is counted (R229). -/
def Vault.openAt (v : Vault) (b r : Nat) : Vault :=
  if nth v.openRow b none = some r then v
  else { v with openRow := v.openRow.set b (some r), acts := v.acts.set b (countActivate (nth v.acts b []) r) }

/-- The row is precharged. -/
def Vault.close (v : Vault) (b : Nat) : Vault := { v with openRow := v.openRow.set b none }

/-- After a column transfer, the request's page hint: 2 closes the row, any other is kept with the open row (R130, R224). -/
def Vault.afterTransfer (v : Vault) (b hint : Nat) : Vault :=
  if hint = 2 then v.close b else { v with rowHint := v.rowHint.set b hint }

/-- One column transfer: its row is opened if need be, and the hint decides what follows (R224, R229). -/
def Vault.transfer (v : Vault) (b r hint : Nat) : Vault := (v.openAt b r).afterTransfer b hint

/-- Four refreshes of bank stack b are owed: the next goes ahead of everything else (R228). -/
def Vault.owesFour (v : Vault) (b : Nat) : Bool := decide (4 ≤ nth v.refBal b 0)

/-- Bank stack b has a kernel of pair group b / 2 on it (R268). -/
def Vault.kernelOn (v : Vault) (b : Nat) : Bool :=
  match nth v.kernels (b / 2) none with
  | some k => k.1 = b
  | none => false

/-- Bank stack b can take a column transfer of row r now (R223): no refresh runs or takes precedence, no slot, no kernel, and
where the row is not open no neighbour refresh is due (R228, R230, R232, R268). -/
def Vault.canTransfer (v : Vault) (b r : Nat) : Bool :=
  !nth v.refreshing b false && !v.owesFour b && !v.calSlot && !v.calibrating && !v.kernelOn b &&
    (decide (nth v.openRow b none = some r) || !v.neighbourDue b)

/-! ## Records of a vault (R257) -/

/-- The layer erased in the vault of a line, and whether its tile is in Clotu mode. -/
def State.erasedOf (s : State) (p : Place) : Option Nat := (s.vault p.tile p.vault).erased
def State.clotuOf (s : State) (p : Place) : Bool := (s.tile p.tile).clotu

/-- Post UNCORRECTABLE within the limit of 16 a period, the 16th marked MORE (R257). -/
def postUncorrectable (s : State) (p : Place) (reason layers : Nat) : State :=
  let v := s.vault p.tile p.vault
  let v := if s.running || v.recOpen then v else { v with recOpen := true, recCount := 0 }
  if 16 ≤ v.recCount then s.setVault p.tile p.vault v
  else
    let da := s.lineDa p
    let cause := if v.erased.isSome then v.lastErase else 0
    let s := s.setVault p.tile p.vault { v with recCount := v.recCount + 1, lastUe := s.dev.faultSeq }
    let d := da.getD 0
    postFaultRec s 0x0A reason [p.tile, p.vault, 2 ^ 22 * p.bs + p.row * 2 ^ 8 + p.col, layers,
      if da.isSome then d % 2 ^ 32 else 0xFFFFFFFF, if da.isSome then 2 ^ 31 + d / 2 ^ 32 else 0] cause
      (decide (v.recCount + 1 = 16)) false false

/-- Latch MP_ERRLOG: corrected lines while no uncorrectable one is held, and the first uncorrectable one (R259). -/
def latchErr (v : Vault) (p : Place) (ue : Bool) (layers : Nat) : Vault :=
  if tst v.errlog 63 && tst v.errlog 62 then v
  else { v with errlog := packW 64 [(63, 1), (62, b2n ue), (52, layers), (49, p.bs), (35, p.row), (27, p.col)] }

/-- Count what a read found (R239, R241, R242, R259). -/
def countRead (s : State) (p : Place) (d : Decoded) : State :=
  let now := s.cycles (.vault p.tile p.vault)
  s.updVault p.tile p.vault fun v => match d with
    | .clean _ => v
    | .corrected _ layers ev =>
      let v := latchErr { v with ce := wrapAdd v.ce 1 } p false layers
      match ev with
      | none => v
      | some l => { v with layerev := satAdd v.layerev 1, layerEvents := v.layerEvents ++ [(l, now)] }
    | .raw => { v with rawrd := satAdd v.rawrd 1 }
    | .poisoned => { v with poisonrd := satAdd v.poisonrd 1 }
    | .bad layers =>
      let v := latchErr { v with ue := satAdd v.ue 1 } p true layers
      { v with ueTimes := v.ueTimes ++ [now] }

/-- The flip mask matches a line accessed in a direction (R254). -/
def Vault.flipMatches (v : Vault) (p : Place) (read : Bool) : Bool :=
  tst v.flipctl 63 && (tst v.flipctl 62 == read) &&
    (!tst v.flipctl 61 || (decide (fld v.flipctl 50 48 = p.bs) && decide (fld v.flipctl 47 34 = p.row) &&
      decide (fld v.flipctl 33 26 = p.col)))

/-- Apply the flip mask to 80 bytes if it matches; ARM clears itself (R254). -/
def applyFlip (s : State) (p : Place) (read : Bool) (bytes : List Byte) : List Byte × State :=
  let v := s.vault p.tile p.vault
  if v.flipMatches p read then
    (flipBytes bytes (fld v.flipctl 60 51) v.flipmask.toNat,
      s.setVault p.tile p.vault { v with flipctl := v.flipctl &&& (BitVec.allOnes 64 >>> 1) })
  else (bytes, s)

/-! ## Lines -/

/-- The 80 stored bytes of a line. -/
def State.stored (s : State) (p : Place) : List Byte := memRead s.mem (lineKey p.tile p.vault p.line) 80

/-- Replace the 80 stored bytes of a line. -/
def State.store (s : State) (p : Place) (bytes : List Byte) : State :=
  { s with mem := memWrite s.mem (lineKey p.tile p.vault p.line) bytes }

/-- A line as it decodes, with nothing counted. -/
def State.peek (s : State) (p : Place) : Decoded :=
  if s.clotuOf p then clotuDecode (s.stored p) else decodeLine (s.erasedOf p) (s.stored p)

/-- Data and poison of a decoded line. -/
def Decoded.value : Decoded → Line × Bool
  | .clean d => (d, false)
  | .corrected d _ _ => (d, false)
  | _ => (BitVec.allOnes 512, true)

/-- What a reader of a DA's line sees now: zero where the granule is invalid (R244), poison in lost memory (R221). -/
def State.lineValue (s : State) (p : Place) : Line × Bool :=
  if !s.vaultUsable p.tile p.vault then (BitVec.allOnes 512, true)
  else if !s.granuleValid p.tile (s.granuleOf p) then (0, false)
  else (s.peek p).value

/-- A column transfer to a line's row (R224, R229). -/
def columnTransfer (s : State) (p : Place) (hint : Nat) : State :=
  s.updVault p.tile p.vault fun v => v.transfer p.bs p.row hint

/-! ## The source's side of mirroring (R342) -/

/-- Position of a DA along regions in declaration order (R340). -/
def regionPos : List (Nat × Nat) → Nat → Option Nat
  | [], _ => none
  | (b, n) :: rest, da => if b ≤ da ∧ da < b + n then some (da - b) else (regionPos rest da).map (· + n)

/-- The DA at a position along regions. -/
def regionDa : List (Nat × Nat) → Nat → Nat
  | [], _ => 0
  | (b, n) :: rest, x => if x < n then b + x else regionDa rest (x - n)

/-- Total length of regions. -/
def regionLen (l : List (Nat × Nat)) : Nat := (l.map Prod.snd).foldl (· + ·) 0

/-- A MIRROR_WRITE or RESTORE_WRITE of consecutive lines on mirror link position i of links ls, counted (R344). -/
def sendMirror (s : State) (mt : Nat) (ls : List Nat) (dst : Nat) (st : BitVec 32) (da : Nat) (lines : List Line)
    (pois : Bool) : State :=
  let n := pickLink ls da
  let pos := s.mirrorMask.idxOf n
  let s := if mt = 6 then s.updMirror fun m =>
      { m with counts := m.counts.set pos (wrapAdd (nth m.counts pos 0) 1) } else s
  sendMsg s n (dataMsg s da dst mt (lines.length - 1) 0 0 pois 0 st (lines.flatMap lineUnits))

/-- A line of the source now holds new data: while a step runs, the pair is ACTIVE and a mirror link is up, it is sent and W
set; at any other time P is set (R342). The line goes from its vault to the link port (R196). -/
def noteChange (s : State) (p : Place) (d : Line) (poison : Bool) : State :=
  match s.lineDa p with
  | none => s
  | some da => match regionPos s.mirror.map da with
    | none => s
    | some x =>
      let g := x / 4096
      if s.running && s.mirror.pair = .active then
        match s.mirrorUp with
        | [] => s.updMirror fun m => { m with p := insertNat g m.p }
        | ls =>
          let s := crossAt s (.vault p.tile p.vault) (.engine (pickLink ls da / 4))
          sendMirror (s.updMirror fun m => { m with w := insertNat g m.w, copied := insertNat g m.copied }) 6 ls s.mirror.partner.toNat
            (s.mirror.committed + 1) da [d] poison
      else s.updMirror fun m => { m with p := insertNat g m.p }

/-! ## Writing and reading -/

/-- Encode and store a whole line, poisoned if asked; the flip mask may strike it (R239, R249, R254). -/
def putLine (s : State) (p : Place) (data : Line) (poison : Bool) : State :=
  let bytes := if s.clotuOf p then clotuEncode data poison else encodeLine data poison
  let f := applyFlip s p false bytes
  f.2.store p f.1

/-- Write a whole line, a change of it (R342). -/
def writeLine (s : State) (p : Place) (data : Line) (poison : Bool) : State :=
  noteChange (putLine s p data poison) p data poison

/-- Write the zero code word in one column transfer; it never takes a flip (R245, R254). -/
def putZero (s : State) (p : Place) : State :=
  { columnTransfer s p 0 with mem := memClear s.mem (lineKey p.tile p.vault p.line) 80 }

/-- The zero code word as a change of the line (R247). -/
def zeroLine (s : State) (p : Place) : State := noteChange (putZero s p) p 0 false

/-- Read a line, counting what is found; the flip mask may strike it (R239, R254). Why it is read: 1 demand, 2 scrub,
3 accumulating or narrow write (R380). -/
def readLine (s : State) (p : Place) (why : Nat) : Decoded × State :=
  let clotu := s.clotuOf p
  let f := applyFlip s p true (s.stored p)
  let d := if clotu then clotuDecode f.1 else decodeLine (s.erasedOf p) f.1
  let s := countRead f.2 p d
  match d with
  | .bad layers =>
    let s := postUncorrectable s p (if clotu then 4 else why) layers
    if why = 3 then (d, s)
    else (d, putLine (s.updVault p.tile p.vault fun v => v.openAt p.bs p.row) p (lineOf (f.1.take 64)) true)
  | .raw => (d, if why = 3 && s.running then postUncorrectable s p 3 0 else s)
  | .poisoned => (d, if why = 3 && s.running then postUncorrectable s p 3 0 else s)
  | _ => (d, s)

/-- Bytes written under a mask in Clotu mode: data and check pairs of those bytes alone, without a read (R250). -/
def clotuMasked (old : List Byte) (mask : BitVec 64) (data : Line) : List Byte :=
  let d := mergeLine (lineOf (old.take 64)) data mask
  let bs := bytesOf 64 d.toNat
  let f := ofBytes (old.drop 64)
  let g := clotuField bs
  bs ++ bytesOf 16 (pack ((List.range 64).map fun b =>
    (2 * b, if mask.getLsbD b then nfld g (2 * b + 1) (2 * b) else nfld f (2 * b + 1) (2 * b))))

/-! ## Granules (R243 to R247) -/

/-- Make a granule valid, its lines zero in every vault that is not lost (R245). -/
def fillGranule (s : State) (t g : Nat) : State :=
  let s := forEach ((s.granuleLines t g).filter fun p => s.vaultUsable p.tile p.vault) s putZero
  s.updTile t fun x => { x with granules := insertNat g x.granules, filling := dropNat g x.filling }

/-- A line's bank stack can take a column transfer to its row now; a lost vault is no bar. -/
def State.lineFree (s : State) (p : Place) : Bool :=
  !s.vaultUsable p.tile p.vault || (s.vault p.tile p.vault).canTransfer p.bs p.row

/-- The zero code words of a granule can be written now (R245). -/
def State.granuleFree (s : State) (t g : Nat) : Bool := (s.granuleLines t g).all s.lineFree

/-- No request to the line is under way in its vault, and the vault can access it now (R202, R222, R234, R245). -/
def State.lineQuiet (s : State) (p : Place) : Bool :=
  let v := s.vault p.tile p.vault
  let g := s.granuleOf p
  (v.queue.all fun q => decide (q.rq.line ≠ p.line)) && (v.rmw.all fun m => decide (m.rq.line ≠ p.line)) &&
    !(s.tile p.tile).filling.contains g && s.lineFree p && (s.granuleValid p.tile g || s.granuleFree p.tile g)

/-- The line of a DA is quiet, and no host holds it (R291). -/
def State.daQuiet (s : State) (da : Nat) : Bool :=
  !((s.port 0).filter.contains da) && !((s.port 1).filter.contains da) &&
    (match s.place da with
      | some p => s.lineQuiet p
      | none => true)

/-- A whole line that the store or a restored device writes into a quiet line: its granule is filled if need be, the line is
encoded and written (R222, R245). The flag tells that it landed. -/
def hubWrite (s : State) (p : Place) (data : Line) (poison : Bool) : State × Bool :=
  if !s.vaultUsable p.tile p.vault then (s, false)
  else
    let g := s.granuleOf p
    let s := if s.granuleValid p.tile g then s else fillGranule s p.tile g
    (writeLine (columnTransfer s p 0) p data poison, true)

/-- A line that the store or the mirror set reads from a quiet line (R221, R244). -/
def hubRead (s : State) (p : Place) : (Line × Bool) × State :=
  if !s.vaultUsable p.tile p.vault then ((BitVec.allOnes 512, true), s)
  else if !s.granuleValid p.tile (s.granuleOf p) then ((0, false), s)
  else let r := readLine (columnTransfer s p 0) p 1; (r.1.value, r.2)

/-- The lines of a DA range with the bytes of the range in each: line DA and mask. -/
def rangeLines (da n : Nat) : List (Nat × BitVec 64) :=
  if n = 0 then []
  else (List.range ((da + n - 1) / 64 - da / 64 + 1)).map fun i =>
    let l := (da / 64 + i) * 64
    let lo := max da l
    let hi := min (da + n) (l + 64)
    (l, maskOf (lo - l) (hi - lo))

end Sys2Proof.Machine
end

