-- ==== Sys2Proof/Machine/Fabric.lean ====
section
/-!
DEFINITION. Requests under way (R187 to R212, R221, R222, R283, R291, R331, R337): issuing a request, the crossings it
passes, its acceptance at a vault, a host port or a link port, and its answer on the way back.
-/
namespace Sys2Proof.Machine

/-! ## Answers -/

/-- The stop that a requester's answers go to. -/
def Owner.stop : Owner → Stop
  | .copy c _ _ => .core c
  | .flag c _ _ => .core c
  | .ldw c _ => .core c
  | .waitf c => .core c
  | .fetch c _ => .core c
  | .list c _ => .core c
  | .legFlag c => .ledger (tileOfCore c)
  | .host x => .hostPort x
  | .bar x _ _ => .hostPort x
  | .peer n _ _ _ => .engine (n / 4)
  | .hub _ _ => .control

/-- The core of a requester, if it is one. -/
def Owner.core? : Owner → Option Nat
  | .copy c _ _ => some c
  | .flag c _ _ => some c
  | .ldw c _ => some c
  | .waitf c => some c
  | .fetch c _ => some c
  | .list c _ => some c
  | .legFlag c => some c
  | _ => none

/-- The data a poisoned answer shows; no reader takes it for data (R255). -/
def poisonData : Line := BitVec.allOnes 512

/-- The answer to a request. -/
def Rq.answer (r : Rq) (data : Line) (bad : Bool) : Rsp :=
  { id := r.id, own := r.own, da := r.ask, isRead := decide (r.kind = .read), data := data, bad := bad }

/-- Runs of lines with the same poison mark (R334). -/
def poisonRuns : List (Nat × Line × Bool) → List (List (Nat × Line × Bool))
  | [] => []
  | e :: es => match poisonRuns es with
    | [] => [[e]]
    | [] :: rs => [e] :: rs
    | (f :: fs) :: rs => if f.2.2 = e.2.2 then (e :: f :: fs) :: rs else [e] :: (f :: fs) :: rs

/-- Lines by rising DA. -/
def insertLine (e : Nat × Line × Bool) : List (Nat × Line × Bool) → List (Nat × Line × Bool)
  | [] => [e]
  | f :: fs => if e.1 ≤ f.1 then e :: f :: fs else f :: insertLine e fs

/-- Send the answer of a peer's request that is complete (R337). -/
def finishServe (s : State) (v : Serve) : State :=
  let st := s.dev.step
  if v.isRead then
    forEach (poisonRuns (v.lines.foldr insertLine [])) s fun s run => match run with
      | [] => s
      | (da, _, pois) :: _ =>
        let first := (v.lines.map Prod.fst).foldl min da
        sendRouted s v.src (v.addr + (da - first)) (dataMsg s (v.addr + (da - first)) v.src 4 (run.length - 1) 0 0 pois v.tag st
          (run.flatMap fun e => lineUnits e.2.1))
  else sendRouted s v.src v.addr (dataMsg s v.addr v.src 5 (b2n v.err) 0 0 false v.tag st [])

/-- One line of a peer's request is done. -/
def serveLine (s : State) (n src tag : Nat) (a : Rsp) : State :=
  match s.dev.serves.find? fun v => v.link = n && v.src = src && v.tag = tag with
  | none => s
  | some v =>
    let v' := { v with left := v.left - 1, lines := v.lines ++ [(a.da, a.data, a.bad)], err := v.err || a.bad }
    if v'.left = 0 then finishServe (s.updDev fun d => { d with serves := d.serves.erase v }) v'
    else s.updDev fun d => { d with serves := d.serves.map fun u => if u = v then v' else u }

/-- A write of Buaman's operation op is acknowledged (R316, R318). -/
def hubAcked (d : Dev) (op : Nat) : Dev :=
  if op = d.hubOp then { d with hubLeft := d.hubLeft.map (· - 1) }
  else { d with posts := d.posts.map fun p => if p.op = op then { p with left := p.left - 1 } else p }

/-- A line that Buaman's operation op has asked for comes. -/
def hubCame (d : Dev) (op : Nat) (a : Rsp) : Dev :=
  if op = d.hubOp ∧ d.hubAsk.contains a.da then
    { d with hubGot := d.hubGot ++ [(a.da, a.data, a.bad)], hubAsk := dropNat a.da d.hubAsk }
  else d

/-- An answer reaches its requester; a host port that has gone down takes none. -/
def deliver (s : State) (a : Rsp) : State :=
  match a.own with
  | .host x => if (s.port x).up then s.emit (if a.isRead then .data a.data a.bad else .done (!a.bad)) else s
  | .bar x off size =>
    if (s.port x).up then
      s.emit (if a.isRead then .data (BitVec.ofNat 512 (nfld a.data.toNat (8 * (off + size) - 1) (8 * off))) a.bad
        else .done (!a.bad))
    else s
  | .peer n src tag _ => serveLine s n src tag a
  | .hub op wr => s.updDev fun d => if wr then hubAcked d op else hubCame d op a
  | own => match own.core? with
    | some c => s.updCore c fun k => { k with inbox := k.inbox ++ [a] }
    | none => s

/-- An answer made without a path: one of a host port leaves through the port's crossing to its physical layer (R212). -/
def answerAt (s : State) (a : Rsp) : State :=
  match a.own with
  | .host x => deliver (passItem s (xkey (9 + x) 0)) a
  | .bar x _ _ => deliver (passItem s (xkey (9 + x) 0)) a
  | _ => deliver s a

/-- The request ends at once with poison or an error acknowledgement (R193, R221, R283, R331). -/
def refuseRq (s : State) (r : Rq) : State := answerAt s (r.answer poisonData true)

/-! ## Crossings (R191 to R193, R211) -/

/-- A bridge crossing whose far tile is lost: of port b of tile w, or of the hub towards tile b (R192). -/
def State.farTileLost (s : State) (w b : Nat) : Bool :=
  if w = 8 then decide (b < 2) && !s.tileUsable b
  else match s.neighbour w b with
    | some u => !s.tileUsable u
    | none => false

/-- The crossing leads to a side that never releases its half-reset: a lost core, vault or tile, or a bridge of a lost tile
(R192, R193). -/
def State.deadXing (s : State) (k : Nat) : Bool :=
  let w := k / 256
  let n := k % 256
  if w < 8 then
    !s.tileUsable w ||
      (if n < 17 then (s.core (coreAt w n)).lost
       else if 32 ≤ n ∧ n < 49 then (s.core (coreAt w (n - 32))).lost
       else if 64 ≤ n ∧ n < 128 then (s.vault w (n - 64)).lost
       else if 128 ≤ n ∧ n < 192 then (s.vault w (n - 128)).lost
       else if 192 ≤ n ∧ n < 196 then s.farTileLost w (n - 192)
       else if 200 ≤ n ∧ n < 204 then s.farTileLost w (n - 200)
       else false)
  else if w = 8 then
    (if 192 ≤ n ∧ n < 194 then s.farTileLost 8 (n - 192)
     else if 200 ≤ n ∧ n < 202 then s.farTileLost 8 (n - 200)
     else false)
  else false

/-- An answer is lost on its way: a requester that lives on gets poison or an error acknowledgement in its place, so that
none waits for ever (R193); one on a lost core gets nothing. -/
def loseAnswer (s : State) (a : Rsp) : State :=
  match a.own.core? with
  | some c => if (s.core c).lost then s else deliver s { a with data := poisonData, bad := true }
  | none => answerAt s { a with data := poisonData, bad := true }

/-- A source presents an item: it enters the FIFO, or waits at the source while the FIFO is full or half-reset; at a dead
crossing it is answered or lost (R191, R193). -/
def present (s : State) (k : Nat) (it : Item) (rest : List Nat) : State :=
  if s.deadXing k then
    match it with
    | .rq r => refuseRq s r
    | .rsp a => loseAnswer s a
  else s.updXing k fun x =>
    if x.half = .running ∧ x.fifo.length < 16 ∧ x.back = [] then
      { x with fifo := x.fifo ++ [(it, rest)], sent := x.sent + 1 }
    else { x with back := x.back ++ [(it, rest)] }

/-- Put an item on a path of crossings; an empty path is at its end already. -/
def sendOn (s : State) (it : Item) : List Nat → State
  | [] => match it with
    | .rsp a => deliver s a
    | .rq r => refuseRq s r
  | k :: rest => present s k it rest

/-- The destination takes the head of a crossing; an item held at the source follows into the FIFO (R191). -/
def takeHead (s : State) (k : Nat) : State :=
  s.updXing k fun x =>
    let fifo := x.fifo.tail
    match x.back with
    | [] => { x with fifo := fifo, taken := x.taken + 1 }
    | b :: bs => { x with fifo := fifo ++ [b], back := bs, taken := x.taken + 1, sent := x.sent + 1 }

/-- An answer travels back from a stop (R222); with no path left it is lost. -/
def answerFrom (s : State) (here : Stop) (a : Rsp) : State :=
  match s.path here a.own.stop with
  | some p => sendOn s (.rsp a) p
  | none => loseAnswer s a

/-! ## Issuing a request -/

/-- Count an access handled under R5 at its requester. -/
def countR5 (s : State) (own : Owner) : State :=
  match own with
  | .host x => s.updPort x fun p => { p with r5 := p.r5 + 1 }
  | .bar x _ _ => s.updPort x fun p => { p with r5 := p.r5 + 1 }
  | .peer _ _ _ _ => s.updDev fun d => { d with r5 := d.r5 + 1 }
  | .hub _ _ => s.updDev fun d => { d with r5 := d.r5 + 1 }
  | own => match own.core? with
    | some c => s.updCore c fun k => { k with r5 := k.r5 + 1 }
    | none => s

/-- Export entry fields (R349) checked for a request of src (R338): the local DA, or none. -/
def State.exported (s : State) (src addr : Nat) (kind : RqKind) : Option Nat :=
  let e := tget 0 s.dev.exports (addr / 2 ^ 28 % 64)
  let ok := tst e 63 && decide (fld e 47 36 ≤ src) && decide (src ≤ fld e 59 48) &&
    (match kind with
      | .read => tst e 62
      | .write => tst e 61
      | .acc _ => tst e 60)
  if ok then some (fld e 11 0 * 2 ^ 28 + addr % 2 ^ 28) else none

/-- A DA lies in a range in bank mode (R272, R273). -/
def State.inBankMode (s : State) (da : Nat) : Bool :=
  s.dev.ranges.any fun r => match r with
    | some (b, n) => decide (b ≤ da) && decide (da < b + n)
    | none => false

/-- A host's or a peer's requests meet the fence of a range in bank mode; the device's own do not (R272, R273). -/
def Owner.fenced : Owner → Bool
  | .host _ => true
  | .bar _ _ _ => true
  | .peer _ _ _ _ => true
  | _ => false

/-- A host's or a peer's request to a fenced range (R273): a read is poisoned, a host write has no effect, a peer's write
ends in error; each is counted. -/
def fencedRq (s : State) (r : Rq) : State :=
  if r.kind = .read then refuseRq (s.updDev fun d => { d with rdpois := satAdd d.rdpois 1 }) r
  else
    let s := s.updDev fun d => { d with wrdrop := satAdd d.wrdrop 1 }
    match r.own with
    | .peer _ _ _ _ => refuseRq s r
    | _ => answerAt s (r.answer 0 false)

/-- A request into stacked memory of this device: placed by the active map and sent on its way (R214, R221, R222). -/
def issueStacked (s : State) (r : Rq) : State :=
  match s.place r.da with
  | none => refuseRq (countR5 s r.own) r
  | some p =>
    if s.inBankMode r.da && r.own.fenced then fencedRq s r
    else if !s.vaultUsable p.tile p.vault then refuseRq s r
    else match s.path r.own.stop (.vault p.tile p.vault) with
      | none => refuseRq s r
      | some path => sendOn s (.rq { r with tile := p.tile, vault := p.vault, line := p.line }) path

/-- A request with the next number. -/
def State.newRq (s : State) (own : Owner) (kind : RqKind) (da : Nat) (mask : BitVec 64) (data : Line) (poison : Bool)
    (hint mis : Nat) : Rq :=
  { id := s.nextRq, own := own, kind := kind, da := da, ask := da, via := 0, tile := 0, vault := 0, line := 0, mask := mask, data := data,
    poison := poison, hint := hint, mis := mis }

/-- Issue a request of one line to any DA (R3, R5, R283, R331). The DA is that of the line; `mask` its bytes. -/
def issue (s : State) (own : Owner) (kind : RqKind) (da : Nat) (mask : BitVec 64) (data : Line) (poison : Bool)
    (hint : Nat) (mis : Nat := 0) : State :=
  let r := s.newRq own kind da mask data poison hint mis
  let s := { s with nextRq := s.nextRq + 1 }
  match s.kind da with
  | .stacked => issueStacked s r
  | .host x _ =>
    if (s.port x).live then
      match s.path own.stop (.hostPort x) with
      | some path => sendOn s (.rq r) path
      | none => refuseRq s r
    else refuseRq (s.updPort x fun p => { p with noport := satAdd p.noport 1 }) r
  | .peer dst addr => match s.route dst with
    | .unreachable => refuseRq s r
    | .here => match s.exported s.dev.devid.toNat addr kind with
      | some l => issueStacked s { r with da := l }
      | none => refuseRq (s.updDev fun d => { d with expdeny := satAdd d.expdeny 1 }) r
    | .links ls => match s.path own.stop (.engine (pickLink ls addr / 4)) with
      | some path => sendOn s (.rq { r with via := pickLink ls addr }) path
      | none => refuseRq s r
  | _ => refuseRq (countR5 s own) r

/-! ## At a vault (R222, R235, R245, R248, R291) -/

/-- A write that covers its line whole, in one transfer. -/
def Rq.whole (r : Rq) : Bool := decide (r.kind = .write) && (r.poison || decide (r.mask = fullMask))

/-- A write that reads its line first: accumulating, or narrow outside Clotu mode (R233, R248, R250). -/
def State.isRmw (s : State) (r : Rq) : Bool :=
  match r.kind with
  | .read => false
  | .write => !r.whole && !(s.tile r.tile).clotu
  | .acc _ => !r.poison

/-- A read-modify-write of the line will surely not meet poison (R222: acceptance order): what is stored decodes clean, no
flip is armed that could strike the line before, and no earlier request leaves it poisoned or stays in doubt itself. -/
def State.surelyClean (s : State) (p : Place) : Bool :=
  let v := s.vault p.tile p.vault
  let q := v.queue.filter fun e => decide (e.rq.line = p.line)
  !tst v.flipctl 63 && (v.rmw.all fun m => decide (m.rq.line ≠ p.line) || !m.bad) &&
    (q.all fun e => !e.rq.poison && (decide (e.rq.kind = .read) || e.acked)) &&
    (!s.granuleValid p.tile (s.granuleOf p) || (match s.peek p with
      | .clean _ => true
      | _ => false))

/-- The host bit of a granule: a filter holds a line of it (R291). -/
def State.hostBit (s : State) (t g : Nat) : Bool :=
  [0, 1].any fun x => (s.port x).filter.any fun l => match s.place l with
    | some p => decide (p.tile = t) && decide (s.granuleOf p = g)
    | none => false

/-- Lines of a port's snoop filter recalled for a request of another requester (R291): data for a read, invalidation
for a write. Each request waits in `waitBi` for the answers. -/
def snoopFor (s : State) (r : Rq) : State :=
  if !s.hostBit r.tile (s.granuleOf (placeOf r.tile r.vault r.line)) then s
  else forEach [0, 1] s fun s x =>
    let p := s.port x
    if p.filter.contains r.da && !(decide (r.own = .host x)) then
      let inv := decide (r.kind ≠ .read)
      let key := r.da + b2n inv
      let p := { p with waitBi := p.waitBi ++ [r] }
      if p.bisnp.contains key || 256 ≤ p.bisnp.length then s.setPort x p
      else (s.setPort x { p with bisnp := p.bisnp ++ [key], recalls := wrapAdd p.recalls 1 }).emit (.bisnp x r.da inv)
    else s

/-- Page hint of a copy's source (R130). -/
def Copy.srcHint (x : Copy) : Nat := fld x.src 489 488

/-- A run-ahead load whose source range is hit (R176): the held data is dropped; at the first hit the reads restart, up
to the 64 KiB its buffer holds while it waits (R127, R152); at a second one they restart only if it waits no longer. -/
def hitEntry (s : State) (c : Nat) (e : FilterEnt) : State :=
  let k := s.core c
  match (k.chan e.ch).copies.find? fun x => x.n = e.copy with
  | none => s
  | some x =>
    let n := k.seq.nextCopy
    let first := decide (x.hits = 0)
    let again := first || !x.held
    let asked := if x.held then x.lines.take 1024 else x.lines
    let x' := { x with
      n := n, hits := x.hits + 1, got := [], todo := if again then x.lines.drop asked.length else x.lines }
    let s := s.updCore c fun k =>
      let ch := k.chan e.ch
      let k := k.setChan e.ch { ch with copies := ch.copies.map fun y => if y.n = e.copy then x' else y }
      { k with
        stReload := satAdd k.stReload (b2n first)
        seq := { k.seq with
          nextCopy := n + 1
          filter := if first then k.seq.filter.map fun f => if f = e then { e with copy := n } else f
            else k.seq.filter.erase e } }
    if again then forEach asked s fun s l => issue s (.copy c e.ch n) .read l fullMask 0 false x.srcHint else s

/-- A write is accepted, or a host line invalidated, at a DA: every address filter that holds it is hit (R176). -/
def hitFilters (s : State) (da : Nat) : State :=
  forEach s.coreList s fun s c =>
    forEach ((s.core c).seq.filter.filter fun e => decide (e.lo ≤ da) && decide (da < e.hi)) s fun s e => hitEntry s c e

/-- A request of port x's host to a line that the port is back-invalidating: it crosses the BISnp (R291). -/
def State.crosses (s : State) (r : Rq) : Bool :=
  match r.own with
  | .host x => (s.port x).bisnp.contains r.da || (s.port x).bisnp.contains (r.da + 1)
  | _ => false

/-- The queue with one entry more, last; a host's request that crosses a BISnp for its line completes before the requests
that wait for the answer (R291). -/
def State.enqueue (s : State) (q : List QEnt) (e : QEnt) : List QEnt :=
  let waits := fun (f : QEnt) => decide (f.rq.line = e.rq.line) &&
    [0, 1].any fun x => (s.port x).waitBi.any fun r => decide (r.id = f.rq.id)
  if s.crosses e.rq then q.takeWhile (fun f => !waits f) ++ e :: q.dropWhile (fun f => !waits f) else q ++ [e]

/-- A request enters its vault's queue (R222). A write is acknowledged; of one that reads its line first the acknowledgement
waits for that read where it might meet poison, as it is then an error (R235, R248). The first write to a granule marks it
filling (R245); misaligned accumulating elements are counted (R234). -/
def acceptRq (s : State) (r : Rq) : State :=
  let p := placeOf r.tile r.vault r.line
  let g := s.granuleOf p
  let now := decide (r.kind ≠ .read) && (!s.isRmw r || s.surelyClean p)
  let s := s.updVault r.tile r.vault fun v => { v with
    queue := s.enqueue v.queue { rq := r, passed := 0, acked := now }, misalign := satAdd v.misalign r.mis }
  let s := if r.kind ≠ .read ∧ ¬s.granuleValid r.tile g then
      s.updTile r.tile fun t => { t with filling := insertNat g t.filling } else s
  let s := snoopFor s r
  if r.kind = .read then s
  else hitFilters (if now then answerFrom s (.vault r.tile r.vault) (r.answer 0 false) else s) r.da

/-- Dirty data that the host returns for a line is written first: a whole-line write ahead of every request of its vault,
which no one awaits (R291). A run-ahead load of the line is hit (R176). -/
def acceptDirty (s : State) (x da : Nat) (data : Line) : State :=
  match s.place da with
  | none => s
  | some p =>
    if !s.vaultUsable p.tile p.vault then s
    else
      let r : Rq := { s.newRq (.host x) .write da fullMask data false 0 0 with
        tile := p.tile, vault := p.vault, line := p.line }
      let g := s.granuleOf p
      let s := crossAt { s with nextRq := s.nextRq + 1 } (.hostPort x) (.vault p.tile p.vault)
      let s := s.updVault p.tile p.vault fun v => { v with queue := { rq := r, passed := 0, acked := true } :: v.queue }
      let s := if s.granuleValid p.tile g then s else s.updTile p.tile fun t => { t with filling := insertNat g t.filling }
      hitFilters s da

/-! ## At a host port (R283 to R288) -/

/-- A sequencer's reads are cached as Shared (R286). -/
def Owner.cached : Owner → Bool
  | .ldw _ _ => true
  | .waitf _ => true
  | .fetch _ _ => true
  | .list _ _ => true
  | _ => false

/-- The port keeps the line of a read as Shared: one of a sequencer, or of a run-ahead load (R286). -/
def State.keeps (s : State) (r : Rq) : Bool :=
  r.own.cached || (match r.own with
    | .copy c ch n => ((s.core c).chan ch).copies.any fun x => decide (x.n = n) && x.runAhead
    | _ => false)

/-- The PASID that a port's requests carry (R284). -/
def Port.pasidOf (p : Port) : Option (BitVec 20) := if p.pasidEn then some p.pasid else none

/-- Ask the host for the translation of a page, once (R284). -/
def askPage (s : State) (x : Nat) (page : BitVec 45) : State :=
  let p := s.port x
  if !p.live || p.recovering || p.atsReqs.contains page || p.pageReqs.contains page || p.pageWait.contains page then s
  else (s.setPort x { p with atsReqs := p.atsReqs ++ [page] }).emit (.atsReq x page p.pasidOf)

/-- A request of port x can go to the host: its address has a translation where one is needed (R284). -/
def Port.sendable (p : Port) (r : Rq) : Bool := !p.atsEn || (p.translation (r.da % 2 ^ 45)).isSome

/-- The page of a host-directed request. -/
def Rq.page (r : Rq) : BitVec 45 := BitVec.ofNat 45 (r.da % 2 ^ 45 / 4096 * 4096)

/-- One outstanding request that has not been sent goes out, or asks for its translation; during a recovery it is held (R284,
R288, R298). -/
def sendHost (s : State) (x : Nat) (r : Rq) : State :=
  let p := s.port x
  if p.recovering then s
  else if p.sendable r then
    let h := s.hostPhys x (r.da % 2 ^ 45)
    let q := if r.kind = .read then p.readReq h (s.keeps r) else p.writeReq h r.mask
    (s.setPort x { p with hostRqs := p.hostRqs.map fun e => if e.rq.id = r.id then { e with sent := true } else e }).emit
      (.hostReq x q h)
  else askPage s x r.page

/-- Everything at port x that can be sent is sent. -/
def sendHosts (s : State) (x : Nat) : State :=
  forEach (((s.port x).hostRqs.filter fun e => !e.sent).map HostRq.rq) s fun s r => sendHost s x r

/-- A host-directed request reaches its port: answered from the port's cache, or outstanding at the host (R283, R284,
R286). -/
def arriveHost (s : State) (x : Nat) (r : Rq) : State :=
  let p := s.port x
  let h := s.hostPhys x (r.da % 2 ^ 45)
  if !p.live then refuseRq (s.updPort x fun p => { p with noport := satAdd p.noport 1 }) r
  else if r.kind = .read ∧ s.keeps r ∧ p.sendable r ∧ p.holds h then
    answerFrom s (.hostPort x) (r.answer (memLine s.hostMem (hostKey x h)) false)
  else sendHost (s.updPort x fun p => { p with hostRqs := p.hostRqs ++ [{ rq := r, sent := false }] }) x r

/-- A run-ahead load has written scratch: the ports keep its source lines no longer (R286). -/
def releaseLines (s : State) (ls : List Nat) : State :=
  forEach ls s fun s l => match s.kind l with
    | .host x a => s.updPort x fun p => { p with
        cache := p.cache.filter fun e => e.2 || decide (e.1 ≠ s.hostPhys x a) }
    | _ => s

/-! ## At a link port (R331, R334, R337) -/

/-- A tag is free: no request holds it, and twice DL_TIMEOUT has passed since it was ended (R337). -/
def State.tagFree (s : State) (tag : Nat) : Bool :=
  !(s.dev.peerRqs.any fun q => q.tag = tag) &&
    !(s.dev.usedTags.any fun e => e.1 = tag && decide (s.cycles .control < e.2 + 3000 * max 1 s.dev.dlTimeout.toNat))

/-- The first free tag from a start on; none: the sender waits (R337). -/
def State.pickTag (s : State) : Nat → Nat → Option Nat
  | 0, _ => none
  | n + 1, k => if s.tagFree (k % 4096) then some (k % 4096) else s.pickTag n (k + 1)

/-- Whether b continues a in one message: the next line of the same copy in the same 1 KiB block (R334). -/
def Rq.follows (a b : Rq) : Bool :=
  decide (a.own = b.own) && decide (a.kind = b.kind) && decide (a.via = b.via) && decide (b.da = a.da + 64) && decide (a.da / 1024 = b.da / 1024) &&
    (decide (a.kind = .read) || (decide (a.mask = fullMask) && decide (b.mask = fullMask) && a.poison == b.poison))

/-- The run of requests at the head of a list that one message can carry. -/
def packRun : Rq → List (Item × List Nat) → List Rq
  | a, (.rq b, _) :: rest => if a.follows b then a :: packRun b rest else [a]
  | a, _ => [a]

/-- Requests leave on link n as one message (R331, R334), and wait for the answer. -/
def sendPeer (s : State) (n : Nat) (rqs : List Rq) : State :=
  match rqs with
  | [] => s
  | r :: _ =>
    let dst := r.da / 2 ^ 34 % 4096
    let addr := r.da % 2 ^ 34
    match if s.linkUp n then s.pickTag 4096 r.id else none with
    | none => forEach rqs s refuseRq
    | some tag =>
      let s := s.updDev fun d => { d with peerRqs := d.peerRqs ++ [{ rqs := rqs, tag := tag, dst := BitVec.ofNat 12 dst, link := n }] }
      let st := s.dev.step
      let nl := rqs.length - 1
      let aop := match r.kind with
        | .acc op => op
        | _ => 0
      sendMsg s n (if r.kind = .read then dataMsg s addr dst 3 nl 0 r.hint false tag st []
        else if r.mask = fullMask then dataMsg s addr dst 1 nl aop r.hint r.poison tag st (rqs.flatMap fun q => lineUnits q.data)
        else dataMsg s addr dst 2 0 aop r.hint r.poison tag st (r.mask.setWidth 128 :: lineUnits r.data))

/-! ## Taking an item (R191) -/

/-- An item at the head of crossing k may be taken: the next crossing on its way has room, a vault its queue, or a link port a
tag for it (R222, R337). -/
def State.mayTake (s : State) (k : Nat) : Bool :=
  let x := s.xing k
  x.half = .running &&
    (match x.fifo with
      | [] => false
      | (_, n :: _) :: _ => s.deadXing n || ((s.xing n).half = .running && decide ((s.xing n).fifo.length < 16) &&
          (s.xing n).back.isEmpty)
      | (.rq r, []) :: _ =>
        if k / 256 < 8 then
          if 128 ≤ k % 256 ∧ k % 256 < 192 then decide ((s.vault r.tile r.vault).queue.length < 64)
          else !s.linkUp r.via || (s.pickTag 4096 r.id).isSome
        else true
      | _ => true)

/-- The destination of crossing k takes its head (R191): it moves to the next crossing of its path, or arrives. -/
def takeItem (s : State) (k : Nat) : State :=
  match (s.xing k).fifo with
  | [] => s
  | (it, n :: rest) :: _ => present (takeHead s k) n it rest
  | (.rsp a, []) :: _ => deliver (takeHead s k) a
  | (.rq r, []) :: more =>
    if k / 256 < 8 then
      if 128 ≤ k % 256 ∧ k % 256 < 192 then acceptRq (takeHead s k) r
      else
        let run := packRun r more
        sendPeer (run.foldl (fun s _ => takeHead s k) s) r.via run
    else if 9 ≤ k / 256 ∧ k / 256 < 11 then arriveHost (takeHead s k) (k / 256 - 9) r
    else refuseRq (takeHead s k) r

/-! ## Half-reset (R192, R193, R195) -/

/-- Answer every request among the items dropped at crossing k, and every answer that was not yet at its requester's own
crossing; one on its way into a requester that is reset is not answered (R193). -/
def refuseItems (s : State) (k : Nat) (l : List (Item × List Nat)) : State :=
  forEach l s fun s e => match e.1 with
    | .rq r => refuseRq s r
    | .rsp a => if (s.outPath a.own.stop).contains k then s else loseAnswer s a

/-- A half-reset asserted on crossing k (R192): traffic stops, items in flight are dropped, counted and answered, the
item counters restart; XING_DROP names the crossing and its cause where something was dropped (R195). Items held at a
source wait, but for a side that never releases they are answered too (R193). -/
def halfReset (s : State) (k : Nat) (cause : BitVec 32) : State :=
  let x := s.xing k
  let d := x.fifo.length
  let dead := s.deadXing k
  let s := s.setXing k { x with
    fifo := [], back := if dead then [] else x.back, half := .held, sent := 0, taken := 0,
    resets := satAdd x.resets 1, dropped := satAdd x.dropped d }
  let s := refuseItems s k (if dead then x.fifo ++ x.back else x.fifo)
  if d = 0 then s else postFault s 0x30 0 [k / 256, k % 256, d] cause

/-- The reset side releases: the items held at the source enter the FIFO, up to its 16 places (R192). -/
def halfRelease (s : State) (k : Nat) : State :=
  s.updXing k fun x => { x with
    half := .running, fifo := x.fifo ++ x.back.take (16 - x.fifo.length), back := x.back.drop (16 - x.fifo.length),
    sent := wrapAdd x.sent (min x.back.length (16 - x.fifo.length)) }

end Sys2Proof.Machine
end

