-- ==== Sys2Proof/Machine/Hub.lean ====
section
/-!
DEFINITION. Reads and writes that Buaman and the hub's engines make at any device address: requests of their own through the
hub fabric, but for the host windows, whose lines go through the port at once (R3, R17, R318, R469).
-/
namespace Sys2Proof.Machine

/-- Buaman writes bytes of one line of any DA for operation op. -/
def hubPutLine (s : State) (op l : Nat) (m : BitVec 64) (d : Line) (poison : Bool) : State :=
  match s.kind l with
  | .host x a => hostWriteLine (crossAt s .control (.hostPort x)) x a m d poison
  | _ => issue s (.hub op true) .write l m d poison 0

/-- A line whose write is acknowledged later: any but one of the host windows. -/
def State.hubWaits (s : State) (l : Nat) : Bool :=
  match s.kind l with
  | .host _ _ => false
  | _ => true

/-- Bytes shifted to their places in the line l, when they start at DA da. -/
def lineAt (da l : Nat) (bytes : List Byte) : Line :=
  if l < da then BitVec.ofNat 512 (ofBytes (bytes.take (l + 64 - da)) * 2 ^ (8 * (da - l)))
  else lineOf ((bytes.drop (l - da)).take 64)

/-- Buaman writes bytes from any DA on (R270, R317, R319). -/
def hubPutBytes (s : State) (op da : Nat) (bytes : List Byte) : State :=
  forEach (rangeLines da bytes.length) s fun s e => hubPutLine s op e.1 e.2 (lineAt da e.1 bytes) false

/-- How many lines of n bytes from a DA on are acknowledged later. -/
def State.hubCount (s : State) (da n : Nat) : Nat := ((rangeLines da n).filter fun e => s.hubWaits e.1).length

/-- The long command in progress writes lines, each with its bytes, data and poison, and waits for their
acknowledgements (R318). -/
def hubWriteLines (s : State) (ls : List (Nat × BitVec 64 × Line × Bool)) : State :=
  let s := s.updDev fun d => { d with hubLeft := some (ls.filter fun e => s.hubWaits e.1).length }
  forEach ls s fun s e => hubPutLine s s.dev.hubOp e.1 e.2.1 e.2.2.1 e.2.2.2

/-- The writes of the long command in progress have been issued and every one is acknowledged. -/
def State.hubDone (s : State) : Bool := decide (s.dev.hubLeft = some 0)

/-- A whole DA range lies in stacked memory of the part (R1, R3). -/
def State.inStacked (s : State) (a n : Nat) : Bool := decide (a + n ≤ s.stackedTop)

/-- A range overlaps another. -/
def overlaps (a n b m : Nat) : Bool := decide (a < b + m) && decide (b < a + n) && decide (0 < n) && decide (0 < m)

/-- A range touches one in bank mode. -/
def State.touchesBank (s : State) (a n : Nat) : Bool := s.dev.ranges.any fun r => match r with
  | some (b, m) => overlaps a n b m
  | none => false

/-- Lines with any byte in a range: their DAs. -/
def lineDas (da n : Nat) : List Nat := (rangeLines da n).map Prod.fst

end Sys2Proof.Machine
end

