-- ==== Sys2Proof/Machine/Power.lean ====
section
/-!
DEFINITION. Power and temperature (R397 to R419): meters and tile powers, the power loop with its clocks, the thermal
model's cross-check of the sensors, bands, the thermal loop with its records, low input voltage.
-/
namespace Sys2Proof.Machine

/-! ## Meters (R400, R401) -/

/-- Bridges between tiles, in the order of their meters from 656 on: lower and higher tile (R400). -/
def bridgePairs : List (Nat × Nat) :=
  [(0, 1), (0, 2), (1, 3), (2, 3), (2, 4), (3, 5), (4, 5), (4, 6), (5, 7), (6, 7)]

/-- The island of meter n is present on the part (R400). -/
def State.metered (s : State) (n : Nat) : Bool :=
  let k := s.fuses.part.tiles
  if n < 136 then decide (n < 17 * k)
  else if n < 648 then decide (n - 136 < 64 * k)
  else if n < 656 then decide (n - 648 < k)
  else if n < 666 then decide ((nth bridgePairs (n - 656) (0, 8)).2 < k)
  else decide (n < 679)

/-- METER_UPDATE: meter n has counted uj µJ more, and so has the input (R400, R419). -/
def execMeterUpdate (n uj : Nat) (s : State) : Answer :=
  .next (
    if s.awake && s.metered n then s.updPower fun p => { p with
      meters := tset 0 p.meters n (wrapAdd (tget 0 p.meters n) uj), inEnergy := wrapAdd p.inEnergy uj }
    else s)

/-- Meters of tile t: its cores, vaults, fabric, and the bridges it owns as the lower tile (R401). -/
def tileMeters (t : Nat) : List Nat :=
  (List.range 17).map (fun p => coreAt t p) ++ (List.range 64).map (fun v => 136 + 64 * t + v) ++ [648 + t] ++
    ((List.range 10).filter fun i => (nth bridgePairs i (0, 0)).1 = t).map (656 + ·)

/-- Energy that meter n has counted since an earlier reading of the meters. -/
def Power.since (p : Power) (old : Tab (BitVec 64)) (n : Nat) : Nat := (tget 0 p.meters n - tget 0 old n).toNat

/-- The sum of a list of meters. -/
def Power.sinceAll (p : Power) (old : Tab (BitVec 64)) (ns : List Nat) : Nat :=
  (ns.map (p.since old)).foldl (· + ·) 0

/-- A tile's energy as a fraction (numerator, denominator): its own meters, the regulator losses in proportion to those
meters, and one N-th of every other meter (R401). -/
def State.tileEnergy (s : State) (old : Tab (BitVec 64)) (t : Nat) : Nat × Nat :=
  let n := s.fuses.part.tiles
  let own := s.power.sinceAll old (tileMeters t)
  let all := (s.tileList.map fun u => s.power.sinceAll old (tileMeters u)).foldl (· + ·) 0
  let rest := s.power.sinceAll old ((List.range 12).map (666 + ·))
  let loss := s.power.since old 678
  if all = 0 then (loss + rest, n) else (own * all * n + loss * own * n + rest * all, all * n)

/-! ## The power loop (R407, R409, R415) -/

/-- The limit that the power loop uses, in W × 4,000: L, scaled by VIN / 40 V below 40 V (R415); VIN in 10 mV. -/
def Power.scaledLimit (p : Power) : Nat := p.limit * min 4000 p.supplies.vin

/-- A tile's present clock, a change on its way counted. -/
def Tile.clock (x : Tile) : Nat := x.newClk.getD x.clk

/-- The power loop's decision for a tile: its power a / b µJ in k periods of 10 µs (R409); a booked tile at its floor step
or above runs at PM_FLOORCLK at least (R373, R409). RISE is in 0.1 °C/ms, the rise in 1/16 °C/ms. -/
def State.loopClock (s : State) (x : Tile) (a b k : Nat) : Nat :=
  let power := a * 16 * s.fuses.part.tiles * 4000
  let budget := x.step * s.power.scaledLimit * (b * 10 * k)
  let least := s.leastClock x
  max least (
    if budget < power then (if least + 100 ≤ x.clock then x.clock - 100 else x.clock)
    else if 100 * power < 95 * budget ∧ 5 * x.rise < 4 * s.power.riseLim.toNat then min 3600 (x.clock + 100)
    else x.clock)

/-- One tile in the power loop: its power, averaged over the last 100 µs, and its clock unless it is lost (R401, R409, R419). -/
def loopTile (s : State) (old : Tab (BitVec 64)) (k t : Nat) : State :=
  let e := s.tileEnergy old t
  let x := s.tile t
  let c := s.loopClock x e.1 e.2 k
  s.setTile t { x with
    power := e.1 / (e.2 * 10 * k), newClk := if s.tileUsable t then (if c = x.clk then none else some c) else x.newClk }

/-- One period of the power loop (R401, R409, R419): tile powers over the last 100 µs, the input power over the last 1 ms,
the clock of every tile that is not lost, and a sample of the supplies. -/
def powerLoop (s : State) : State :=
  let p := s.power
  let k := max 1 (min 10 p.past.length)
  let old := nth p.past (k - 1) []
  let ki := max 1 (min 100 p.inPast.length)
  let before := nth p.inPast (ki - 1) 0
  let s := forEach s.tileList s fun s t => loopTile s old k t
  s.updPower fun p => { p with
    shown := p.supplies
    inputPower := (p.inEnergy - before).toNat / (10 * ki)
    past := (p.meters :: p.past).take 10, inPast := (p.inEnergy :: p.inPast).take 100 }

/-- CLOCK_CHANGE_APPLY: the tile's core islands run at the new clock, while a plan is booked at no less than R373 allows (R409). -/
def execClockChangeApply (t : Nat) (s : State) : Answer :=
  .next (match (s.tile t).newClk with
    | some c => if s.clocked && s.tileUsable t then s.updTile t fun x => { x with clk := max (s.leastClock x) c, newClk := none } else s
    | none => s)

/-! ## Thermal records (R412, R419) -/

/-- Post THERMAL_STEP and send vector 4 (R412). -/
def postThermal (s : State) (reason tile new old band d4 : Nat) : State :=
  sendMsixBoth (postFault s 0x28 reason [tile, new, old, band, d4] 0) 4

/-- Control cycles in 1 ms at the control island's 1.5 GHz. -/
def cyclesMs : Nat := 1500000

/-- A fall of VIN below 40 V posts no record: an earlier fall has posted one, and VIN has not been at or above 40.5 V for
10 ms since (R415). -/
def State.vinHeld (s : State) : Bool :=
  s.power.vinLow && match s.power.vinHigh with
    | some c => decide (s.cycles .control < c + 10 * cyclesMs)
    | none => true

/-- VIN_LOW: a sample of VIN in mV. Below 40 V the power loop scales its limit, and the first such sample posts
THERMAL_STEP SUPPLY_LOW, as does one after 10 ms at or above 40.5 V (R415). -/
def execVinLow (mv : Nat) (s : State) : Answer :=
  .next (
    if s.awake && decide (36000 ≤ mv) then
      let held := s.vinHeld
      let since := match s.power.vinHigh with
        | some c => c
        | none => s.cycles .control
      let s := s.updPower fun p => { p with
        supplies := { p.supplies with vin := mv / 10 }
        shown := { p.shown with vin := mv / 10 }
        vinLow := if mv < 40000 then true else held
        vinHigh := if 40500 ≤ mv then some since else none }
      if mv < 40000 ∧ !held then postThermal s 5 noWord noWord noWord noWord 0 else s
    else s)

/-! ## Sensors (R402, R404) -/

/-- Neighbours of a sensor: in the logic die's grid; in a DRAM layer the layer's other sensors and the same quadrant in
the layers above and below (R402). -/
def sensorNeighbours (i : Nat) : List Nat :=
  if i < 16 then
    (if 4 ≤ i then [i - 4] else []) ++ (if i % 4 ≠ 0 then [i - 1] else []) ++
      (if i % 4 ≠ 3 then [i + 1] else []) ++ (if i < 12 then [i + 4] else [])
  else
    let l := (i - 16) / 4
    let j := i % 4
    (if 0 < l then [16 + 4 * (l - 1) + j] else []) ++ ([0, 1, 2, 3].filter (· ≠ j)).map (16 + 4 * l + ·) ++
      (if l < 9 then [16 + 4 * (l + 1) + j] else [])

/-- Rising insertion. -/
def insertInt (e : Int) : List Int → List Int
  | [] => [e]
  | f :: fs => if e ≤ f then e :: f :: fs else f :: insertInt e fs

/-- The median: of an even number the mean of the two in the middle, rounded down; of none a free value. -/
def medianOf (draw place : Nat) (l : List Int) : Int :=
  let r := l.foldr insertInt []
  let n := r.length
  if n = 0 then (Config.freeWord draw place).toInt
  else if n % 2 = 1 then nth r (n / 2) 0 else (nth r (n / 2 - 1) 0 + nth r (n / 2) 0) / 2

/-- A temperature or a detail word of it, as 32 bits of two's complement. -/
def intWord (i : Int) : Nat := (BitVec.ofInt 32 i).toNat

/-- The reading lies outside −40 °C to 150 °C, or none was made (R404). -/
def sensorOpen : Option Int → Bool
  | none => true
  | some r => decide (r < -640) || decide (2400 < r)

/-- Set a sensor aside, or blame the model, and post SENSOR_DISAGREE (R404, R419). -/
def postDisagree (s : State) (t reason : Nat) (sensor : Option Nat) (reading expected : Nat) : State :=
  let s := match sensor with
    | some i => s.updTile t fun x => { x with aside := insertNat i x.aside }
    | none => s
  let s := s.updPower fun p => { p with disagrees := satAdd p.disagrees 1 }
  postFault s 0x29 reason [t, sensor.getD noWord, reading, expected] 0

/-- Sensors of a tile in use. -/
def Tile.inUse (x : Tile) : List Nat := (List.range 56).filter fun i => !x.aside.contains i

/-! ## The thermal model (R403) -/

/-- Temperature of a node of the model. DESIGN CHOICE (log 165): every node stands at 35 °C before the first step. -/
def Tile.node (x : Tile) (n : Nat) : Int := nth x.nodes n 560

/-- The nodes that node n is coupled to: the same region above and below, and those beside it on its die (R403). -/
def nodeNeighbours (n : Nat) : List Nat :=
  (if 64 ≤ n then [n - 64] else []) ++ (if n < 640 then [n + 64] else []) ++
    ((Config.lateral (n % 64)).filter (· < 64)).map (64 * (n / 64) + ·)

/-- Meters of tile t whose power is spread over its regions: cores, fabric, the bridges at it (R400, R403). -/
def spreadMeters (t : Nat) : List Nat :=
  (List.range 17).map (fun p => coreAt t p) ++ [648 + t] ++
    ((List.range 10).filter fun i => (nth bridgePairs i (8, 8)).1 = t ∨ (nth bridgePairs i (8, 8)).2 = t).map (656 + ·) ++
    (if t = 0 then [666] else []) ++ (if t = 1 then [667] else [])

/-- Energy that region v of tile t took since the tile's last model step: its vault's meter, and its share of the rest (R403). -/
def State.regionEnergy (s : State) (t v : Nat) : Nat :=
  let old := (s.tile t).seen
  s.power.since old (136 + 64 * t + v) +
    ((spreadMeters t).map fun n => Config.floorplan s.fuses.serial n v (s.power.since old n)).foldl (· + ·) 0

/-- The cold-plate node: the coolant inlet temperature, shifted by R404 (R403). -/
def State.plate (s : State) (t : Nat) : Int := s.power.cool.toNat + (s.tile t).shift

/-- Period of a tile's model in µs: 10 from the Amber band up (R403, R406). -/
def Tile.period (x : Tile) : Nat := if 2 ≤ x.band then 10 else 100

/-- One step of the tile's RC network (R403): all 704 nodes from their temperatures before it. -/
def stepNodes (s : State) (t : Nat) : State :=
  let x := s.tile t
  s.setTile t { x with
    seen := s.power.meters
    nodes := (List.range 704).map fun n => Config.rcNode s.fuses.serial t n (x.node n) ((nodeNeighbours n).map x.node)
      (s.plate t) (s.regionEnergy t (n % 64)) x.period s.power.rplate.toNat }

/-- The node at a sensor's location (R402, R403). -/
def sensorNode (i : Nat) : Nat := 64 * (if i < 16 then 0 else 1 + (i - 16) / 4) + Config.sensorRegion i % 64

/-- The model's temperature at a sensor's location, and the hottest node of a layer (R404, R405). -/
def Tile.modelAt (x : Tile) (i : Nat) : Int := x.node (sensorNode i)
def Tile.hottest (x : Tile) (l : Nat) : Int :=
  (List.range 64).foldl (fun (a : Int) v => max a (x.node (64 * (l + 1) + v))) (x.node (64 * (l + 1)))

/-- A sensor's reading minus the model's temperature there (R404). -/
def Tile.residualOf (x : Tile) (o : ThermalObs) (i : Nat) : Int := ((nth o.readings i none).getD 0) - x.modelAt i

/-- A sensor's expected value (R404). -/
def State.expectOf (s : State) (t : Nat) (o : ThermalObs) (i : Nat) : Int :=
  let x := s.tile t
  x.modelAt i + medianOf s.free i (((sensorNeighbours i).filter fun j => !x.aside.contains j).map (x.residualOf o))

/-- The cross-check of one model step: open sensors at once, then those that differ from what their neighbours expect for
the third consecutive time (R404). -/
def crossCheck (s : State) (t : Nat) (o : ThermalObs) : State :=
  let fresh := (s.tile t).inUse.filter fun i => sensorOpen (nth o.readings i none)
  let s := forEach fresh s fun s i =>
    postDisagree s t 2 (some i) (((nth o.readings i none).map intWord).getD noWord) (intWord (s.expectOf t o i))
  let expects := (List.range 56).map (s.expectOf t o)
  let x := s.tile t
  let off := fun (i : Nat) => !x.aside.contains i &&
    decide (96 < ((nth o.readings i none).getD 0 - nth expects i 0).natAbs)
  let counts := (List.range 56).map fun i => if off i then nth x.disagree i 0 + 1 else 0
  let s := s.setTile t { x with
    readings := (List.range 56).map fun i => (nth o.readings i none).getD (nth x.readings i 0)
    expects := expects, disagree := counts }
  forEach (x.inUse.filter fun i => decide (3 ≤ nth counts i 0)) s.drawn fun s i =>
    postDisagree s t 1 (some i) (intWord (nth (s.tile t).readings i 0)) (intWord (nth expects i 0))

/-- The tile's median residual: above 3 °C it shifts the cold-plate node of the steps that follow, and the time since it passed 6 °C is kept
(R404). -/
def followPlate (s : State) (t : Nat) (o : ThermalObs) : State :=
  let x := s.tile t
  let m := medianOf s.free 100 (x.inUse.map (x.residualOf o))
  s.drawn.setTile t { x with
    shift := if 48 < m.natAbs then x.shift + m else x.shift
    residualSince := if 96 < m.natAbs then some (x.residualSince.getD (s.cycles .control)) else none }

/-- SENSOR_MODEL_RESIDUAL: the tile's median residual has exceeded 6 °C for 10 ms; at most once a second (R404). -/
def execSensorModelResidual (t : Nat) (s : State) : Answer :=
  .next (
    let x := s.tile t
    let now := s.cycles .control
    match x.residualSince with
    | some c =>
      if s.clocked && s.tileUsable t && decide (c + 10 * cyclesMs ≤ now) &&
          (match x.lastModelRec with
            | some l => decide (l + 1000 * cyclesMs ≤ now)
            | none => true) then
        postDisagree (s.setTile t { x with lastModelRec := some now }) t 3 none noWord noWord
      else s
    | none => s)

/-! ## Hot estimate, bands, the thermal loop (R405, R406, R410, R413) -/

/-- The estimate of one layer (R405): its hottest node and its sensors in use; with none in use, the node plus 2 °C. -/
def Tile.layerHot (x : Tile) (l : Nat) : Int :=
  let used := ([0, 1, 2, 3].map (16 + 4 * l + ·)).filter fun i => !x.aside.contains i
  if used.isEmpty then x.hottest l + 32
  else used.foldl (fun (a : Int) i => max a (nth x.readings i 0)) (x.hottest l)

/-- The hottest layer, the lowest-numbered on a tie, with its estimate. -/
def Tile.hotOf (x : Tile) : Nat × Int :=
  (List.range 10).foldl (fun a l => if a.2 < x.layerHot l then (l, x.layerHot l) else a) (0, x.layerHot 0)

/-- Cooler bands that an estimate lets a tile return to (R406). -/
def coolBand (b : Nat) (h : Int) : Nat :=
  let b := if 3 ≤ b ∧ h < 1472 then 2 else b
  let b := if b = 2 ∧ h < 1312 then 1 else b
  if b = 1 ∧ h < 1152 then 0 else b

/-- The band after an estimate, in 1/16 °C (R406): 0 Slate, 1 Green, 2 Amber, 3 Crimson. -/
def bandAfter (b : Nat) (h : Int) : Nat :=
  max (coolBand b h) (if 1504 ≤ h then 3 else if 1344 ≤ h then 2 else if 1184 ≤ h then 1 else 0)

/-- The estimate 1 ms before cycle `now`, or the oldest there is; entries are newest first. -/
def estimateBefore (now : Nat) : List (Nat × Int) → Option Int
  | [] => none
  | (c, h) :: rest => if c + cyclesMs ≤ now then some h else match estimateBefore now rest with
    | some o => some o
    | none => some h

/-- Entries of the history that a later step may need: those of the last 1 ms and one before them. -/
def trimHistory (now : Nat) : List (Nat × Int) → List (Nat × Int)
  | [] => []
  | (c, h) :: rest => if c + cyclesMs ≤ now then [(c, h)] else (c, h) :: trimHistory now rest

/-- The hot estimate, the rise and the band of a model step (R405, R406): a change of band is sent to the tile's vaults
(R226) and as vector 4. -/
def setHeat (s : State) (t : Nat) : State :=
  let x := s.tile t
  let now := s.cycles .control
  let h := x.hotOf
  let rise := match estimateBefore now x.history with
    | some e => (h.2 - e).toNat
    | none => 0
  let band := bandAfter x.band h.2
  let s := s.setTile t { x with
    hot := h.2, hotLayer := h.1, rise := rise, band := band, history := trimHistory now ((now, h.2) :: x.history) }
  if band = x.band then s
  else sendMsixBoth (forEach (List.range 64) s fun s v => s.updVault t v fun y => { y with bandNotice := some band }) 4

/-- The projection in 1/16 °C (R405). -/
def Tile.projection (x : Tile) : Int := x.hot + x.rise

/-- A tile's step falls by one, with its record (R412, R413). -/
def stepDown (s : State) (t reason d4 : Nat) : State :=
  let x := s.tile t
  let s := s.setTile t { x with
    step := x.step - 1, lowest := min x.lowest (x.step - 1), shortfall := x.shortfall || decide (reason = 3) }
  let s := s.updPower fun p => { p with
    downsteps := satAdd p.downsteps 1, shortfalls := if reason = 3 then satAdd p.shortfalls 1 else p.shortfalls }
  postThermal s reason t (x.step - 1) x.step x.band d4

/-- A tile's step rises by one; a booked tile that returns to its floor step after a shortfall posts RECOVERED (R412). -/
def stepUp (s : State) (t : Nat) : State :=
  let x := s.tile t
  let back := x.shortfall && decide (x.step + 1 = s.fuses.floorStep)
  let s := s.setTile t { x with step := x.step + 1, lastUp := some (s.cycles .control), shortfall := x.shortfall && !back }
  if back && s.planBooked then postThermal s 4 t (x.step + 1) x.step x.band 0 else s

/-- The thermal loop's rules 2 to 4 (R410), with the shortfalls of a booked tile (R413). Temperatures in 1/16 °C; TARGET in
°C; RISE in 0.1 °C/ms. Where both halves of rule 2 hold the reason is RISE, as in the worked example of
spec/16_power_thermal.md at 0.40 ms (DEDUCED, log 166). -/
def thermalLoop (s : State) (t : Nat) : State :=
  let x := s.tile t
  let target : Int := 16 * s.power.target.toNat
  let rl := s.power.riseLim.toNat
  let f := s.fuses.floorStep
  let booked := s.planBooked
  let since := match x.lastUp with
    | some c => decide (c + cyclesMs ≤ s.cycles .control)
    | none => true
  if booked && decide (x.step ≤ f) && decide (1488 ≤ x.projection) then
    if 1 < x.step then stepDown s t 3 1 else s
  else if target ≤ x.projection ∨ 8 * rl < 5 * x.rise then
    if 1 < x.step ∧ !(booked && decide (x.step ≤ f)) then stepDown s t (if 8 * rl < 5 * x.rise then 2 else 1) 0 else s
  else if since && decide (x.projection < target - 48) && decide (5 * x.rise < 4 * rl) && decide (x.step < 16) then stepUp s t
  else s

/-- Bytes 0x00 to 0x47 of a copy of the start-attempt record, as its table lays them out (R428). -/
def Attempts.bytes (a : Attempts) : List Byte :=
  bytesOf 4 a.counter.toNat ++ [BitVec.ofNat 8 a.fails, BitVec.ofNat 8 a.newest, BitVec.ofNat 8 (b2n a.thermal), 0] ++
    a.entries.flatMap fun e => bytesOf 8 e.toNat

/-- A copy with its CRC-32C, at 0x48 of the record; a copy whose CRC is valid (R424, R428). -/
def Attempts.stamp (a : Attempts) : Attempts := { a with crc := crc32c a.bytes }
def Attempts.good (a : Attempts) : Bool := decide (a.crc = crc32c a.bytes)

/-- The marker's bytes that its CRC-32C covers. DESIGN CHOICE (log 167): R424 gives the marker a 32-bit counter and a CRC and no
layout; the slot is one byte after the counter. -/
def Marker.bytes (m : Marker) : List Byte := bytesOf 4 m.counter.toNat ++ [BitVec.ofNat 8 (b2n m.slotB)]
def Marker.stamp (m : Marker) : Marker := { m with crc := crc32c m.bytes }
def Marker.good (m : Marker) : Bool := decide (m.crc = crc32c m.bytes)

/-- The copy of the start-attempt record in force: the readable one with the greater counter (R428). -/
def Flash.governing (f : Flash) : Option Attempts :=
  (f.attempts.filter (·.good)).foldl (fun (a : Option Attempts) c => match a with
    | some b => if b.counter.toNat < c.counter.toNat then some c else some b
    | none => some c) none

/-- Write a new start-attempt record over the older copy (R424, R428). -/
def Flash.writeAttempts (f : Flash) (a : Attempts) : Flash :=
  let top := (f.attempts.map fun c => if c.good then c.counter.toNat else 0).foldl max 0
  let a := { a with counter := BitVec.ofNat 32 (top + 1) }.stamp
  match f.attempts with
  | [c, d] => if c.good && (!d.good || decide (d.counter.toNat < c.counter.toNat)) then { f with attempts := [c, a] }
    else { f with attempts := [a, d] }
  | _ => { f with attempts := [a, { Attempts.reset with crc := 0 }] }

/-- Attempt entry k with its reason code replaced (R428). -/
def Attempts.setReason (a : Attempts) (why : Nat) : Attempts :=
  { a with entries := a.entries.set a.newest (setFld (nth a.entries a.newest 0) 7 0 why) }

/-- The record area can be read and written by the device (R428, R464). -/
def State.flashFree (s : State) : Bool := s.sec.flash.readable && !s.sec.qspiExt

/-- Record a shutdown in the start-attempt record, unless the flash is held from outside (R416, R428, R464): the copy in
force gets a successor with byte 0x06 set; a start under way takes reason THERMAL. -/
def markThermal (s : State) : State :=
  match s.sec.flash.governing with
  | some a =>
    if s.flashFree then
      let a := { a with thermal := true }
      let a := if s.dev.state = .boot then a.setReason 0x09 else a
      s.updSec fun x => { x with flash := x.flash.writeAttempts a }
    else s
  | none => s

/-- A shutdown begins (R416 steps 2 and 3): its record, the flash; the device is off from the next period on. -/
def beginShutdown (s : State) (t : Nat) : State :=
  let x := s.tile t
  let s := postThermal s 6 t x.step x.step x.band 0
  (markThermal s).updPower fun p => { p with shuttingDown := true }

/-- THERMAL_MODEL_STEP of tile t (R403 to R406, R410, R413, R416). -/
def execThermalModelStep (t : Nat) (obs : ThermalObs) (s : State) : Answer :=
  .next (
    if s.clocked && s.tileUsable t && decide (obs.readings.length = 56) then
      let s := setHeat (followPlate (crossCheck (stepNodes s t) t obs) t obs) t
      if 1680 ≤ (s.tile t).hot then (if s.power.shuttingDown then s else beginShutdown s t) else thermalLoop s t
    else s)

/-! ## The flash's slots (R424, R432) -/

/-- The active slot is B: the marker with the higher counter of those with a valid CRC; slot A where none is (R424). -/
def Flash.activeB (f : Flash) : Bool :=
  ((f.markers.filter (·.good)).foldl (fun (a : Option Marker) c => match a with
    | some b => if b.counter.toNat < c.counter.toNat then some c else some b
    | none => some c) none).elim false (·.slotB)

/-- Make a slot active by rewriting the older marker (R424). -/
def Flash.setActive (f : Flash) (b : Bool) : Flash :=
  let top := (f.markers.map fun c => if c.good then c.counter.toNat else 0).foldl max 0
  let m := ({ counter := BitVec.ofNat 32 (top + 1), slotB := b, crc := 0 } : Marker).stamp
  match f.markers with
  | [c, d] => if c.good && (!d.good || decide (d.counter.toNat < c.counter.toNat)) then { f with markers := [c, m] }
    else { f with markers := [m, d] }
  | _ => { f with markers := [m, { m with crc := m.crc ^^^ 1 }] }

/-- Where the parts of the 64 MiB flash lie: offset and size of the record area, the sealed keys and DeviceID certificates, slot A
and slot B (R424). -/
def flashLayout : List (Nat × Nat) :=
  [(0x0000000, 2 ^ 20), (0x0100000, 2 ^ 20), (0x1000000, 24 * 2 ^ 20), (0x2800000, 24 * 2 ^ 20)]

/-- Slot B or A. -/
def Flash.slot (f : Flash) (b : Bool) : FwSlot := if b then f.slotB else f.slotA
def Flash.setSlot (f : Flash) (b : Bool) (w : FwSlot) : Flash := if b then { f with slotB := w } else { f with slotA := w }

/-- An FW_STAGE in progress is interrupted: its slot is left invalid (R432). -/
def stageBroken (s : State) : State :=
  match s.dev.long with
  | some l =>
    if fld l.pkt 7 0 = 0x40 then s.updSec fun x => { x with
      flash := x.flash.setSlot (!x.flash.activeB) { x.flash.slot (!x.flash.activeB) with invalid := true } }
    else s
  | none => s

/-! ## Loss of everything (R398, R416, R434, R441) -/

/-- What no reset keeps is gone (R398, R434): the state at reset, but for the fuses, the flash, the levels that the board
drives on the balls, the TAP, a shutdown under way (R416), the host's memory and what has been output; and the model's own
counters. -/
def State.blank (s : State) : State :=
  { State.reset with
    fuses := s.fuses, dev := Dev.reset s.fuses.part
    power := { Power.reset s.fuses.part with
      supplies := s.power.supplies, vinOk := s.power.vinOk, vauxOk := s.power.vauxOk, vioOk := s.power.vioOk
      latchedOff := s.power.latchedOff, inEnergy := s.power.inEnergy, inPast := [s.power.inEnergy], shuttingDown := s.power.shuttingDown }
    sec := { Sec.reset with
      flash := s.sec.flash, cause := s.sec.cause, qspiExt := s.sec.qspiExt, freezeLow := s.sec.freezeLow
      elsFlt := s.sec.elsFlt, ir := s.sec.ir, bsr := s.sec.bsr }
    ports := tset Port.reset (tset Port.reset [] 0 { Port.reset with perst := (s.port 0).perst }) 1
      { Port.reset with perst := (s.port 1).perst }
    hostMem := s.hostMem, out := s.out, epoch := s.epoch + 1, free := s.free, nextRq := s.nextRq, pending := s.pending }

/-- The device enters OFF: every regulator output is off and all contents are lost (R398, R416). -/
def powerOff (s : State) : State :=
  let s := (stageBroken s).blank
  let s := s.updSec fun x => { x with cause := 0, ir := 0x02, bsr := [] }
  (s.updPower fun p => { p with inEnergy := 0, inPast := [0], shuttingDown := false }).updDev fun d => { d with state := .off }

/-- Every island is reset and the device waits in BOOT for the release of reset (R24, R434), with the cause in
SEC_RESETCAUSE (R446). -/
def resetAll (s : State) (cause : Nat) : State :=
  ((stageBroken s).blank).updSec fun x => { x with cause := BitVec.ofNat 4 cause }

/-- A shutdown takes the device to OFF, the input stage latched (R416). -/
def shutOff (s : State) : State := (powerOff s).updPower fun p => { p with latchedOff := true }

/-- POWER_LOOP_TICK (R409); a shutdown under way takes the device to OFF (R416). -/
def execPowerLoopTick (s : State) : Answer :=
  .next (if s.power.shuttingDown && decide (s.dev.state ≠ .off) then shutOff s else if s.clocked then powerLoop s else s)

/-- HARDWARE_TRIP: every output is off at once. Nothing but that is guaranteed: whether the record is posted and whether
the flash takes it is free (R416). -/
def execHardwareTrip (t sensor : Nat) (s : State) : Answer :=
  .next (
    if decide (s.dev.state ≠ .off) && decide (s.dev.state ≠ .grey) && s.tilePresent t && decide (sensor < 16) then
      let d := s.free
      let s := s.drawn
      let s := if s.awake && Config.freeBool d 0 then postThermal s 6 noWord noWord noWord noWord 0 else s
      shutOff (if s.awake && Config.freeBool d 1 then markThermal s else s)
    else s)

/-- A supply with its hysteresis: valid from its upper threshold on, until it falls below the lower one (R397). -/
def supplyOk (was : Bool) (v hi lo : Nat) : Bool := if was then decide (lo ≤ v) else decide (hi ≤ v)

/-- New levels on the balls (R397). -/
def Power.withSupplies (p : Power) (sup : Supplies) : Power :=
  { p with
    supplies := sup, vinOk := supplyOk p.vinOk sup.vin 3800 3600, vauxOk := supplyOk p.vauxOk sup.vaux 3000 2900
    vioOk := supplyOk p.vioOk sup.vio 1620 1550 }

/-- SUPPLY_VALID: all three supplies have become valid (R397, R398); reset is then released. -/
def execSupplyValid (sup : Supplies) (s : State) : Answer :=
  .next (
    if (s.power.withSupplies sup).valid && !s.power.valid then { s with power := s.power.withSupplies sup } else s)

/-- SUPPLY_INVALID: a supply has fallen below its invalid threshold (R397, R398); VIN's fall ends the latch of R416. -/
def execSupplyInvalid (sup : Supplies) (s : State) : Answer :=
  .next (
    if decide (sup.vin < 3600) || decide (sup.vaux < 2900) || decide (sup.vio < 1550) then
      (powerOff s).updPower fun p => { p.withSupplies sup with latchedOff := p.latchedOff && decide (3600 ≤ sup.vin) }
    else s)

/-- The device freezes (R441): links drop, rows are precharged, every clock stops; a command in progress or deferred ends
without a final status (R312, R313). -/
def freezeAll (s : State) : State :=
  let was := s.dev.state
  let s := stageBroken s
  let s := forEach [0, 1] s fun s x => s.updPort x fun p => { p with up := false, bme := false, recovering := false, losing := none }
  let s := forEach s.linkList s fun s n => s.updLink n fun l => { l with state := .down }
  let s := forEach (s.vaults.map Prod.fst) s fun s i => s.updVault (i / 64) (i % 64) fun v => { v with openRow := List.replicate 8 none }
  let s := s.updSec fun x => { x with freezeOut := true, freezeLow := true }
  (s.updDev fun d => { d with long := none, deferred := none, starting := none, arrivals := [], job := none, preFreeze := was }).enter .frozen

/-! ## Sideband outputs (R13, R452) -/

/-- The state that the levels follow: in FROZEN the one before. -/
def State.pinState (s : State) : DevState := if s.dev.state = .frozen then s.dev.preFreeze else s.dev.state

/-- The device drives its sideband outputs (R13, R452). -/
def State.driven (s : State) : Bool := !s.dev.inReset && decide (s.dev.state ≠ .off)

/-- READY_N is asserted (R22, R452). -/
def State.readyOut (s : State) : Bool :=
  s.driven && (s.planBooked || decide (s.dev.state = .ready) || decide (s.dev.state = .bank) || decide (s.dev.state = .degraded))

/-- FAULT_N is asserted (R452). -/
def State.faultOut (s : State) : Bool :=
  s.driven && (decide (s.pinState = .grey) || s.power.shuttingDown ||
    s.dev.faults.any fun f => !f.cleared && [0x02, 0x03, 0x09, 0x19].contains (fld f.bits 63 56))

/-- THERM_N is asserted (R406, R452). -/
def State.thermOut (s : State) : Bool :=
  s.driven && (s.power.shuttingDown || s.tileList.any fun t => decide ((s.tile t).band = 3))

/-- ELSe_ON_N is asserted: the links of PEe may train (R452). -/
def State.elsOut (s : State) : Bool :=
  s.driven && (s.planBooked || decide (s.dev.state = .ready) || decide (s.dev.state = .bank) || decide (s.dev.state = .degraded)) &&
    !tst s.dev.straps 3

end Sys2Proof.Machine
end

