-- ==== Sys2Proof/Machine/Num.lean ====
section
/-!
DEFINITION. Element types and arithmetic rules (R29 to R54, R468): exact values, decoding every element type, rounding
under every mode with its flags, conversions, block formats, exact sums and products.
-/
namespace Sys2Proof.Machine

/-- The exact value of an element: a NaN (signalling or quiet), an infinity, or ±m × 2^e; m = 0 is a signed zero. -/
inductive Val where
  | nan (signalling : Bool)
  | inf (neg : Bool)
  | fin (neg : Bool) (m : Nat) (e : Int)
  deriving DecidableEq, Repr

/-- The lane flags (R50). -/
abbrev Flags := BitVec 8
def fInvalid : Flags := 1
def fDivzero : Flags := 2
def fOverflow : Flags := 4
def fUnderflow : Flags := 8
def fInexact : Flags := 16
def fSaturate : Flags := 32
def fEmpty : Flags := 64
def fInfshare : Flags := 128

/-- A flag if the condition holds. -/
def flagIf (b : Bool) (f : Flags) : Flags := if b then f else 0

/-- Rounding modes (R47); codes 6 and 7 are RNE. -/
inductive Rm where
  | rne | rtz | rup | rdn | rna | sr
  deriving DecidableEq, Repr

def rmOf (n : Nat) : Rm :=
  match n with
  | 1 => .rtz | 2 => .rup | 3 => .rdn | 4 => .rna | 5 => .sr | _ => .rne

/-! ## Floating-point layouts (R31, R32) -/

/-- What the all-ones exponent means: infinities and NaNs, the E4M3 single NaN, or nothing special. -/
inductive Special where
  | ieee | e4m3 | none
  deriving DecidableEq, Repr

structure Fmt where
  ebits : Nat
  fbits : Nat
  bias : Nat
  special : Special
  deriving DecidableEq, Repr

def fp32 : Fmt := ⟨8, 23, 127, .ieee⟩
def fp16 : Fmt := ⟨5, 10, 15, .ieee⟩
def bf16 : Fmt := ⟨8, 7, 127, .ieee⟩
def e4m3 : Fmt := ⟨4, 3, 7, .e4m3⟩
def e5m2 : Fmt := ⟨5, 2, 15, .ieee⟩
def e2m3 : Fmt := ⟨2, 3, 1, .none⟩
def e3m2 : Fmt := ⟨3, 2, 3, .none⟩
def e2m1 : Fmt := ⟨2, 1, 1, .none⟩

/-- Bits of an element. -/
def Fmt.width (f : Fmt) : Nat := 1 + f.ebits + f.fbits

/-- Exponent of the smallest normal value. -/
def Fmt.emin (f : Fmt) : Int := 1 - f.bias

/-- Exponent of the largest finite value. -/
def Fmt.emax (f : Fmt) : Int :=
  match f.special with
  | .ieee => 2 ^ f.ebits - 2 - (f.bias : Int)
  | _ => 2 ^ f.ebits - 1 - (f.bias : Int)

/-- Significand of the largest finite value, in units of 2^(emax − fbits) (R32). -/
def Fmt.maxSig (f : Fmt) : Nat :=
  match f.special with
  | .e4m3 => 14
  | _ => 2 ^ (f.fbits + 1) - 1

/-- The encoding of the largest finite magnitude. -/
def Fmt.maxCode (f : Fmt) : Nat := (f.emax - f.emin).toNat * 2 ^ f.fbits + f.maxSig

/-- The encoding of infinity's magnitude where there is one. -/
def Fmt.infCode (f : Fmt) : Nat := (2 ^ f.ebits - 1) * 2 ^ f.fbits

/-- The canonical NaN (R32). -/
def Fmt.nanCode (f : Fmt) : Nat :=
  match f.special with
  | .ieee => f.infCode + 2 ^ (f.fbits - 1)
  | _ => 2 ^ (f.ebits + f.fbits) - 1

/-- The value an encoding stands for (R31, R32). -/
def Fmt.decode (f : Fmt) (w : Nat) : Val :=
  let neg := w.testBit (f.ebits + f.fbits)
  let x := w / 2 ^ f.fbits % 2 ^ f.ebits
  let y := w % 2 ^ f.fbits
  let ones := decide (x = 2 ^ f.ebits - 1)
  match f.special, ones with
  | .ieee, true => if y = 0 then .inf neg else .nan (decide (y < 2 ^ (f.fbits - 1)))
  | .e4m3, true =>
    if y = 2 ^ f.fbits - 1 then .nan false
    else .fin neg (2 ^ f.fbits + y) (x - (f.bias : Int) - f.fbits)
  | _, _ => if x = 0 then .fin neg y (f.emin - f.fbits) else .fin neg (2 ^ f.fbits + y) (x - (f.bias : Int) - f.fbits)

/-! ## Rounding (R47, R48) -/

/-- Whether the discarded part r of 2^k rounds the magnitude away from zero; `odd`: the kept part is odd; u: the
16-bit draw of SR. -/
def roundsAway (rm : Rm) (neg odd : Bool) (r k u : Nat) : Bool :=
  match rm with
  | .rne => decide (2 ^ k < 2 * r) || (decide (2 * r = 2 ^ k) && odd)
  | .rtz => false
  | .rup => decide (r ≠ 0) && !neg
  | .rdn => decide (r ≠ 0) && neg
  | .rna => decide (2 ^ k ≤ 2 * r)
  | .sr => decide (65536 ≤ r * 65536 / 2 ^ k + u)

/-- m × 2^e in whole units of 2^q, and whether that is inexact. -/
def roundUnits (rm : Rm) (neg : Bool) (m : Nat) (e q : Int) (u : Nat) : Nat × Bool :=
  if q ≤ e then (m * 2 ^ (e - q).toNat, false)
  else
    let k := (q - e).toNat
    let kept := m / 2 ^ k
    let r := m % 2 ^ k
    (if roundsAway rm neg (kept % 2 = 1) r k u then kept + 1 else kept, decide (r ≠ 0))

/-- floor(log2 (m × 2^e)) for m not 0. -/
def magExp (m : Nat) (e : Int) : Int := (Nat.log2 m : Int) + e

/-- a × 2^x < b × 2^y. -/
def ltPow (a : Nat) (x : Int) (b : Nat) (y : Int) : Bool :=
  if x ≤ y then decide (a < b * 2 ^ (y - x).toNat) else decide (a * 2 ^ (x - y).toNat < b)

/-- The sign bit of a format. -/
def Fmt.signBit (f : Fmt) (neg : Bool) : Nat := b2n neg * 2 ^ (f.ebits + f.fbits)

/-- What a finite overflow delivers (R46): a directed mode that IEEE 754 rounds to the largest finite value gives it,
whatever SAT. -/
def Fmt.overflow (f : Fmt) (rm : Rm) (sat neg : Bool) : Nat × Flags :=
  let directed := rm = .rtz || (rm = .rup && neg) || (rm = .rdn && !neg)
  let satEntry := sat || f.special = .none
  if directed then (f.signBit neg + f.maxCode, fOverflow ||| fInexact ||| flagIf satEntry fSaturate)
  else if satEntry then (f.signBit neg + f.maxCode, fSaturate ||| fInexact)
  else match f.special with
    | .e4m3 => (f.nanCode, fOverflow ||| fInexact)
    | _ => (f.signBit neg + f.infCode, fOverflow ||| fInexact)

/-- A value delivered in a floating-point format (R44, R46): encoding and flags. -/
def Fmt.encode (f : Fmt) (rm : Rm) (sat : Bool) (u : Nat) : Val → Nat × Flags
  | .nan sig => match f.special with
    | .none => (0, fInvalid)
    | _ => (f.nanCode, flagIf sig fInvalid)
  | .inf neg => match f.special with
    | .none => (f.signBit neg + f.maxCode, fSaturate)
    | .e4m3 => if sat then (f.signBit neg + f.maxCode, fSaturate) else (f.nanCode, fOverflow)
    | .ieee => if sat then (f.signBit neg + f.maxCode, fSaturate) else (f.signBit neg + f.infCode, 0)
  | .fin neg m e =>
    if m = 0 then (f.signBit neg, 0)
    else
      let q := max (magExp m e) f.emin - f.fbits
      let r := roundUnits rm neg m e q u
      if ltPow f.maxSig (f.emax - f.fbits) r.1 q then f.overflow rm sat neg
      else
        (f.signBit neg + (q - (f.emin - f.fbits)).toNat * 2 ^ f.fbits + r.1,
          flagIf r.2 fInexact ||| flagIf (r.2 && ltPow r.1 q 1 f.emin) fUnderflow)

/-! ## Integers (R33, R46) -/

/-- The value of an integer. -/
def ofInt (i : Int) : Val := .fin (decide (i < 0)) i.natAbs 0

/-- A value delivered as a two's complement integer of w bits (R46). -/
def toInt (w : Nat) (rm : Rm) (u : Nat) : Val → Int × Flags
  | .nan _ => (0, fInvalid)
  | .inf neg => (if neg then -(2 ^ (w - 1)) else 2 ^ (w - 1) - 1, fSaturate)
  | .fin neg m e =>
    let r := roundUnits rm neg m e 0 u
    let i : Int := if neg then -(r.1 : Int) else r.1
    if 2 ^ (w - 1) ≤ i then (2 ^ (w - 1) - 1, fSaturate ||| fInexact)
    else if i < -(2 ^ (w - 1)) then (-(2 ^ (w - 1)), fSaturate ||| fInexact)
    else (i, flagIf r.2 fInexact)

/-- INT1 (R33, R46): bit 1 means −1. -/
def toInt1 : Val → Nat × Flags
  | .nan _ => (0, fInvalid ||| fInexact)
  | .inf neg => (b2n neg, fInexact)
  | .fin neg m e => (b2n (neg && decide (m ≠ 0)), flagIf (!(decide (m ≠ 0) && !ltPow m e 1 0 && !ltPow 1 0 m e)) fInexact)

/-- An integer's encoding in w bits. -/
def intCode (w : Nat) (i : Int) : Nat := (i % 2 ^ w).toNat

/-! ## E8M0 (R468) -/

/-- A value delivered as E8M0: encoding and flags. -/
def toE8M0 (rm : Rm) (u : Nat) : Val → Nat × Flags
  | .nan sig => (0xFF, flagIf sig fInvalid)
  | .inf true => (0xFF, fInvalid)
  | .inf false => (0xFE, fSaturate)
  | .fin neg m e =>
    if m = 0 then (0, fSaturate)
    else if neg then (0xFF, fInvalid)
    else
      let k := magExp m e
      let n := Nat.log2 m
      let r := m % 2 ^ n
      -- the encoding of 2^k is k + 127: a tie goes to the even encoding
      let up := roundsAway rm false ((k + 127) % 2 = 1) r n u
      let k' := if up then k + 1 else k
      if 127 < k' then (0xFE, fSaturate ||| fInexact)
      else if k' < -127 then (0, fSaturate ||| fInexact)
      else ((k' + 127).toNat, flagIf (decide (r ≠ 0)) fInexact)

/-! ## Elements by type code (R29, R30) -/

/-- Element types that stand alone; block formats name their element type and scale. -/
inductive ETy where
  | flt (f : Fmt)
  | int (w : Nat)
  | int1
  | e8m0
  deriving DecidableEq, Repr

/-- Code to element type; reserved codes are FP32 (R30). Block codes give the type of their elements. -/
def etyOf (code : Nat) : ETy :=
  match code with
  | 0x01 => .flt fp16 | 0x02 => .flt bf16 | 0x03 => .flt e4m3 | 0x04 => .flt e5m2 | 0x05 => .flt e2m3
  | 0x06 => .flt e3m2 | 0x07 => .flt e2m1 | 0x08 => .int 32 | 0x09 => .int 8 | 0x0A => .int 4 | 0x0B => .int 2
  | 0x0C => .int1 | 0x0D => .e8m0 | 0x10 => .flt e4m3 | 0x11 => .flt e5m2 | 0x12 => .flt e2m3 | 0x13 => .flt e3m2
  | 0x14 => .flt e2m1 | 0x15 => .int 8 | _ => .flt fp32

/-- Exponents of the greatest binade and of the lowest bit of a format. -/
def Fmt.top (f : Fmt) : Int := (2 ^ f.ebits : Nat) - 1 - b2n (decide (f.special = .ieee)) - f.bias
def Fmt.lowest (f : Fmt) : Int := 1 - (f.bias : Int) - f.fbits

/-- Every value of the first float type is one of the second: the conversion is widening (R45). -/
def widens (src dst : ETy) : Bool :=
  match src, dst with
  | .flt f, .flt g => decide (f.fbits ≤ g.fbits) && decide (f.top ≤ g.top) && decide (g.lowest ≤ f.lowest)
  | _, _ => false

/-- MX types (R29). -/
def isMx (code : Nat) : Bool := decide (0x10 ≤ code) && decide (code ≤ 0x15)

/-- PSB (R29). -/
def isPsb (code : Nat) : Bool := code = 0x18

/-- Bits of one element, block formats counting their element alone. -/
def ETy.width : ETy → Nat
  | .flt f => f.width
  | .int w => w
  | .int1 => 1
  | .e8m0 => 8

/-- The value of an element's bits. -/
def ETy.decode : ETy → Nat → Val
  | .flt f, w => f.decode w
  | .int k, w => ofInt (sext k w)
  | .int1, w => .fin (w.testBit 0) 1 0
  | .e8m0, w => if w % 256 = 255 then .nan false else .fin false 1 ((w % 256 : Nat) - (127 : Int))

/-- A value converted into an element type (R46, R468): encoding and flags. -/
def ETy.encode (t : ETy) (rm : Rm) (sat : Bool) (u : Nat) (v : Val) : Nat × Flags :=
  match t with
  | .flt f => f.encode rm sat u v
  | .int w => let r := toInt w rm u v; (intCode w r.1, r.2)
  | .int1 => toInt1 v
  | .e8m0 => toE8M0 rm u v

/-! ## FP32 in and out -/

def f32 (b : BitVec 32) : Val := fp32.decode b.toNat

/-- A value as FP32 under a mode; SAT as asked. -/
def toF32 (rm : Rm) (sat : Bool) (u : Nat) (v : Val) : BitVec 32 × Flags :=
  let r := fp32.encode rm sat u v
  (BitVec.ofNat 32 r.1, r.2)

def canonNaN : BitVec 32 := 0x7FC00000

/-! ## Block formats (R35 to R41) -/

/-- The value scaled by 2^k. -/
def Val.scale (v : Val) (k : Int) : Val :=
  match v with
  | .fin n m e => .fin n m (e + k)
  | v => v

/-- Element of an MX block with scale byte X (R35); MXINT8 elements are i/64. -/
def mxValue (code x w : Nat) : Val :=
  if x = 255 then .nan false
  else
    let v := (etyOf code).decode w
    (if code = 0x15 then v.scale (-6) else v).scale ((x : Int) - 127)

/-- Element of a PSB block read with p planes (R38 to R40): exponent byte, sign, seven magnitude bits with b1 highest.
DESIGN CHOICE (log 154): with p = 0 and exponent 0xFF, where R38 gives a NaN and R39 a signed zero, it is a NaN. -/
def psbValue (x : Nat) (neg : Bool) (mag p : Nat) (comp : Bool) : Val :=
  if x = 255 then .nan false
  else
    let fp := mag / 2 ^ (7 - p) * 2 ^ (7 - p)
    let m := 2 * fp + (if comp ∧ fp ≠ 0 ∧ p < 7 then 2 ^ (7 - p) else 0)
    .fin neg m ((x : Int) - 127 - 7)

/-- Emax of the block formats in step 4 of R41. -/
def blockEmax (code : Nat) : Int :=
  match code with
  | 0x10 => 8 | 0x11 => 15 | 0x12 => 2 | 0x13 => 4 | 0x14 => 2 | _ => 0

/-- The greater of two magnitudes m × 2^e. -/
def maxMag (a b : Nat × Int) : Nat × Int := if ltPow a.1 a.2 b.1 b.2 then b else a

/-- Largest finite magnitude of a block. -/
def blockMax (vs : List Val) : Nat × Int :=
  vs.foldl (fun a v => match v with
    | .fin _ m e => maxMag a (m, e)
    | _ => a) (0, 0)

/-- One element of a block rounded onto its grid and clamped (R41 steps 5 and 6). MXINT8 and PSB elements come out as
sign and magnitude of 7 bits in units of 1/64. -/
def blockElem (code : Nat) (rm : Rm) (u : Nat) (v : Val) : Nat × Flags :=
  match v with
  | .nan _ => (0, 0)
  | .inf neg => (e5m2.signBit neg + e5m2.infCode, 0)
  | .fin neg m e =>
    if code = 0x15 ∨ code = 0x18 then
      let r := roundUnits rm neg m e (-6) u
      (b2n neg * 128 + min 127 r.1, flagIf (r.2 || decide (127 < r.1)) fInexact ||| flagIf (decide (127 < r.1)) fSaturate)
    else match etyOf code with
      | .flt f =>
        if m = 0 then (f.signBit neg, 0)
        else
          let q := max (magExp m e) f.emin - f.fbits
          let r := roundUnits rm neg m e q u
          if ltPow f.maxSig (f.emax - f.fbits) r.1 q then
            (f.signBit neg + f.maxCode, fSaturate ||| fInexact)
          else
            (f.signBit neg + (q - (f.emin - f.fbits)).toNat * 2 ^ f.fbits + r.1,
              flagIf r.2 fInexact ||| flagIf (r.2 && ltPow r.1 q 1 f.emin) fUnderflow)
      | _ => (0, 0)

/-- A block converted to an MX type or PSB (R41): scale or exponent byte, element codes, and each element's flags with
those of the block. Elements of MXINT8 are two's complement; of PSB sign × 128 + magnitude. -/
def blockEncode (code : Nat) (rm : Rm) (us : List Nat) (vs : List Val) : Nat × List Nat × List Flags :=
  let isNan := vs.any fun v => match v with
    | .nan _ => true
    | _ => false
  let isInf := vs.any fun v => match v with
    | .inf _ => true
    | _ => false
  if isNan || (isInf && code ≠ 0x11) then
    (0xFF, vs.map (fun _ => 0), vs.map (fun _ => fInvalid))
  else
    let mx := blockMax vs
    let x : Int := if mx.1 = 0 then 0 else max 0 (min 254 (magExp mx.1 mx.2 - blockEmax code + 127))
    let els := (vs.zip us).map fun (v, u) => blockElem code rm u (v.scale (127 - x))
    (x.toNat, els.map (fun r => if code = 0x15 then (if 128 ≤ r.1 then (256 - r.1 % 128) % 256 else r.1) else r.1),
      els.map Prod.snd)

/-! ## Arithmetic on exact values (R42, R43) -/

def Val.isNan : Val → Bool
  | .nan _ => true
  | _ => false
def Val.isSig : Val → Bool
  | .nan s => s
  | _ => false
def Val.isNeg : Val → Bool
  | .inf n => n
  | .fin n _ _ => n
  | .nan _ => false
def Val.isZero : Val → Bool
  | .fin _ 0 _ => true
  | _ => false
def Val.neg : Val → Val
  | .inf n => .inf (!n)
  | .fin n m e => .fin (!n) m e
  | v => v
def Val.abs : Val → Val
  | .inf _ => .inf false
  | .fin _ m e => .fin false m e
  | v => v

/-- The signed integer a finite value is in units of 2^q, q at most its exponent. -/
def unitsAt (neg : Bool) (m : Nat) (e q : Int) : Int :=
  let k : Nat := m * 2 ^ (e - q).toNat
  if neg then -(k : Int) else k

/-- The exact sum; an exact zero of unlike signs is +0, or −0 under RDN (R43). -/
def addVal (rm : Rm) (a b : Val) : Val × Flags :=
  match a, b with
  | .nan s, y => (.nan false, flagIf (s || y.isSig) fInvalid)
  | x, .nan s => (.nan false, flagIf (s || x.isSig) fInvalid)
  | .inf n, .inf m => if n = m then (.inf n, 0) else (.nan false, fInvalid)
  | .inf n, _ => (.inf n, 0)
  | _, .inf n => (.inf n, 0)
  | .fin n m e, .fin n' m' e' =>
    let q := min e e'
    let t := unitsAt n m e q + unitsAt n' m' e' q
    if t = 0 then (.fin (if n = n' then n else decide (rm = .rdn)) 0 q, 0)
    else (.fin (decide (t < 0)) t.natAbs q, 0)

/-- The exact product. -/
def mulVal (a b : Val) : Val × Flags :=
  match a, b with
  | .nan s, y => (.nan false, flagIf (s || y.isSig) fInvalid)
  | x, .nan s => (.nan false, flagIf (s || x.isSig) fInvalid)
  | .inf n, y => if y.isZero then (.nan false, fInvalid) else (.inf (n != y.isNeg), 0)
  | x, .inf n => if x.isZero then (.nan false, fInvalid) else (.inf (n != x.isNeg), 0)
  | .fin n m e, .fin n' m' e' => (.fin (n != n') (m * m') (e + e'), 0)

/-- a is below b, −0 below +0; NaNs apart (R43). -/
def ltVal (a b : Val) : Bool :=
  match a, b with
  | .nan _, _ => false
  | _, .nan _ => false
  | .inf n, .inf m => n && !m
  | .inf n, _ => n
  | _, .inf n => !n
  | .fin n m e, .fin n' m' e' =>
    if m = 0 ∧ m' = 0 then n && !n'
    else
      let q := min e e'
      decide (unitsAt n m e q < unitsAt n' m' e' q)

/-- Equality of values, zeros of either sign equal. -/
def eqVal (a b : Val) : Bool :=
  match a, b with
  | .nan _, _ => false
  | _, .nan _ => false
  | .inf n, .inf m => n = m
  | .fin n m e, .fin n' m' e' => let q := min e e'; decide (unitsAt n m e q = unitsAt n' m' e' q)
  | _, _ => false

/-- Maximum and minimum (R43). -/
def maxVal (a b : Val) : Val × Flags :=
  if a.isNan || b.isNan then (.nan false, flagIf (a.isSig || b.isSig) fInvalid) else (if ltVal a b then b else a, 0)
def minVal (a b : Val) : Val × Flags :=
  if a.isNan || b.isNan then (.nan false, flagIf (a.isSig || b.isSig) fInvalid) else (if ltVal b a then b else a, 0)

/-- An operation's exact result delivered in FP32, with the operation's own flags. -/
def deliverF32 (rm : Rm) (sat : Bool) (u : Nat) (r : Val × Flags) : BitVec 32 × Flags :=
  let d := toF32 rm sat u r.1
  (d.1, r.2 ||| d.2)

/-! ## Accumulating writes (R54, R147) -/

/-- ADD_FP32, MAX_FP32, ADD_INT32 and ADD_BF16 on one element (R54). -/
def addF32 (a b : BitVec 32) : BitVec 32 := (toF32 .rne false 0 (addVal .rne (f32 a) (f32 b)).1).1
def maxF32 (a b : BitVec 32) : BitVec 32 := (toF32 .rne false 0 (maxVal (f32 a) (f32 b)).1).1
def addI32 (a b : BitVec 32) : BitVec 32 :=
  let t := a.toInt + b.toInt
  if 2 ^ 31 ≤ t then 0x7FFFFFFF else if t < -(2 ^ 31) then 0x80000000 else BitVec.ofInt 32 t
def addBf16 (a b : Nat) : Nat := (bf16.encode .rne false 0 (addVal .rne (bf16.decode a) (bf16.decode b)).1).1

/-! ## Stochastic rounding (R49) -/

/-- The state of a lane at the start of a leg (R49). -/
def laneState (seed step : BitVec 32) (leg lane : Nat) : BitVec 32 :=
  let x := seed ^^^ (step * 0xC2B2AE35) ^^^ (BitVec.ofNat 32 leg * 0x85EBCA6B) ^^^ (BitVec.ofNat 32 lane * 0x9E3779B9)
  if x = 0 then 1 else x

/-- One draw: the 16-bit value and the state after it (R49). -/
def laneDraw (x : BitVec 32) : Nat × BitVec 32 :=
  let x := x ^^^ (x <<< 13)
  let x := x ^^^ (x >>> 17)
  let x := x ^^^ (x <<< 5)
  ((x >>> 16).toNat, x)

/-- Width in bytes of an accumulating write's elements (R147). -/
def accWidth (op : Nat) : Nat := if op = 2 then 2 else 4

/-- One element combined (R54). -/
def accElem (op old new : Nat) : Nat :=
  match op with
  | 2 => addBf16 old new
  | 3 => (maxF32 (BitVec.ofNat 32 old) (BitVec.ofNat 32 new)).toNat
  | 4 => (addI32 (BitVec.ofNat 32 old) (BitVec.ofNat 32 new)).toNat
  | _ => (addF32 (BitVec.ofNat 32 old) (BitVec.ofNat 32 new)).toNat

/-- A line with every masked element combined (R233). -/
def accLine (op : Nat) (old new : Line) (mask : BitVec 64) : Line :=
  let w := accWidth op
  BitVec.ofNat 512 (pack ((List.range (64 / w)).map fun i =>
    let a := nfld old.toNat (8 * w * i + 8 * w - 1) (8 * w * i)
    let b := nfld new.toNat (8 * w * i + 8 * w - 1) (8 * w * i)
    (8 * w * i, if mask.getLsbD (w * i) then accElem op a b else a)))

end Sys2Proof.Machine
end

