-- ==== Sys2Proof/Machine/Vault.lean ====
section
/-!
DEFINITION. Vault controllers at work (R222 to R235, R241 to R257, R276, R387): accepting, choosing and serving requests,
row state, refresh and neighbour refresh, calibration slots, the scrubber, erasure marking, the loss of a vault.
-/
namespace Sys2Proof.Machine

/-! ## Choosing a request (R223, R234, R245, R291) -/

/-- A request waits for a back-invalidation that its acceptance started (R291). -/
def State.awaitsHost (s : State) (r : Rq) : Bool := [0, 1].any fun x => (s.port x).waitBi.contains r

/-- Bank stack and row of a vault's line. -/
def lineBank (line : Nat) : Nat := line / 2 ^ 22 % 8
def lineRow (line : Nat) : Nat := line / 256 % 16384

/-- A read that makes no DRAM access: its granule's bit is 0 and not being set (R244). -/
def State.noAccess (s : State) (r : Rq) : Bool :=
  decide (r.kind = .read) && !s.granuleValid r.tile (s.granuleOf (placeOf r.tile r.vault r.line))

/-- Request e of the queue, with those before it, can go to the DRAM now, the write drain apart. -/
def State.canServe (s : State) (t v : Nat) (before : List QEnt) (e : QEnt) : Bool :=
  let x := s.vault t v
  let r := e.rq
  let b := lineBank r.line
  let g := s.granuleOf (placeOf t v r.line)
  !(before.any fun q => decide (q.rq.line = r.line) || decide (32 ≤ q.passed)) &&
    !(x.rmw.any fun q => q.rq.line = r.line) && !(s.tile t).filling.contains g && !s.awaitsHost r &&
    (s.noAccess r || x.canTransfer b (lineRow r.line))

/-- Queue entries with those before each. -/
def withBefore {α : Type} : List α → List α → List (List α × α)
  | _, [] => []
  | pre, e :: es => (pre, e) :: withBefore (pre ++ [e]) es

/-- Entries of the queue that can go now, by a test of the request. -/
def State.someServe (s : State) (t v : Nat) (p : Rq → Bool) : Bool :=
  (withBefore [] (s.vault t v).queue).any fun e => p e.2.rq && s.canServe t v e.1 e.2

/-- A vault serves requests: not lost, not in a calibration slot or a requested calibration (R232). -/
def State.vaultServes (s : State) (t v : Nat) : Bool :=
  s.clocked && s.vaultUsable t v && !(s.vault t v).calSlot && !(s.vault t v).calibrating

/-- A request hits the open row of its bank stack. -/
def Vault.hits (x : Vault) (r : Rq) : Bool := decide (nth x.openRow (lineBank r.line) none = some (lineRow r.line))

/-- Writes wait until 24 are held or no read can go, and then drain together (R223): requests of r's kind are served now. -/
def State.kindServed (s : State) (t v : Nat) (r : Rq) : Bool :=
  let x := s.vault t v
  let isRd := fun (r : Rq) => decide (r.kind = .read)
  let writes := (x.queue.filter fun q => !isRd q.rq).length
  if isRd r then !x.draining || !s.someServe t v fun r => !isRd r
  else x.draining || decide (24 ≤ writes) || !s.someServe t v isRd

/-- A request that goes ahead of r, the one at place k (R223): one of the same kind for the same bank stack that hits the
open row where r does not, or is older and no worse in that. -/
def Vault.ahead (x : Vault) (k : Nat) (r : Rq) (j : Nat) (q : Rq) : Bool :=
  decide (lineBank q.line = lineBank r.line) && decide (q.kind = .read ↔ r.kind = .read) &&
    ((x.hits q && !x.hits r) || (decide (j < k) && (x.hits q || !x.hits r)))

/-- Entry k of the queue may be chosen (R223). Which bank stack's timing allows first is not the model's: within one, row hits
go first, and otherwise the oldest. A read that makes no DRAM access waits for no bank stack (R244). -/
def State.mayServe (s : State) (t v k : Nat) : Option QEnt :=
  let x := s.vault t v
  match x.queue[k]? with
  | none => none
  | some e =>
    let first := s.noAccess e.rq || !((withBefore [] x.queue).any fun q =>
      x.ahead k e.rq q.1.length q.2.rq && !s.noAccess q.2.rq && s.canServe t v q.1 q.2)
    if s.vaultServes t v && s.canServe t v (x.queue.take k) e && s.kindServed t v e.rq && first then some e else none

/-- The entry leaves the queue; those before it have been passed; a drain goes on while writes are held. -/
def Vault.take (x : Vault) (k : Nat) : Vault :=
  let isWr := fun (q : QEnt) => decide (q.rq.kind ≠ .read)
  let q := (x.queue.take k).map (fun e => { e with passed := e.passed + 1 }) ++ x.queue.drop (k + 1)
  let wasWr := match x.queue[k]? with
    | some e => isWr e
    | none => false
  { x with queue := q, draining := (x.draining || wasWr) && q.any isWr }

/-- A row is opened for a request, one column transfer is made, and the hint decides what follows (R224). -/
def transfer (s : State) (r : Rq) : State := columnTransfer s (placeOf r.tile r.vault r.line) r.hint

/-- VAULT_REQUEST_ACCEPT: the head of the crossing into the vault enters its queue (R222). -/
def execVaultRequestAccept (t v : Nat) (s : State) : Answer :=
  .next (if s.clocked && s.mayTake (xkey t (128 + v)) then takeItem s (xkey t (128 + v)) else s)

/-- VAULT_SERVE: the request at place k of the queue is chosen. A read answers; a whole write is encoded and stored; an
accumulating or narrow write reads its line, is acknowledged if that had to wait for what it reads, and waits for
ACC_WRITE_COMBINE (R223, R233, R235, R244, R248, R250). -/
def execVaultServe (t v k : Nat) (s : State) : Answer :=
  .next (match s.mayServe t v k with
    | none => s
    | some e =>
      let r := e.rq
      let p := placeOf t v r.line
      let s := s.updVault t v fun x => x.take k
      let ans := fun (s : State) (d : Line × Bool) => answerFrom s (.vault t v) (r.answer (if d.2 then poisonData else d.1) d.2)
      if r.kind = .read then
        if s.noAccess r then ans s (0, false)
        else
          let d := readLine (transfer s r) p 1
          ans d.2 d.1.value
      else if s.isRmw r then
        let d := readLine (transfer s r) p 3
        let s := d.2.updVault t v fun x => { x with rmw := x.rmw ++ [{ rq := r, line := d.1.value.1, bad := d.1.value.2 }] }
        if e.acked then s else answerFrom s (.vault t v) (r.answer 0 d.1.value.2)
      else if r.kind = .write ∧ ¬r.whole then
        let f := applyFlip (transfer s r) p false (clotuMasked (s.stored p) r.mask r.data)
        let s := f.2.store p f.1
        noteChange s p (s.peek p).value.1 (s.peek p).value.2
      else writeLine (transfer s r) p r.data r.poison)

/-! ## Accumulating and narrow writes (R54, R233 to R235, R248) -/

/-- The line that a read-modify-write stores. -/
def Rmw.result (m : Rmw) : Line :=
  match m.rq.kind with
  | .acc op => accLine op m.line m.rq.data m.rq.mask
  | _ => mergeLine m.line m.rq.data m.rq.mask

/-- ACC_WRITE_COMBINE: the line is combined or merged, encoded and written back in a second column transfer, once its bank
stack can take one; a line that read as poison stays (R233, R235, R248). -/
def execAccWriteCombine (t v : Nat) (s : State) : Answer :=
  .next (if s.clocked && s.vaultUsable t v then match (s.vault t v).rmw with
    | [] => s
    | m :: rest =>
      if !m.bad && !(s.vault t v).canTransfer (lineBank m.rq.line) (lineRow m.rq.line) then s
      else
      let isAcc := match m.rq.kind with
        | .acc _ => true
        | _ => false
      let s := s.updVault t v fun x => { x with
        rmw := rest, accPoison := if m.bad && isAcc then satAdd x.accPoison 1 else x.accPoison }
      if m.bad then s else writeLine (transfer s m.rq) (placeOf t v m.rq.line) m.result false
  else s)

/-- GRANULE_FILL_DONE: every vault has written the zero code word, each bank stack as it could; the bit is set and requests
run (R245). -/
def execGranuleFillDone (t g : Nat) (s : State) : Answer :=
  .next (if s.clocked && s.tileUsable t && (s.tile t).filling.contains g && s.granuleFree t g then fillGranule s t g else s)

/-- The writes to a line that its vault has accepted come before what now replaces the whole line: they are done, and
acknowledged where they were not yet (R222, R247). -/
def settleLine (s : State) (p : Place) : State :=
  let mine := fun (e : QEnt) => decide (e.rq.line = p.line) && decide (e.rq.kind ≠ .read)
  let late := (s.vault p.tile p.vault).queue.filter fun e => mine e && !e.acked
  let s := s.updVault p.tile p.vault fun x => { x with
    queue := x.queue.filter fun e => !mine e, rmw := x.rmw.filter fun m => decide (m.rq.line ≠ p.line) }
  forEach late s fun s e => answerFrom s (.vault p.tile p.vault) (e.rq.answer 0 false)

/-! ## Row state, refresh (R224, R227 to R230, R276) -/

/-- ROW_IDLE_CLOSE: an open row is precharged, unless a kernel runs on it: 8 µs after its activate where the last transfer's
hint was Open, after 32 idle cycles where it was controller choice and no queued request hits it (R224). -/
def execRowIdleClose (t v b : Nat) (s : State) : Answer :=
  .next (
    let x := s.vault t v
    let kept := decide (nth x.rowHint b 0 ≠ 1) && x.queue.any fun e => decide (lineBank e.rq.line = b) && x.hits e.rq
    if s.clocked && s.vaultUsable t v && !x.kernelOn b && !kept then s.updVault t v fun x => x.close b else s)

/-- Units of pair group k of a vault. -/
def groupUnits (t v k : Nat) : List Nat := (List.range 10).map fun l => unitKey t v l k

/-- Every running unit of a group is held, or goes on (R266, R276). -/
def holdGroup (s : State) (t v k : Nat) (h : Bool) : State :=
  forEach (groupUnits t v k) s fun s u => s.updUnit u fun x => { x with held := h && !x.ready }

/-- A refresh of bank stack b is issued: an open row is precharged first, a kernel on it is held (R227, R276). -/
def issueRefresh (s : State) (t v b : Nat) : State :=
  let s := if (s.vault t v).kernelOn b then holdGroup s t v (b / 2) true else s
  s.updVault t v fun x => { x.close b with refreshing := x.refreshing.set b true, refCount := x.refCount + 1 }

/-- A refresh balance changed by n (R228). -/
def Vault.owe (x : Vault) (b : Nat) (n : Int) : Vault := { x with refBal := x.refBal.set b (nth x.refBal b 0 + n) }

/-- A refresh of b cannot be issued now: one runs, or a slot or a kernel has the bank stack. -/
def Vault.refreshBlocked (x : Vault) (b : Nat) : Bool := nth x.refreshing b false || x.calSlot || x.kernelOn b

/-- REFRESH_DUE: it is issued or postponed, at the controller's choice, within four (R227, R228). -/
def execRefreshDue (t v b : Nat) (s : State) : Answer :=
  .next (
    let x := s.vault t v
    if s.clocked && s.vaultUsable t v && decide (b < 8) then
      let four := decide (4 ≤ nth x.refBal b 0)
      if four then (if nth x.refreshing b false then s else issueRefresh s t v b)
      else if x.refreshBlocked b then s.updVault t v fun x => x.owe b 1
      else if Config.freeBool s.free b then s.drawn.updVault t v fun x => x.owe b 1
      else issueRefresh s.drawn t v b
    else s)

/-- REFRESH_FORCED: with four owed, the next goes ahead of every request, slot and kernel (R228). -/
def execRefreshForced (t v b : Nat) (s : State) : Answer :=
  .next (
    let x := s.vault t v
    if s.clocked && s.vaultUsable t v && decide (4 ≤ nth x.refBal b 0) && !nth x.refreshing b false then
      (issueRefresh s t v b).updVault t v fun x => x.owe b (-1)
    else s)

/-- A kernel's row is activated again and its units go on (R276), once no slot, refresh or neighbour refresh stands before
that activate (R230, R232). -/
def resumeKernel (s : State) (t v b : Nat) : State :=
  let x := s.vault t v
  match nth x.kernels (b / 2) none with
  | some k => if k.1 = b ∧ ¬x.calSlot ∧ ¬x.calibrating ∧ ¬nth x.refreshing b false ∧ ¬x.owesFour b ∧ ¬x.neighbourDue b then holdGroup (s.updVault t v fun x => x.openAt b k.2.1) t v (b / 2) false else s
  | none => s

/-- REFRESH_DONE: the round's count moves on, the activate table is cleared at its end (R227, R229); a refresh still owed
follows while nothing stands in its way, and one not yet due may be pulled in, at the controller's choice (R228). -/
def execRefreshDone (t v b : Nat) (s : State) : Answer :=
  .next (
    if s.clocked && s.vaultUsable t v && nth (s.vault t v).refreshing b false then
      let s := s.updVault t v fun x =>
        let n := nth x.refRound b 0 + 1
        { x with
          refreshing := x.refreshing.set b false
          refRound := x.refRound.set b (n % 8192)
          acts := if n = 8192 then x.acts.set b [] else x.acts }
      let free := !(s.vault t v).refreshBlocked b
      if 0 < nth (s.vault t v).refBal b 0 ∧ free then (issueRefresh s t v b).updVault t v fun x => x.owe b (-1)
      else if -4 < nth (s.vault t v).refBal b 0 ∧ free then
        if Config.freeBool s.free b then (issueRefresh s.drawn t v b).updVault t v fun x => x.owe b (-1)
        else resumeKernel s.drawn t v b
      else resumeKernel s t v b
    else s)

/-- NEIGHBOUR_REFRESH of a row whose count has reached the threshold: the count returns to 0 (R230). -/
def execNeighbourRefresh (t v b : Nat) (s : State) : Answer :=
  .next (
    let x := s.vault t v
    if s.clocked && s.vaultUsable t v && x.neighbourDue b && !nth x.refreshing b false && !x.calSlot then
      let i := ((nth x.acts b []).findIdx? fun e => decide (x.threshold ≤ e.2)).getD 0
      let s := s.updVault t v fun x => { x.close b with
        acts := x.acts.set b ((nth x.acts b []).set i ((nth (nth x.acts b []) i (0, 0)).1, 0))
        nrStep := satAdd x.nrStep 1
        nrTotal := wrapAdd x.nrTotal 1 }
      resumeKernel s t v b
    else s)

/-! ## Calibration slots and bands (R226, R232) -/

/-- Vault cycle at which the next slot begins (R232). -/
def Vault.slotAt (x : Vault) (v : Nat) : Nat := x.calTarget.getD (1000000 + 400000 * v)

/-- CALIBRATION_SLOT_START: rows are precharged, kernels held, no request is served; the next slot is a period later. -/
def execCalibrationSlotStart (t v : Nat) (s : State) : Answer :=
  .next (
    let four := (List.range 8).any (s.vault t v).owesFour
    if s.clocked && s.vaultUsable t v && !(s.vault t v).calSlot && !four then
      let s := forEach [0, 1, 2, 3] s fun s k => holdGroup s t v k true
      s.updVault t v fun x => { x with
        calSlot := true, openRow := List.replicate 8 none, calTarget := some (x.slotAt v + 32000000) }
    else s)

/-- CALIBRATION_SLOT_END: the slot is counted; refreshes postponed in it are issued; kernels go on. -/
def execCalibrationSlotEnd (t v : Nat) (s : State) : Answer :=
  .next (
    if s.clocked && s.vaultUsable t v && (s.vault t v).calSlot then
      let s := s.updVault t v fun x => { x with calSlot := false, slots := wrapAdd x.slots 1 }
      let s := forEach (List.range 8) s fun s b =>
        if 0 < nth (s.vault t v).refBal b 0 ∧ ¬nth (s.vault t v).refreshing b false then
          (issueRefresh s t v b).updVault t v fun x => x.owe b (-1)
        else s
      forEach (List.range 8) s fun s b => if nth (s.vault t v).refreshing b false then s else resumeKernel s t v b
    else s)

/-- BAND_NOTICE: the band that thermal management set for the tile is in force (R226). -/
def execBandNotice (t v : Nat) (s : State) : Answer :=
  .next (match (s.vault t v).bandNotice with
    | some b => if s.clocked && s.vaultUsable t v then s.updVault t v fun x => { x with band := b, bandNotice := none } else s
    | none => s)

/-! ## Scrubber (R252) -/

/-- Line position of a place (R252). -/
def Place.pos (p : Place) : Nat := p.row * 2048 + p.bs * 256 + p.col

/-- Lines of a vault that the scrubber does not skip. -/
def State.scrubLines (s : State) (t v : Nat) : List Place :=
  (s.tile t).granules.flatMap fun g => (s.granuleLines t g).filter fun p =>
    p.vault = v && (match s.lineDa p with
      | some da => !s.inBankMode da
      | none => false)

/-- The line with the lowest position at or after one. -/
def firstFrom (l : List Place) (pos : Nat) : Option Place :=
  (l.filter fun p => decide (pos ≤ p.pos)).foldl (fun b p => match b with
    | none => some p
    | some q => if p.pos < q.pos then some p else some q) none

/-- SCRUB_TICK: the next line is read; a correction is written back, an uncorrectable line rewritten poisoned (R252). -/
def execScrubTick (t v : Nat) (s : State) : Answer :=
  .next (
    let x := s.vault t v
    if s.vaultServes t v && decide (x.interval ≠ 0) then
      let l := s.scrubLines t v
      let found := match firstFrom l x.pos.toNat with
        | some p => some (p, false)
        | none => (firstFrom l 0).map fun p => (p, true)
      match found with
      | none => s
      | some (p, wrapped) =>
        if x.rmw.any (fun m => m.rq.line = p.line) || !x.canTransfer p.bs p.row then s
        else
          let s := s.updVault t v fun x => { x.transfer p.bs p.row 2 with
            pos := BitVec.ofNat 25 (p.pos + 1)
            pass := wrapAdd x.pass (b2n wrapped + b2n (decide (p.pos + 1 = 2 ^ 25))) }
          match readLine s p 2 with
          | (.corrected d _ _, s) => putLine (columnTransfer s p 2) p d false
          | (.bad _, s) => columnTransfer s p 2
          | (_, s) => s
    else s)

/-- UNCORRECTABLE_LIMIT_PERIOD_CLOSE: outside a step, the next record opens a new period (R257). -/
def execUncorrectableLimitPeriodClose (t v : Nat) (s : State) : Answer :=
  .next (if s.clocked && !s.running then s.updVault t v fun x => { x with recOpen := false, recCount := 0 } else s)

/-! ## Erasure and loss (R241, R242, R250, R387, R388) -/

/-- The newest n events, all within 2,000,000 vault cycles, among the cycles at which they happened (R241, R242). -/
def within1ms (n : Nat) (l : List Nat) : Bool :=
  decide (n ≤ l.length) &&
    (List.range (l.length - n + 1)).any fun i => decide (nth l (i + n - 1) 0 < nth l i 0 + 2000000)

/-- Threshold of layer events (R259). -/
def Tile.eraseAt (x : Tile) : Nat := max 1 x.eraseThresh.toNat

/-- Mark a layer erased and post LAYER_ERASED (R241, R278). Uncorrectable lines reported before count no more towards the
loss of a vault that has a layer erased (R242). -/
def markErased (s : State) (t v layer reason : Nat) : State :=
  let q := s.dev.faultSeq
  postFault (s.updVault t v fun x => { x with erased := some layer, lastErase := q, ueTimes := [] }) 0x08 reason [t, v, layer] 0

/-- LAYER_ERASE_MARK: the layer has produced THRESH layer events within 1 ms (R241). -/
def execLayerEraseMark (t v layer : Nat) (s : State) : Answer :=
  .next (
    let x := s.vault t v
    if s.clocked && s.vaultUsable t v && x.erased.isNone && !(s.tile t).clotu &&
        within1ms (s.tile t).eraseAt ((x.layerEvents.filter fun e => e.1 = layer).map Prod.snd) then
      markErased s t v layer 1
    else s)

/-- Numbers x in [lo, hi) with x mod m = r. -/
def countMod (lo hi m r : Nat) : Nat := (hi + m - 1 - r) / m - (lo + m - 1 - r) / m

/-- Bytes of [a, a + n) that lie in vault v of tile t (R388). -/
def State.bytesIn (s : State) (t v a n : Nat) : Nat :=
  ((s.windows.map Prod.snd).map fun w =>
    let base := 2 ^ 30 * w.base
    let o1 := max a base - base
    let o2 := min (a + n) (base + 2 ^ 30 * w.size) - base
    if !w.tiles.contains t || decide (o2 ≤ o1) then 0
    else match w.order with
      | 0 => 64 * countMod (o1 / 64) (o2 / 64) (64 * w.tiles.length) (w.tiles.length * v + w.tiles.idxOf t)
      | 3 => (o2 - o1) / 4096 * 64
      | _ => sumTo (fun i => min o2 (2 ^ 30 * i + 2 ^ 24 * (v + 1)) - max o1 (2 ^ 30 * i + 2 ^ 24 * v)) w.size).foldl (· + ·) 0

/-- MiB, a part of one counted whole. -/
def mib (n : Nat) : Nat := (n + 2 ^ 20 - 1) / 2 ^ 20

/-- Windows with lines on a tile, as a mask (R380). -/
def State.windowsOn (s : State) (t : Nat) : Nat := ofBits ((s.windows.filter fun e => e.2.tiles.contains t).map Prod.fst)

/-- The mirror store's range (R340, R349). -/
def Mirror.store (m : Mirror) : Nat × Nat := (2 ^ 30 * m.storeBase.toNat, 2 ^ 30 * m.storeLen.toNat)

/-- Detail words of VAULT_LOST (R380). -/
def State.vaultLostWords (s : State) (t v : Nat) : List Nat :=
  let inRange := fun (r : Nat × Nat) => s.bytesIn t v r.1 r.2
  [t, v, s.windowsOn t,
    ((s.windows.map Prod.snd).map fun w => if w.tiles.contains t then 16 * (w.size / w.tiles.length) else 0).foldl (· + ·) 0,
    match s.dev.plan with
    | some p => if s.planBooked then mib (((p.regions.filter fun r => r.mirror).map fun r => inRange (r.base, r.len)).foldl (· + ·) 0) else 0
    | none => 0,
    mib (inRange s.mirror.store)]

/-- What a vault holds is gone: its queue's reads end in poison, its writes not yet acknowledged in error, its engines stop
(R193, R221, R387). -/
def dropVault (s : State) (t v : Nat) : State :=
  let q := ((s.vault t v).queue.filter fun e => decide (e.rq.kind = .read) || !e.acked).map (·.rq)
  let s := s.updVault t v fun x => { x with
    lost := true, queue := [], rmw := [], draining := false, openRow := List.replicate 8 none,
    refreshing := List.replicate 8 false, calSlot := false, calibrating := false, bandNotice := none,
    kernels := List.replicate 4 none, todo := List.replicate 4 [] }
  forEach q s refuseRq

/-- Crossings of a vault: with its tile's fabric and with its bank bus (R211, R212). -/
def vaultXings (t v : Nat) : List Nat :=
  [xkey t (64 + v), xkey t (128 + v), xkey (32 + 64 * t + v) 0, xkey (32 + 64 * t + v) 1]

/-- A vault is lost (R387): its memory is gone, VAULT_LOST is posted, a running step halts, its crossings half-reset with
that record as cause. -/
def loseVault (s : State) (t v reason : Nat) (cause : BitVec 32) : State :=
  let words := s.vaultLostWords t v
  let q := s.dev.faultSeq
  let s := postLoss (dropVault s t v) 0x09 reason words cause true
  forEach (vaultXings t v) s fun s k => halfReset s k q

/-- VAULT_LOST_DECLARE: 64 uncorrectable lines within 1 ms in a vault with an erased layer, or in Clotu mode (R242,
R250). -/
def execVaultLostDeclare (t v : Nat) (s : State) : Answer :=
  .next (
    let x := s.vault t v
    let clotu := (s.tile t).clotu
    if s.clocked && s.vaultUsable t v && (x.erased.isSome || clotu) && within1ms 64 x.ueTimes then
      loseVault s t v (if clotu then 2 else 1) x.lastUe
    else s)

/-- VAULT_CONTROLLER_FAIL (R387). -/
def execVaultControllerFail (t v : Nat) (s : State) : Answer :=
  .next (if s.clocked && s.vaultUsable t v && decide (v < 64) then loseVault s t v 3 0 else s)

/-! ## Crossings (R191 to R193) -/

/-- CROSSING_ITEM_TAKE: the destination of crossing n of window w takes its head (R191); in GREY those of the hub and of HP0
carry what the ROM reads and writes (R430, R432). -/
def execCrossingItemTake (w n : Nat) (s : State) : Answer :=
  .next (if (s.clocked || (s.awake && (decide (w = 8) || decide (w = 9)))) && s.mayTake (xkey w n) then takeItem s (xkey w n) else s)

/-- HALF_RESET_ASSERT on a crossing (R192). -/
def execHalfResetAssert (w n : Nat) (s : State) : Answer :=
  .next (if s.clocked && decide ((s.xing (xkey w n)).half = .running) then halfReset s (xkey w n) 0 else s)

/-- HALF_RESET_RELEASE: the resume handshake is done; a lost side never releases (R192). -/
def execHalfResetRelease (w n : Nat) (s : State) : Answer :=
  .next (if s.clocked && decide ((s.xing (xkey w n)).half = .held) && !s.deadXing (xkey w n) then halfRelease s (xkey w n) else s)

end Sys2Proof.Machine
end

