-- ==== Sys2Proof/Machine/BankUnits.lean ====
section
/-!
DEFINITION. Bank units (R260 to R278): the frames of a vault's bank bus, the sixteen instructions, kernels and the
job that BANK_RUN starts.
-/
namespace Sys2Proof.Machine

/-! ## Frames (R265 to R267) -/

/-- Layers that a header's LAYER addresses (R265). -/
def layersOf (hdr : BitVec 16) : List Nat :=
  let l := fld hdr 11 8
  if l = 15 then List.range 10 else if l < 10 then [l] else []

/-- Units that a frame addresses, layers rising within each pair group (R265). -/
def frameUnits (t v : Nat) (hdr : BitVec 16) : List Nat :=
  (if tst hdr 5 then List.range 4 else [fld hdr 7 6]).flatMap fun k => (layersOf hdr).map fun l => unitKey t v l k

/-- The bank bus of a vault runs. -/
def State.busRuns (s : State) (t v : Nat) : Bool := s.clocked && s.vaultUsable t v && decide (v < 64)

/-- A frame's command (R265, R266). -/
def isCmd (hdr : BitVec 16) (n : Nat) : Bool := decide (fld hdr 15 12 = n)

/-- Frames that went over a vault's bank bus, and those of them that were answered, as items of its two crossings (R212). -/
def busFrames (s : State) (t v n a : Nat) : State :=
  let add := fun (s : State) (i m : Nat) => s.updXing (xkey (32 + 64 * t + v) i) fun x => { x with
    sent := wrapAdd x.sent m, taken := wrapAdd x.taken m }
  add (add s 0 n) 1 a

/-- A frame without effect is counted (R266). -/
def badFrame (s : State) (t v : Nat) : State := s.updVault t v fun x => { x with badcmd := satAdd x.badcmd 1 }

/-- Change every unit of a list. -/
def onUnits (s : State) (us : List Nat) (f : BankUnit → BankUnit) : State := forEach us s fun s k => s.updUnit k f

/-- The layer of a unit's key, its pair, its vault as 64t + v. -/
def unitLayer (k : Nat) : Nat := k / 4 % 10
def unitPair (k : Nat) : Nat := k % 4

/-- RESET (R261, R266): reset state, but for the instruction store and the repair latches. -/
def BankUnit.restart (u : BankUnit) : BankUnit :=
  { BankUnit.reset with store := u.store, repair := u.repair }

/-- START (R266). -/
def BankUnit.start (u : BankUnit) (arg w1 w2 : Nat) : BankUnit :=
  let u := if arg.testBit 1 then { u with a0 := 0, a1 := 0 } else u
  let h := if arg.testBit 2 then (u.h.set 0 (BitVec.ofNat 16 w1)).set 1 (BitVec.ofNat 16 w2) else u.h
  { u with
    h := h, bank := arg % 2, fail := false, fcol := 0, badop := false, stdrop := false, pc := 0, ready := false }

/-- LOAD (R266): one store entry; the store lists only entries other than HALT. -/
def BankUnit.load (u : BankUnit) (entry : Nat) (w : BitVec 32) : BankUnit :=
  { u with store := tset 0x70000000 u.store (entry % 64) w }

/-- WRREG (R266). -/
def BankUnit.wrreg (u : BankUnit) (arg : Nat) (w : BitVec 16) : BankUnit :=
  if arg.testBit 3 then (if arg % 2 = 0 then { u with a0 := 0 } else { u with a1 := 0 })
  else { u with h := u.h.set (arg % 8) w }

/-- Every addressed unit has READY. -/
def State.allReady (s : State) (us : List Nat) : Bool := us.all fun k => (s.unit k).ready

/-- The bitwise OR of a value over units. -/
def State.orUnits (s : State) (us : List Nat) (f : BankUnit → Nat) : Nat := us.foldl (fun a k => a ||| f (s.unit k)) 0

/-- The two status words of R267 over the addressed units; no unit: zeros (R266). -/
def State.pollWords (s : State) (us : List Nat) : List (BitVec 16) :=
  match us with
  | [] => [0, 0]
  | k :: _ =>
    let any := fun (f : BankUnit → Bool) => b2n (us.any fun k => f (s.unit k))
    let fcol := match us.find? fun k => (s.unit k).fail with
      | some k => (s.unit k).fcol.toNat
      | none => (s.unit k).fcol.toNat
    [packW 16 [(15, b2n (s.allReady us)), (14, any (·.held)), (13, any (·.fail)), (12, any (·.badop)),
      (11, any (·.stdrop)), (0, (s.unit k).pc.toNat)], packW 16 [(0, fcol)]]

/-- Addressed units in rising order of layer, so that the first is the lowest-numbered layer (R267). -/
def pollUnits (t v : Nat) (hdr : BitVec 16) : List Nat :=
  (layersOf hdr).flatMap fun l => (if tst hdr 5 then List.range 4 else [fld hdr 7 6]).map fun k => unitKey t v l k

/-- An accumulator of a unit. -/
def BankUnit.acc (u : BankUnit) (i : Nat) : Nat := if i % 2 = 0 then u.a0.toNat else u.a1.toNat

/-- A frame with command n that the vault controller puts on the bus, without a response; a header of another command is no
such frame (R265, R266). -/
def frame (s : State) (t v : Nat) (hdr : BitVec 16) (n : Nat) (act : State → State) : Answer :=
  .next (if s.busRuns t v && isCmd hdr n then act (busFrames s t v 1 0) else s)

/-- A frame with command n and its response words. -/
def query (s : State) (t v : Nat) (hdr : BitVec 16) (n : Nat) (words : List (BitVec 16)) : Answer :=
  .next (if s.busRuns t v && isCmd hdr n then (busFrames s t v 1 1).emit (.bus words) else s)

/-- BU_IDLE (R266). -/
def execBuIdle (t v : Nat) (hdr : BitVec 16) (s : State) : Answer := frame s t v hdr 0x0 id

/-- BU_LOAD (R266): accepted only by units that are ready. -/
def execBuLoad (t v : Nat) (hdr w1 w2 w3 : BitVec 16) (s : State) : Answer :=
  frame s t v hdr 0x1 fun s =>
    let us := frameUnits t v hdr
    if s.allReady us then onUnits s us fun u => u.load (fld w1 5 0) (packW 32 [(0, w2.toNat), (16, w3.toNat)]) else badFrame s t v

/-- BU_START (R266). -/
def execBuStart (t v : Nat) (hdr w1 w2 : BitVec 16) (s : State) : Answer :=
  frame s t v hdr 0x2 fun s =>
    let us := frameUnits t v hdr
    if s.allReady us then onUnits s us fun u => u.start (fld hdr 4 0) w1.toNat w2.toNat else badFrame s t v

/-- BU_POLL (R267). -/
def execBuPoll (t v : Nat) (hdr : BitVec 16) (s : State) : Answer := query s t v hdr 0x3 (s.pollWords (pollUnits t v hdr))

/-- BU_RDREG (R266). -/
def execBuRdreg (t v : Nat) (hdr : BitVec 16) (s : State) : Answer :=
  query s t v hdr 0x4 [BitVec.ofNat 16 (s.orUnits (frameUnits t v hdr) fun u => (nth u.h (fld hdr 2 0) 0).toNat)]

/-- BU_RDACC (R266): bits [15:0], [31:16], then [39:32]. -/
def execBuRdacc (t v : Nat) (hdr : BitVec 16) (s : State) : Answer :=
  let a := s.orUnits (frameUnits t v hdr) fun u => u.acc (fld hdr 0 0)
  query s t v hdr 0x5 [BitVec.ofNat 16 a, BitVec.ofNat 16 (a / 2 ^ 16), BitVec.ofNat 16 (a / 2 ^ 32)]

/-- BU_WRREG (R266). -/
def execBuWrreg (t v : Nat) (hdr w1 : BitVec 16) (s : State) : Answer :=
  frame s t v hdr 0x6 fun s => onUnits s (frameUnits t v hdr) fun u => u.wrreg (fld hdr 4 0) w1

/-- BU_HOLD (R266): a running unit stops at its next instruction boundary; a unit that is READY is not held (R267). -/
def execBuHold (t v : Nat) (hdr : BitVec 16) (s : State) : Answer :=
  frame s t v hdr 0x7 fun s => onUnits s (frameUnits t v hdr) fun u => { u with held := u.held || !u.ready }

/-- BU_RESUME (R266). -/
def execBuResume (t v : Nat) (hdr : BitVec 16) (s : State) : Answer :=
  frame s t v hdr 0x8 fun s => onUnits s (frameUnits t v hdr) fun u => { u with held := false }

/-- BU_RESET (R261, R266). -/
def execBuReset (t v : Nat) (hdr : BitVec 16) (s : State) : Answer :=
  frame s t v hdr 0x9 fun s => onUnits s (frameUnits t v hdr) BankUnit.restart

/-- Every unit of a vault. -/
def vaultUnits (t v : Nat) : List Nat := (List.range 4).flatMap fun k => groupUnits t v k

/-- Spare rows in use in a vault: repair latches with EN (R278, R279). -/
def State.sparesUsed (s : State) (t v : Nat) : Nat :=
  ((vaultUnits t v).map fun k => ((s.unit k).repair.filter fun e => tst e.2 14).length).foldl (· + ·) 0

/-- BU_SPARE (R266, R278): the repair latch of a slot of bank ARG[0], in BOOT only. -/
def execBuSpare (t v : Nat) (hdr w1 w2 : BitVec 16) (s : State) : Answer :=
  frame s t v hdr 0xA fun s =>
    if s.dev.state = .boot then
      let s := onUnits s (frameUnits t v hdr) fun u => { u with
        repair := tset 0 u.repair (32 * fld hdr 0 0 + fld w2 4 0) (packW 15 [(14, fld w2 15 15), (0, fld w1 13 0)]) }
      s.updVault t v fun x => { x with usedSpares := s.sparesUsed t v }
    else badFrame s t v

/-- BU_RESERVED_FRAME (R266): a command of 0xB to 0xF has no effect on the units and is counted. -/
def execBuReservedFrame (t v : Nat) (hdr : BitVec 16) (s : State) : Answer :=
  .next (if s.busRuns t v && decide (0xB ≤ fld hdr 15 12) then badFrame (busFrames s t v 1 0) t v else s)

/-! ## Columns (R262, R263) -/

/-- The place of column c of the open row of a unit's selected bank; none: no row is open. -/
def State.column (s : State) (t v layer k c : Nat) : Option Place :=
  let bs := 2 * k + (s.unit (unitKey t v layer k)).bank
  (nth (s.vault t v).openRow bs none).map fun r => { tile := t, vault := v, bs := bs, row := r, col := c % 256 }

/-- The column is reachable (R262). -/
def State.reachable (s : State) (p : Place) : Bool :=
  decide (s.dev.state = .boot) || (s.vaultUsable p.tile p.vault && (match s.lineDa p with
    | some da => s.inBankMode da
    | none => false))

/-- The reachable column c, if it is one. -/
def State.reachCol (s : State) (t v layer k c : Nat) : Option Place :=
  (s.column t v layer k c).filter s.reachable

/-- Symbol i of a layer's 8 bytes of a line, as stored (R262). -/
def State.symbol (s : State) (p : Place) (layer i : Nat) : BitVec 16 :=
  BitVec.ofNat 16 (ofBytes (memRead s.mem (lineKey p.tile p.vault p.line + 8 * layer + 2 * (i % 4)) 2))

/-- Write a symbol as stored. -/
def State.setSymbol (s : State) (p : Place) (layer i : Nat) (w : BitVec 16) : State :=
  { s with mem := memWrite s.mem (lineKey p.tile p.vault p.line + 8 * layer + 2 * (i % 4)) (bytesOf 2 w.toNat) }

/-- A store of the symbols listed (R262, R263): discarded and counted, or written; outside BOOT the line becomes raw
and its row is marked. -/
def buStore (s : State) (t v layer k c : Nat) (syms : List Nat) (w : BitVec 16) : State :=
  let boot := decide (s.dev.state = .boot)
  let dropped := fun (s : State) => (s.updVault t v fun x => { x with stdrop := satAdd x.stdrop 1 }).updUnit
    (unitKey t v layer k) fun u => { u with stdrop := true }
  match s.reachCol t v layer k c with
  | none => dropped s
  | some p =>
    if !boot && (decide (8 ≤ layer) || (s.vault t v).erased.isSome) then dropped s
    else
      let s := forEach syms s fun s i => s.setSymbol p layer i w
      if boot then s
      else
        let s := forEach [0, 1, 2, 3] s fun s i => (s.setSymbol p 8 i 0xFFFF).setSymbol p 9 i 0xFFFF
        let s := s.updVault t v fun x => { x with rawRows := insertNat (p.bs * 16384 + p.row) x.rawRows }
        noteChange s p poisonData true

/-! ## Instructions (R264) -/

/-- The instruction at a unit's PC; unlisted entries hold HALT (R261). -/
def BankUnit.here (u : BankUnit) : BitVec 32 := tget 0x70000000 u.store u.pc.toNat

/-- Unit (t, v, layer, k) runs and stands at opcode op; with four refreshes owed to its bank stack it waits (R228). -/
def State.buAt (s : State) (t v layer k op : Nat) : Bool :=
  let u := s.unit (unitKey t v layer k)
  s.busRuns t v && !(s.vault t v).owesFour (2 * k + u.bank) && decide (layer < 10) && decide (k < 4) && !u.ready && !u.held && decide (fld u.here 31 27 = op)

/-- Register a of a unit. -/
def BankUnit.reg (u : BankUnit) (i : Nat) : BitVec 16 := nth u.h i 0
def BankUnit.rD (u : BankUnit) : BitVec 16 := u.reg (fld u.here 26 24)
def BankUnit.rA (u : BankUnit) : BitVec 16 := u.reg (fld u.here 23 21)
def BankUnit.rB (u : BankUnit) : BitVec 16 := u.reg (fld u.here 20 18)
def BankUnit.imm (u : BankUnit) : BitVec 16 := BitVec.ofNat 16 (fld u.here 15 0)

/-- Go on at the next entry; after entry 63 comes entry 0 (R261). -/
def BankUnit.pass (u : BankUnit) : BankUnit := { u with pc := u.pc + 1 }

/-- Hd ← w, and go on. -/
def BankUnit.put (u : BankUnit) (w : BitVec 16) : BankUnit := { u with h := u.h.set (fld u.here 26 24) w, pc := u.pc + 1 }

/-- A branch (R264). -/
def BankUnit.branch (u : BankUnit) (taken : Bool) : BankUnit :=
  if taken then { u with pc := BitVec.ofNat 6 (fld u.here 5 0) } else u.pass

/-- An instruction that changes only its unit. -/
def buUnit (t v layer k op : Nat) (s : State) (f : BankUnit → BankUnit) : Answer :=
  .next (if s.buAt t v layer k op then s.updUnit (unitKey t v layer k) f else s)

def execBuNop (t v layer k : Nat) (s : State) : Answer := buUnit t v layer k 0x00 s BankUnit.pass
def execBuLdi (t v layer k : Nat) (s : State) : Answer := buUnit t v layer k 0x01 s fun u => u.put u.imm
def execBuAdd (t v layer k : Nat) (s : State) : Answer := buUnit t v layer k 0x02 s fun u => u.put (u.rA + u.rB)
def execBuAddi (t v layer k : Nat) (s : State) : Answer := buUnit t v layer k 0x03 s fun u => u.put (u.rA + u.imm)
def execBuAnd (t v layer k : Nat) (s : State) : Answer := buUnit t v layer k 0x04 s fun u => u.put (u.rA &&& u.rB)
def execBuXor (t v layer k : Nat) (s : State) : Answer := buUnit t v layer k 0x05 s fun u => u.put (u.rA ^^^ u.rB)

/-- BU_LD (R262): an unreachable column gives 0. -/
def execBuLd (t v layer k : Nat) (s : State) : Answer :=
  buUnit t v layer k 0x06 s fun u => u.put (match s.reachCol t v layer k (fld u.rA 7 0) with
    | some p => s.symbol p layer (fld u.here 17 16)
    | none => 0)

/-- BU_ST (R262, R263). -/
def execBuSt (t v layer k : Nat) (s : State) : Answer :=
  .next (
    let u := s.unit (unitKey t v layer k)
    if s.buAt t v layer k 0x07 then
      (buStore s t v layer k (fld u.rA 7 0) [fld u.here 17 16] u.rD).updUnit (unitKey t v layer k) BankUnit.pass
    else s)

/-- BU_STC (R262, R263). -/
def execBuStc (t v layer k : Nat) (s : State) : Answer :=
  .next (
    let u := s.unit (unitKey t v layer k)
    if s.buAt t v layer k 0x08 then
      (buStore s t v layer k (fld u.rA 7 0) [0, 1, 2, 3] u.rD).updUnit (unitKey t v layer k) BankUnit.pass
    else s)

/-- BU_MAC (R264): unsigned operands, modulo 2^40. -/
def execBuMac (t v layer k : Nat) (s : State) : Answer :=
  buUnit t v layer k 0x09 s fun u =>
    let x := BitVec.ofNat 40 (u.rA.toNat * u.rB.toNat)
    (if fld u.here 0 0 = 0 then { u with a0 := u.a0 + x } else { u with a1 := u.a1 + x }).pass

/-- BU_CLR (R264). -/
def execBuClr (t v layer k : Nat) (s : State) : Answer :=
  buUnit t v layer k 0x0A s fun u => (if fld u.here 0 0 = 0 then { u with a0 := 0 } else { u with a1 := 0 }).pass

/-- BU_BLT (R264). -/
def execBuBlt (t v layer k : Nat) (s : State) : Answer :=
  buUnit t v layer k 0x0B s fun u => u.branch (decide (u.rA.toNat < u.rB.toNat))

/-- BU_BNE (R264). -/
def execBuBne (t v layer k : Nat) (s : State) : Answer :=
  buUnit t v layer k 0x0C s fun u => u.branch (decide (u.rA ≠ u.rB))

/-- BU_CHK (R262, R264). -/
def execBuChk (t v layer k : Nat) (s : State) : Answer :=
  buUnit t v layer k 0x0D s fun u =>
    let c := fld u.rA 7 0
    let differs := match s.reachCol t v layer k c with
      | some p => [0, 1, 2, 3].any fun i => decide (s.symbol p layer i ≠ u.rD)
      | none => false
    (if differs then { u with fail := true, fcol := if u.fail then u.fcol else BitVec.ofNat 8 c } else u).pass

/-- A unit stops; whether its PC moves past the HALT is a free choice. -/
def BankUnit.stop (u : BankUnit) (moved : Bool) : BankUnit :=
  { u with ready := true, pc := if moved then u.pc + 1 else u.pc }

/-- BU_HALT (R264). -/
def execBuHalt (t v layer k : Nat) (s : State) : Answer :=
  .next (if s.buAt t v layer k 0x0E then
    s.drawn.updUnit (unitKey t v layer k) fun u => u.stop (Config.freeBool s.free 0) else s)

/-- BU_RESERVED_OPCODE (R264): as HALT, and BADOP ← 1. -/
def execBuReservedOpcode (t v layer k : Nat) (s : State) : Answer :=
  .next (
    let u := s.unit (unitKey t v layer k)
    if s.buAt t v layer k (fld u.here 31 27) && decide (0x0F ≤ fld u.here 31 27) then
      s.drawn.updUnit (unitKey t v layer k) fun u => { u.stop (Config.freeBool s.free 0) with badop := true }
    else s)

/-! ## Kernels and jobs (R268 to R270) -/

/-- Opcodes of the packets whose parameters these functions read (R306). -/
def pktP0 (p : BitVec 512) : Nat := fld p 143 96
def pktP1 (p : BitVec 512) : Nat := fld p 191 144
def pktP2 (p : BitVec 512) : Nat := fld p 239 192
def pktP3 (p : BitVec 512) : Nat := fld p 271 240
def pktP4 (p : BitVec 512) : Nat := fld p 303 272
def pktFl (p : BitVec 512) : Nat := fld p 319 304
def pktPx (p : BitVec 512) : Nat := fld p 415 320

/-- Block size of a BANK_RUN; 0: no results (R269, R313). -/
def jobB (p : BitVec 512) : Nat := if (pktP3 p).testBit 14 then 0 else 2 ^ nfld (pktP3 p) 13 8

/-- The range in bank mode that a base names, with its slot. -/
def State.rangeAt (s : State) (base : Nat) : Option (Nat × Nat) :=
  (s.dev.ranges.filterMap id).find? fun r => r.1 = base

/-- The number of a kernel's line in the order of R268: row, bank stack, column. -/
def kernelKey (p : Place) : Nat := (p.row * 8 + p.bs) * 256 + p.col

/-- Rising insertion by key. -/
def insertKey (e : Nat × Nat) : List (Nat × Nat) → List (Nat × Nat)
  | [] => [e]
  | f :: fs => if e.1 ≤ f.1 then e :: f :: fs else f :: insertKey e fs

/-- Maximal runs of contiguous columns of one row and one block: (first key, last key). -/
def keyRuns : List (Nat × Nat) → List (Nat × Nat × Nat)
  | [] => []
  | (k, b) :: rest => match keyRuns rest with
    | (lo, hi, b') :: more =>
      if lo = k + 1 ∧ lo / 256 = k / 256 ∧ b = b' then (k, hi, b) :: more else (k, k, b) :: (lo, hi, b') :: more
    | [] => [(k, k, b)]

/-- The kernels of pair group k of vault (t, v) for a range: bank stack, row, first and last column (R268). -/
def State.kernelList (s : State) (base len b t v k : Nat) : List (Nat × Nat × Nat × Nat) :=
  let lines := (List.range (len / 64)).filterMap fun i => match s.place (base + 64 * i) with
    | some p => if p.tile = t ∧ p.vault = v ∧ p.bs / 2 = k then some (kernelKey p, if b = 0 then 0 else 64 * i / b) else none
    | none => none
  (keyRuns (lines.foldr insertKey [])).map fun e => (e.1 / 256 % 8, e.1 / 2048, e.1 % 256, e.2.1 % 256)

/-- The long command in progress is a bank job. -/
def State.bankJob (s : State) : Option Long := s.dev.job.map Prod.fst

/-- Start the next kernel of a group, or none where the list is done or HALT has stopped the job (R268, R269). A bank
stack that is being refreshed, or whose neighbour refresh is due, holds its kernel (R276). -/
def nextKernel (s : State) (t v k : Nat) : State :=
  match s.bankJob, nth (s.vault t v).todo k [], s.dev.jobStop with
  | some l, kern :: rest, false =>
    let x := s.vault t v
    let hold := nth x.refreshing kern.1 false || x.calSlot || x.owesFour kern.1 || x.neighbourDue kern.1
    let arg := 4 + (if jobB l.pkt = 0 then 0 else 2) + kern.1 % 2
    let s := s.updVault t v fun x =>
      let x := if hold then x else x.openAt kern.1 kern.2.1
      { x with kernels := x.kernels.set k (some kern), todo := x.todo.set k rest }
    let s := onUnits (busFrames s t v 1 0) (groupUnits t v k) fun u => { u.start arg kern.2.2.1 (kern.2.2.2 + 1) with held := hold }
    s.updDev fun d => { d with job := d.job.map fun j => ({ j.1 with w0 := j.1.w0 + 1 }, j.2) }
  | _, _, _ => s.updVault t v fun x => { x with kernels := x.kernels.set k none }

/-- Sums and the stopped mark added to a block (R270). -/
def addBlock (l : List (Nat × Nat × Nat × Bool)) (j a b : Nat) (stopped : Bool) : List (Nat × Nat × Nat × Bool) :=
  if l.any fun e => e.1 = j then
    l.map fun e => if e.1 = j then (j, (e.2.1 + a) % 2 ^ 40, (e.2.2.1 + b) % 2 ^ 40, e.2.2.2 || stopped) else e
  else l ++ [(j, a % 2 ^ 40, b % 2 ^ 40, stopped)]

/-- The block that a kernel's first column belongs to. -/
def State.kernelBlock (s : State) (l : Long) (t v : Nat) (kern : Nat × Nat × Nat × Nat) : Nat :=
  match s.lineDa { tile := t, vault := v, bs := kern.1, row := kern.2.1, col := kern.2.2.1 } with
  | some da => (da - pktP0 l.pkt) / jobB l.pkt
  | none => 0

/-- The result of the kernel of group k is taken into its block (R268, R270). -/
def takeResult (s : State) (t v k : Nat) (stopped : Bool) : State :=
  match s.dev.job, nth (s.vault t v).kernels k none with
  | some (l, blocks), some kern =>
    if jobB l.pkt = 0 then s
    else
      let us := (List.range 8).map fun ly => unitKey t v ly k
      let sum := fun i => if stopped then 0 else (us.map fun u => (s.unit u).acc i).foldl (· + ·) 0
      let j := s.kernelBlock l t v kern
      s.updDev fun d => { d with job := some (l, addBlock blocks j (sum 0) (sum 1) stopped) }
  | _, _ => s

/-- GROUP_READY_RISE: the kernel has ended; it is polled, its sums are read layer by layer and the next kernel starts (R268). -/
def execGroupReadyRise (t v k : Nat) (s : State) : Answer :=
  .next (
    if s.busRuns t v && s.allReady (groupUnits t v k) && (nth (s.vault t v).kernels k none).isSome then
      let reads := match s.dev.job with
        | some (l, _) => if jobB l.pkt = 0 then 0 else 16
        | none => 0
      nextKernel (busFrames (takeResult s t v k false) t v (1 + reads) (1 + reads)) t v k
    else s)

/-- KERNEL_LIMIT: the kernel is stopped with RESET and counted; the job goes on (R268). -/
def execKernelLimit (t v k : Nat) (s : State) : Answer :=
  .next (
    if s.busRuns t v && !s.allReady (groupUnits t v k) && (nth (s.vault t v).kernels k none).isSome then
      let s := onUnits (busFrames (takeResult s t v k true) t v 1 0) (groupUnits t v k) BankUnit.restart
      let s := s.updVault t v fun x => { x with kstop := satAdd x.kstop 1 }
      nextKernel (s.updDev fun d => { d with job := d.job.map fun j => ({ j.1 with w1 := j.1.w1 + 1 }, j.2) }) t v k
    else s)

/-- The bank job begins with its program's bytes: the program, H2 to H7 and the kernels of every vault that is not lost
(R268, R269). -/
def startJob (s : State) (l : Long) (prog : List Byte) : State :=
  let base := pktP0 l.pkt
  let len := ((s.rangeAt base).map Prod.snd).getD 0
  let n := nfld (pktP3 l.pkt) 5 0 + 1
  let words := (List.range n).map fun i => (i, BitVec.ofNat 32 (ofBytes ((prog.drop (4 * i)).take 4)))
  let s := s.updDev fun d => { d with job := some (l, []), jobStop := false }
  forEach s.vaultList s fun s i =>
    let t := i / 64
    let v := i % 64
    if !s.vaultUsable t v then s
    else
      let s := onUnits (busFrames s t v (n + 6) 0) (vaultUnits t v) fun u =>
        let u := words.foldl (fun (u : BankUnit) w => u.load w.1 w.2) u
        { u with h := u.h.take 2 ++ (List.range 6).map fun j => BitVec.ofNat 16 (pktPx l.pkt / 2 ^ (16 * j)) }
      let s := s.updVault t v fun x => { x with todo := (List.range 4).map fun k => s.kernelList base len (jobB l.pkt) t v k }
      forEach [0, 1, 2, 3] s fun s k => nextKernel s t v k

/-- Every group of every vault is done with the job. -/
def State.jobDone (s : State) : Bool :=
  s.vaultList.all fun i => (s.vault (i / 64) (i % 64)).kernels.all (·.isNone)

/-- Lines of block j of a range. -/
def blockLines (base b j : Nat) : List Nat := (List.range (b / 64)).map fun i => base + j * b + 64 * i

/-- The 16-byte result entry of block j (R270). -/
def State.resultEntry (s : State) (l : Long) (blocks : List (Nat × Nat × Nat × Bool)) (j : Nat) : List Byte :=
  let places := (blockLines (pktP0 l.pkt) (jobB l.pkt) j).filterMap s.place
  let e := (blocks.find? fun e => e.1 = j).getD (j, 0, 0, false)
  let incomplete := e.2.2.2 || places.any fun p => !s.vaultUsable p.tile p.vault
  let erased := places.any fun p => (s.vault p.tile p.vault).erased.isSome
  bytesOf 16 (pack [(0, e.2.1), (64, e.2.2.1), (126, b2n erased), (127, b2n incomplete)])

/-- The job's last kernel has ended: the result table is written unless HALT stopped the job or B is 0 (R269, R270). -/
def finishJob (s : State) : State :=
  match s.dev.job with
  | none => s
  | some (l, blocks) =>
    let len := ((s.rangeAt (pktP0 l.pkt)).map Prod.snd).getD 0
    let table := if jobB l.pkt = 0 ∨ s.dev.jobStop then []
      else (List.range (len / jobB l.pkt)).flatMap fun j => s.resultEntry l blocks j
    let s := forEach s.vaultList s fun s i => s.updVault (i / 64) (i % 64) fun x => { x with todo := List.replicate 4 [] }
    hubWriteLines s ((rangeLines (pktP2 l.pkt) table.length).map fun e =>
      (e.1, e.2, lineAt (pktP2 l.pkt) e.1 table, false))

end Sys2Proof.Machine
end

