-- ==== Sys2Proof/Machine/HostPorts.lean ====
section
/-!
DEFINITION. The host ports (R280 to R301, R374, R454): link events and link-loss resets, translations, host requests to
stacked memory with snoop filter, recalls and fences, answers of the host, snoops, HDM decoders, MSI-X hold-off, rings.
-/
namespace Sys2Proof.Machine

/-! ## Recalls and the snoop filter (R291, R292) -/

/-- Send one BISnp of port x, once: the line's DA, plus 1 for an invalidation; at 256 outstanding it waits. -/
def sendBisnp (s : State) (x key : Nat) : State :=
  let p := s.port x
  if p.bisnp.contains key then s
  else if 256 ≤ p.bisnp.length then s
  else (s.setPort x { p with bisnp := p.bisnp ++ [key], recalls := wrapAdd p.recalls 1 }).emit
    (.bisnp x (key / 64 * 64) (decide (key % 64 = 1)))

/-- Send what waits for room among the 256 outstanding (R291): recalls first, then those that requests wait for. -/
def pumpBisnp (s : State) (x : Nat) : State :=
  let p := s.port x
  let room := 256 - p.bisnp.length
  let now := p.recallWait.take room
  let s := forEach now (s.setPort x { p with recallWait := p.recallWait.drop room }) fun s l => sendBisnp s x (l + 1)
  forEach (s.port x).waitBi s fun s r => sendBisnp s x (r.da + b2n (decide (r.kind ≠ .read)))

/-- Recall every line of a range that the filters hold (R292). -/
def recallRange (s : State) (base n : Nat) : State :=
  forEach [0, 1] s fun s x =>
    let ls := (s.port x).filter.filter fun l => decide (base ≤ l / 64 * 64 + 63) && decide (l < base + n)
    pumpBisnp (s.updPort x fun p => { p with recallWait := p.recallWait ++ ls.filter fun l => !p.recallWait.contains l }) x

/-- Every response of a recall of the range has arrived (R292). -/
def State.recalled (s : State) (base n : Nat) : Bool :=
  [0, 1].all fun x => ((s.port x).recallWait ++ (s.port x).bisnp).all fun l =>
    !(decide (base ≤ l / 64 * 64 + 63) && decide (l / 64 * 64 < base + n))

/-- No filter holds a line of the range: none was granted again since the recall. -/
def State.unheld (s : State) (base n : Nat) : Bool :=
  [0, 1].all fun x => (s.port x).filter.all fun l => !(decide (base ≤ l + 63) && decide (l < base + n))

/-- The recalls of ranges, once every response has arrived, are repeated for lines granted again since; the flag tells that
no host holds a line of them (R292). -/
def recallAgain (s : State) (rs : List (Nat × Nat)) : State × Bool :=
  if !rs.all fun r => s.recalled r.1 r.2 then (s, false)
  else if rs.all fun r => s.unheld r.1 r.2 then (s, true)
  else (forEach rs s fun s r => recallRange s r.1 r.2, false)

/-- Set of a line in a 16-way filter of 8,388,608 lines (R291). -/
def filterSet (da : Nat) : Nat := da / 64 % 524288

/-- The line that must be recalled before a line is granted: the least recently granted of a full set (R291). -/
def Port.victim (p : Port) (da : Nat) : Option Nat :=
  let set := p.filter.filter fun l => filterSet l = filterSet da
  if p.filter.contains da then none else if 16 ≤ set.length then set.head? else none

/-- A line is granted to the host. -/
def Port.grant (p : Port) (da : Nat) : Port := { p with filter := dropNat da p.filter ++ [da] }

/-! ## Host requests to stacked memory (R219, R272, R273, R290, R293, R295, R296) -/

/-- The opcode of a packet (R305). -/
def pktOpc (p : BitVec 512) : Nat := fld p 7 0

/-- A BANK_ENTER in progress holds new requests to its range (R272). -/
def State.entering (s : State) (da : Nat) : Bool :=
  match s.dev.long with
  | some l => decide (pktOpc l.pkt = 0x18) && decide (pktP0 l.pkt ≤ da) && decide (da < pktP0 l.pkt + pktP1 l.pkt)
  | none => false

/-- The line lies in a region fenced by a booked plan (R293). -/
def State.fencedByPlan (s : State) (da : Nat) : Bool :=
  s.dev.fences.any fun f => decide (f.1 ≤ da + 63) && decide (da < f.1 + f.2)

/-- The host may cache what it reads over CXL.mem; a peer's UIO or a BAR access is uncached (R295, R296). -/
def Owner.caches : Owner → Bool
  | .host _ => true
  | _ => false

/-- Admit a request of port x: answered by a fence, held, or sent on its way (R219, R272, R290, R291, R293). -/
def admitHost (s : State) (x : Nat) (r : Rq) : State :=
  let p := s.port x
  if s.fencedByPlan r.da then
    let s := s.setPort x { p with fenced := satAdd p.fenced 1 }
    let s := passItem s (xkey (9 + x) 1)
    if r.kind = .read then refuseRq s r else answerAt s (r.answer 0 false)
  else if s.dev.mapBusy || s.entering r.da then s.setPort x { p with heldRqs := p.heldRqs ++ [r] }
  else if r.own.caches && decide (r.kind = .read) && decide (r.da < s.stackedTop) then
    match p.victim r.da with
    | some l => sendBisnp (s.setPort x { p with heldRqs := p.heldRqs ++ [r] }) x (l + 1)
    | none => issueStacked (s.setPort x (p.grant r.da)) r
  else issueStacked s r

/-- A request of the host, or of a peer through port x, to a line of stacked memory. -/
def hostAccess (s : State) (x : Nat) (own : Owner) (kind : RqKind) (da : Nat) (mask : BitVec 64) (data : Line)
    (poison : Bool) : State :=
  let r := s.newRq own kind da mask data poison 0 0
  admitHost { s with nextRq := s.nextRq + 1 } x r

/-- Requests held at port x try again, in order. -/
def retryHeld (s : State) (x : Nat) : State :=
  let held := (s.port x).heldRqs
  forEach held (s.updPort x fun p => { p with heldRqs := [] }) fun s r => admitHost s x r

/-- Device bytes that an HDM decoder yields: size over ways, from its DPA base (R289). -/
def hdmSpan (d : HdmDecoder) : Nat := d.size / max 1 d.ways

/-- The line's DA that a committed decoder of port x yields for a host physical address: its place in the decoder's range,
less the granules that the interleave gives to other devices (R289). -/
def Port.decode (p : Port) (hpa : Nat) : Option Nat :=
  p.hdm.findSome? fun o => match o with
    | some d =>
      let o := hpa - d.hpaBase
      if d.hpaBase ≤ hpa ∧ hpa < d.hpaBase + d.size then
        some ((d.dpaBase + o / (max 1 d.gran * max 1 d.ways) * max 1 d.gran + o % max 1 d.gran) / 64 * 64)
      else none
    | none => none

/-- Port x is one of the two and its link carries traffic. -/
def State.portUp (s : State) (x : Nat) : Bool :=
  s.awake && decide (x < 2) && (s.port x).up && !(s.port x).recovering && (s.port x).losing.isNone && !(s.port x).perst

/-- HOST_CXLMEM_READ (R290): with CXL.mem enabled and the line under a committed decoder. -/
def execHostCxlmemRead (x : Nat) (hpa : BitVec 52) (s : State) : Answer :=
  .next (match (s.port x).decode hpa.toNat with
    | some a => if s.portUp x && (s.port x).cxlMem then hostAccess s x (.host x) .read a fullMask 0 false else s
    | none => s)

/-- HOST_CXLMEM_WRITE (R290). -/
def execHostCxlmemWrite (x : Nat) (hpa : BitVec 52) (mask : BitVec 64) (data : Line) (poison : Bool) (s : State) : Answer :=
  .next (match (s.port x).decode hpa.toNat with
    | some a => if s.portUp x && (s.port x).cxlMem then hostAccess s x (.host x) .write a mask data poison else s
    | none => s)

/-- UIO_INBOUND (R295): uncached, to this device's HDM ranges. -/
def execUioInbound (x : Nat) (acc : UioAccess) (s : State) : Answer :=
  .next (match acc with
    | .read hpa => match (s.port x).decode hpa.toNat with
      | some a => if s.portUp x then hostAccess s x (.bar x 0 64) .read a fullMask 0 false else s
      | none => s
    | .write hpa mask data => match (s.port x).decode hpa.toNat with
      | some a => if s.portUp x then hostAccess s x (.bar x 0 64) .write a mask data false else s
      | none => s)

/-- BISNP_RESPONSE (R291): dirty data is written first; the line leaves the filter where it was invalidated; requests
that waited for it go on, and what waited for room is sent. -/
def execBisnpResponse (x : Nat) (da : Da) (dirty : Bool) (data : Line) (s : State) : Answer :=
  .next (
    let a := da.toNat / 64 * 64
    let p := s.port x
    if s.portUp x && (p.bisnp.contains a || p.bisnp.contains (a + 1)) then
      let s := if dirty then acceptDirty s x a data else s
      let s := s.updPort x fun p => { p with
        filter := if p.bisnp.contains (a + 1) then dropNat a p.filter else p.filter
        bisnp := p.bisnp.filter fun k => decide (k ≠ a) && decide (k ≠ a + 1)
        waitBi := p.waitBi.filter fun r => decide (r.da ≠ a) }
      retryHeld (pumpBisnp s x) x
    else s)

/-- A link-loss event of the table of R298 on port x, whose link is up or at least trained; LINK_LOSS_RESET follows. -/
def linkEvent (s : State) (x why : Nat) : State :=
  let p := s.port x
  if s.awake && decide (x < 2) && (p.up || decide (p.rate ≠ 0)) && p.losing.isNone then
    s.setPort x { p with losing := some why, lastWhy := BitVec.ofNat 4 why, recovering := false }
  else s

/-- RECALL_TIMEOUT: a BISnp is not answered within HP_BICFG.BOUND (R294). -/
def execRecallTimeout (x : Nat) (s : State) : Answer :=
  .next (if (s.port x).bisnp.isEmpty then s else linkEvent s x 0x7)

/-! ## Link up, recovery, loss (R281, R298, R299, R374, R454) -/

/-- HOST_LINK_UP: trained and enumerated (R280, R281); in GREY only HP0, as a PCIe endpoint at x4 and at most 16 GT/s. -/
def execHostLinkUp (x : Nat) (lnk : HostLinkEnv) (s : State) : Answer :=
  .next (
    let p := s.port x
    let grey := decide (s.dev.state = .grey)
    let ok := decide (lnk.width = 4 ∨ lnk.width = 8 ∨ lnk.width = 16) && decide (1 ≤ lnk.rate ∧ lnk.rate ≤ 6)
    if s.awake && decide (x < 2) && !p.perst && p.losing.isNone && !(p.up && p.bme) && ok && (!grey || decide (x = 0)) then
      let rate := if grey then min 4 lnk.rate else lnk.rate
      let cache := lnk.cxlFlit && decide (5 ≤ rate) && !grey
      s.setPort x { p with
        up := true, bme := true, rate := rate, width := if grey then 4 else lnk.width, lowLat := lnk.lowLat
        cxlCache := cache, cxlMem := cache && lnk.backInv, recovering := false, bars := lnk.bars, peers := lnk.peers }
    else s)

/-- HOST_LINK_DOWN, HOT_RESET, FLR, D3HOT: link-loss events of R298. -/
def execHostLinkDown (x : Nat) (s : State) : Answer := .next (linkEvent s x 0x1)
def execHotReset (x : Nat) (s : State) : Answer := .next (linkEvent s x 0x2)
def execFlr (x : Nat) (s : State) : Answer := .next (linkEvent s x 0x3)
def execD3hot (x : Nat) (s : State) : Answer := .next (linkEvent s x 0x4)

/-- RECOVERY_LONG: a recovery passes 32 µs. -/
def execRecoveryLong (x : Nat) (s : State) : Answer := .next (if (s.port x).recovering then linkEvent s x 0x5 else s)

/-- A recovery began within 2 ms of now (R298). -/
def State.recentRecovery (s : State) (x : Nat) : Bool :=
  match (s.port x).lastRecovery with
  | some c => decide (s.cycles (.host x) < c + 2000000)
  | none => false

/-- RECOVERY_REPEAT: a second recovery begins within 2 ms of the last. -/
def execRecoveryRepeat (x : Nat) (s : State) : Answer :=
  .next (if s.recentRecovery x && !(s.port x).recovering then linkEvent s x 0x6 else s)

/-- HOST_LINK_RECOVERY_START: every request of the port is held in place (R298). -/
def execHostLinkRecoveryStart (x : Nat) (s : State) : Answer :=
  .next (
    if s.portUp x && !s.recentRecovery x then
      s.updPort x fun p => { p with recovering := true, lastRecovery := some (s.cycles (.host x)) }
    else s)

/-- Messages that fell due while the link recovered are sent (R297). -/
def sendDue (s : State) (x : Nat) : State :=
  forEach (List.range 8) s fun s v =>
    match nth (s.port x).heldMsix v (false, false) with
    | (false, true) => sendMsix (s.updPort x fun p => { p with heldMsix := p.heldMsix.set v (false, false) }) x v
    | _ => s

/-- A recovery has ended and is counted; the requests held in place go on (R298). -/
def recovered (s : State) (x : Nat) : State :=
  sendHosts (sendDue (s.updPort x fun p => { p with recovering := false, recov := satAdd p.recov 1 }) x) x

/-- HOST_LINK_LOST for an event that resets nothing (R285, R298, R374). -/
def postHostLoss (s : State) (x why : Nat) : State :=
  postLoss (s.updPort x fun p => { p with lastWhy := BitVec.ofNat 4 why }) 0x12 why [x, 0, 0, 0] 0 false

/-- CXL.cache and CXL.mem are enabled at 32.0 and 64.0 GT/s alone (R280, R281). DESIGN CHOICE (log 163): a port that a
recovery leaves below them writes its modified lines back and gives up its cache and its filter. -/
def dropCxl (s : State) (x : Nat) : State :=
  let p := s.port x
  if !p.cxlCache || decide (5 ≤ p.rate) then s
  else
    let s := forEach (p.cache.filter (·.2)) s fun s e => writeBack s x e.1
    let s := s.updPort x fun p => { p with
      cxlCache := false, cxlMem := false, cache := [], filter := [], bisnp := [], waitBi := [], recallWait := [] }
    retryHeld s x

/-- A recovery of port x ends at a width and rate: below those of BOOK it posts HOST_LINK_LOST (R298, R374). -/
def recoveryEnds (s : State) (x width rate : Nat) : State :=
  let s := recovered (dropCxl (s.updPort x fun p => { p with width := width, rate := rate }) x) x
  let p := s.port x
  if s.planBooked && (decide (width < p.bookWidth) || decide (rate < p.bookRate)) then postHostLoss s x 0xA else s

/-- A recovery of port x is under way. -/
def State.inRecovery (s : State) (x : Nat) : Bool := s.awake && (s.port x).recovering && (s.port x).losing.isNone

/-- HOST_LINK_RECOVERY_DONE: at the width and rate it had (R298, R374). -/
def execHostLinkRecoveryDone (x : Nat) (s : State) : Answer :=
  .next (if s.inRecovery x then recoveryEnds s x (s.port x).width (s.port x).rate else s)

/-- DOWNTRAINED: a recovery ends at a lower width or rate, among those that the port supports (R280, R374). -/
def execDowntrained (x width rate : Nat) (s : State) : Answer :=
  .next (
    let p := s.port x
    if s.inRecovery x && [4, 8, 16].contains width && decide (1 ≤ rate) && decide (width ≤ p.width) && decide (rate ≤ p.rate) then
      recoveryEnds s x width rate
    else s)

/-- HOST_SLOW: while a plan is booked, a host-direction request is not completed within HOSTLAT of its sending on the link
(R374). -/
def execHostSlow (x : Nat) (s : State) : Answer :=
  .next (if s.portUp x && s.planBooked && (s.port x).hostRqs.any (·.sent) then postHostLoss s x 0xB else s)

/-- Requests that have not been sent and can no longer be end as those of a port without Bus Master Enable do (R283,
R298). -/
def endUnsent (s : State) (x : Nat) : State :=
  let rs := ((s.port x).hostRqs.filter fun e => !e.sent).map HostRq.rq
  let s := s.updPort x fun p => { p with
    hostRqs := p.hostRqs.filter (·.sent), noport := satAdd p.noport rs.length }
  forEach rs s refuseRq

/-- BME_CLEARED: HOST_LINK_LOST without a port reset (R298). -/
def execBmeCleared (x : Nat) (s : State) : Answer :=
  .next (if s.portUp x && (s.port x).bme then postHostLoss (endUnsent (s.updPort x fun p => { p with bme := false }) x) x 0x9 else s)

/-- Requests among the items of a crossing. -/
def itemRqs (l : List (Item × List Nat)) : List Rq :=
  l.filterMap fun e => match e.1 with
    | .rq r => some r
    | .rsp _ => none

/-- A write, bound for host physical address a, that the host had not acknowledged has landed whole or not at all (R299):
a free choice. -/
def maybeLand (s : State) (x a : Nat) (r : Rq) : State :=
  if r.kind ≠ .read ∧ Config.freeBool s.free r.id then
    ({ s.drawn with hostMem := memWriteMasked s.hostMem (hostKey x a) r.mask.toNat (bytesOf 64 r.data.toNat) }).emit
      (.hostWrite x a r.mask r.data r.poison)
  else s.drawn

/-- Requests bound for port x that are still on their way to it, in a crossing or held at its source: the reset ends them
too, as they come to a port that is not up (R283, R299). -/
def State.rqsTo (s : State) (x : Nat) : List Rq :=
  (s.xings.flatMap fun e => itemRqs (e.2.fifo ++ e.2.back)).filter fun r => match s.kind r.da with
    | .host y _ => decide (y = x)
    | _ => false

/-- The slots of port x's command ring are no longer candidates (R302, R307). -/
def dropArrivals (s : State) (x : Nat) : State :=
  s.updDev fun d => { d with arrivals := d.arrivals.filter fun a => decide (a ≠ .slot x) }

/-- The host-facing state of a port after a link-loss reset (R299 steps 4 to 8). -/
def Port.lost (p : Port) (why : Nat) : Port :=
  let trained := decide (why = 3 ∨ why = 4 ∨ why = 7)
  { p with
    up := false, bme := false, recovering := false, losing := none, losses := satAdd p.losses 1
    width := if trained then p.width else 0, rate := if trained then p.rate else 0
    lowLat := trained && p.lowLat, cxlMem := false, cxlCache := false
    cache := [], filter := [], bisnp := [], waitBi := [], recallWait := [], heldRqs := [], hostRqs := [], atc := []
    atsReqs := [], pageReqs := [], pageWait := [], bars := [0, 0, 0], peers := [], hdm := [none, none], cmd := Ring.reset, stat := Ring.reset, fault := Ring.reset, stopped := false, failing := none
    masked := List.replicate 8 true, pendingMsix := List.replicate 8 false
    msixAddr := List.replicate 8 0, msixData := List.replicate 8 0, heldMsix := List.replicate 8 (false, false) }

/-- LINK_LOSS_RESET (R299): outstanding requests end, the port's host-facing state goes, HOST_LINK_LOST is posted, a
running step halts, and the crossings to the hub are half-reset with that record as cause. -/
def execLinkLossReset (x : Nat) (s : State) : Answer :=
  .next (match (s.port x).losing with
    | none => s
    | some why =>
      if !s.awake || decide (2 ≤ x) then s
      else
        let p := s.port x
        let rqs := p.hostRqs.map (·.rq)
        let all := rqs ++ s.rqsTo x
        let reads := (all.filter fun r => decide (r.kind = .read)).length
        let mods := (p.cache.filter (·.2)).length
        let sent := p.hostRqs.map fun e => (e.rq, s.hostPhys x (e.rq.da % 2 ^ 45), e.sent)
        let s := dropArrivals (s.setPort x (p.lost why)) x
        let s := forEach sent s fun s e => refuseRq (if e.2.2 then maybeLand s x e.2.1 e.1 else s) e.1
        let q := s.dev.faultSeq
        let s := postLoss s 0x12 why [x, all.length - reads, reads, mods] 0 false
        forEach [xkey 8 (208 + x), xkey 8 (216 + x), xkey (9 + x) 0, xkey (9 + x) 1] s fun s k => halfReset s k q)

/-- PERST_ASSERT (R454): the port is held in reset; a link that was up meets a link-loss event. -/
def execPerstAssert (x : Nat) (s : State) : Answer :=
  .next (if decide (x < 2) then (linkEvent s x 0x1).updPort x fun p => { p with perst := true } else s)

/-- PERST_RELEASE (R454). -/
def execPerstRelease (x : Nat) (s : State) : Answer :=
  .next (if decide (x < 2) then s.updPort x fun p => { p with perst := false } else s)

/-! ## Host memory: answers, snoops, translations (R284 to R288) -/

/-- Pages of 4 KiB that a source range of the address filter touches: their DAs. -/
def FilterEnt.pages (e : FilterEnt) : List Nat :=
  (List.range (e.hi / 4096 + 1 - e.lo / 4096)).map fun i => 4096 * (e.lo / 4096 + i)

/-- The DAs in filtered source ranges behind which a line of the host's physical memory stands (R176, R283). -/
def State.filteredDas (s : State) (x a : Nat) : List Nat :=
  ((s.coreList.flatMap fun c => (s.core c).seq.filter.flatMap (·.pages)).eraseDups.filter fun q => match s.kind q with
    | .host y b => decide (y = x) && decide (s.hostPhys x b = a / 4096 * 4096)
    | _ => false).map (· + a % 4096)

/-- The outstanding request with a number. -/
def Port.rqOf (p : Port) (id : Nat) : Option Rq := (p.hostRqs.find? fun h => h.rq.id = id).map (·.rq)

/-- The outstanding request with a number has been sent. -/
def Port.hasSent (p : Port) (id : Nat) : Bool := p.hostRqs.any fun h => decide (h.rq.id = id) && h.sent

def Port.dropRq (p : Port) (id : Nat) : Port := { p with hostRqs := p.hostRqs.filter fun h => h.rq.id ≠ id }

/-- HOST_GO_RECEIVE: the write is globally observed and acknowledged (R288). -/
def execHostGoReceive (x id : Nat) (s : State) : Answer :=
  .next (match (s.port x).rqOf id with
    | none => s
    | some r =>
      if s.portUp x && decide (r.kind ≠ .read) && (s.port x).hasSent id then
        let s := landHost (s.updPort x fun p => p.dropRq id) x (s.hostPhys x (r.da % 2 ^ 45)) r.mask r.data r.poison
        answerFrom s (.hostPort x) (r.answer 0 false)
      else s)

/-- HOST_DATA_RECEIVE: the data of a read; under CXL.cache a line that the port keeps is cached as Shared, but not a line of
a peer's memory (R286, R295). -/
def execHostDataReceive (x id : Nat) (data : Line) (poison : Bool) (s : State) : Answer :=
  .next (match (s.port x).rqOf id with
    | none => s
    | some r =>
      if s.portUp x && decide (r.kind = .read) && (s.port x).hasSent id then
        let h := s.hostPhys x (r.da % 2 ^ 45)
        let keep := s.keeps r && (s.port x).cxlCache && !poison && !(s.port x).peerAt h
        let s := { s.updPort x fun p => p.dropRq id with hostMem := memWrite s.hostMem (hostKey x h) (bytesOf 64 data.toNat) }
        let s := if keep then cacheLine s x h false else s
        answerFrom s (.hostPort x) (r.answer (if poison then poisonData else data) poison)
      else s)

/-- HOST_SNOOP of a host physical address: answered with the line's data when it is modified, which writes it back; an
invalidated line leaves the cache and is a filter hit (R176, R286, R287). -/
def execHostSnoop (x : Nat) (addr : BitVec 52) (invalidate : Bool) (s : State) : Answer :=
  .next (
    let a := addr.toNat / 64 * 64
    if s.portUp x then
      let data := if (s.port x).owns a then some (memLine s.hostMem (hostKey x a)) else none
      let s := s.updPort x fun p => { p with
        cache := if invalidate then p.cache.filter fun e => e.1 ≠ a
          else p.cache.map fun e => if e.1 = a then (a, false) else e }
      (if invalidate then forEach (s.filteredDas x a) s hitFilters else s).emit (.snoopRsp x data)
    else s)

/-- A page of translations overlaps another. -/
def pagesMeet (a la b lb : Nat) : Bool := overlaps a (2 ^ la) b (2 ^ lb)

/-- ATS_INVALIDATION: completed once no request that used the translation is outstanding; a locked entry is
TRANSLATION_REVOKED (R284, R285). -/
def execAtsInvalidation (x : Nat) (page : BitVec 45) (log2 : Nat) (s : State) : Answer :=
  .next (
    let p := s.port x
    let hit := fun (e : Atc) => pagesMeet e.page.toNat e.log2 page.toNat log2
    let used := p.hostRqs.any fun h => pagesMeet (h.rq.da % 2 ^ 45) 6 page.toNat log2 && h.sent
    if s.portUp x && !(p.atsEn && used) then
      let revoked := p.atc.any fun e => hit e && e.locked
      let s := (s.setPort x { p with atc := p.atc.filter fun e => !hit e }).emit (.snoopRsp x none)
      if revoked then postHostLoss (endUnsent s x) x 0x8 else s
    else s)

/-- A page is requested of the host through PRI, at most 256 at a time (R284). -/
def requestPage (s : State) (x : Nat) (page : BitVec 45) : State :=
  let p := s.port x
  if 256 ≤ p.pageReqs.length then s.setPort x { p with pageWait := p.pageWait ++ [page] }
  else (s.setPort x { p with pageReqs := p.pageReqs ++ [page] }).emit (.pageReq x page p.pasidOf)

/-- A page request has been answered; the next that waits goes out. -/
def pageAnswered (s : State) (x : Nat) (page : BitVec 45) : State :=
  let p := s.port x
  let s := s.setPort x { p with pageReqs := p.pageReqs.filter fun a => decide (a ≠ page), pageWait := p.pageWait.tail }
  match p.pageWait with
  | a :: _ => requestPage s x a
  | [] => s

/-- A translation comes, among 4,096: the oldest unlocked one goes for it; requests that waited for it are sent (R284). -/
def translated (s : State) (x : Nat) (page : BitVec 45) (log2 : Nat) (hpa : BitVec 52) : State :=
  let lg := max 12 (min 30 log2)
  let base : BitVec 45 := BitVec.ofNat 45 (page.toNat / 2 ^ lg * 2 ^ lg)
  let s := s.updPort x fun p =>
    let full := decide (4096 ≤ p.atc.length)
    let i := (p.atc.findIdx? fun e => !e.locked).getD p.atc.length
    { p with
      atc := (if full then p.atc.eraseIdx i else p.atc) ++ [{ page := base, log2 := lg, hpa := hpa, locked := false }] }
  sendHosts s x

/-- Pages of 4 KiB of port x in the plan's host-window regions. -/
def Plan.hostPages (p : Plan) (x : Nat) : List (BitVec 45) :=
  (p.regions.filter fun r => decide (2 ^ 46 ≤ r.base) && decide (r.base < 2 ^ 47) && decide (r.base / 2 ^ 45 % 2 = x)).flatMap
    fun r => (List.range (r.len / 4096)).map fun i => BitVec.ofNat 45 (r.base % 2 ^ 45 + 4096 * i)

/-- A page request is refused: the requests that need the page end as R283 states, and a BOOK or a START that waits for it
fails (R284, R285). -/
def pageRefused (s : State) (x : Nat) (page : BitVec 45) : State :=
  let mine := fun (e : HostRq) => !e.sent && decide (e.rq.page = page)
  let rs := ((s.port x).hostRqs.filter mine).map HostRq.rq
  let s := s.updPort x fun p => { p with hostRqs := p.hostRqs.filter fun e => !mine e }
  let needed := match s.dev.plan with
    | some p => (p.hostPages x).contains page
    | none => false
  let fail := fun (l : Long) => { l with w0 := 1 }
  let s := if !needed then s
    else s.updDev fun d => { d with
      long := d.long.map fun l => if pktOpc l.pkt = 0x08 then fail l else l, starting := d.starting.map fail }
  forEach rs s refuseRq

/-- PAGE_REQUEST_RESPONSE: a translation asked for comes, or is refused and the page requested through PRI; or the answer to a
page request, after which the translation is asked for again (R284). -/
def execPageRequestResponse (x : Nat) (page : BitVec 45) (log2 : Nat) (granted : Bool) (hpa : BitVec 52) (s : State) :
    Answer :=
  .next (
    if !s.portUp x then s
    else if (s.port x).atsReqs.contains page then
      let s := s.updPort x fun p => { p with atsReqs := p.atsReqs.filter fun a => decide (a ≠ page) }
      if granted then translated s x page log2 hpa else requestPage s x page
    else if (s.port x).pageReqs.contains page then
      let s := pageAnswered s x page
      if granted then askPage s x page else pageRefused s x page
    else s)

/-! ## HDM decoders (R289) -/

/-- The decoder may be committed on port x. -/
def State.hdmOk (s : State) (x : Nat) (d : HdmDecoder) : Bool :=
  let g := 2 ^ 28
  decide (d.size % g = 0) && decide (d.dpaBase % g = 0) && [1, 2, 4, 8, 16].contains d.ways &&
    [256, 512, 1024, 2048, 4096, 8192, 16384].contains d.gran && s.inStacked d.dpaBase (hdmSpan d) &&
    (s.port (1 - x)).hdm.all fun o => match o with
      | some e => !overlaps d.dpaBase (hdmSpan d) e.dpaBase (hdmSpan e)
      | none => true

/-- HDM_DECODER_COMMIT: accepted, or Error Not Committed (R289). -/
def execHdmDecoderCommit (x d : Nat) (dec : HdmDecoder) (s : State) : Answer :=
  .next (
    if s.portUp x && decide (d < 2) then
      if s.hdmOk x dec then (s.updPort x fun p => { p with hdm := p.hdm.set d (some dec) }).emit (.done true)
      else (s.updPort x fun p => { p with hdm := p.hdm.set d none }).emit (.done false)
    else s)

/-! ## Interrupts and rings (R297, R301 to R303) -/

/-- MSIX_HOLDOFF_EXPIRY: a message due inside the interval is sent at its end (R297). -/
def execMsixHoldoffExpiry (x v : Nat) (s : State) : Answer :=
  .next (match nth (s.port x).heldMsix v (false, false) with
    | (true, due) =>
      if s.awake && decide (x < 2) then
        let s' := s.updPort x fun p => { p with heldMsix := p.heldMsix.set v (false, due && p.recovering) }
        if due && !(s.port x).recovering then sendMsix s' x v else s'
      else s
    | _ => s)

/-- A write of HP_RINGCFGr (R301): the size changes only while the ring is disabled; enabling sets head and tail to 0 and
every slot's sequence or lap byte to its start (R303, R304). -/
def Ring.configure (g : Ring) (v : Nat) : Ring :=
  let en := v.testBit 31
  if g.en then { g with en := en }
  else if en then { g with en := true, log2n := BitVec.ofNat 5 v, head := 0, tail := 0, slots := [] }
  else { g with log2n := BitVec.ofNat 5 v }

/-- The fault records posted in BOOT reach a port's fault ring when the host first enables it (R423). -/
def postHeld (s : State) (x : Nat) : State :=
  let p := s.port x
  if p.heldPosted || !(p.fault.en && p.live) then s
  else forEach (s.dev.faults.filter fun f => decide (fld f.bits 47 44 = DevState.boot.code)) (s.setPort x { p with heldPosted := true })
    fun s f => postToPort s x 2 (f.bits.toNat % 2 ^ 480)

/-- HP_RINGCFG_ENABLE (R297): a command ring that is not enabled, or just was, has no candidates. -/
def writeRingcfg (s : State) (x r v : Nat) : State :=
  let was := (s.port x).cmd.en
  let s := s.updPort x fun p =>
    let p' := p.setRing r ((p.ring r).configure v)
    if r = 0 && !p.cmd.en then { p' with stopped := false, failing := none } else p'
  if r = 0 then (if was && (s.port x).cmd.en then s else dropArrivals s x)
  else if r = 2 then postHeld s x else s

def execHpRingcfgEnable (x r : Nat) (value : BitVec 32) (s : State) : Answer :=
  .next (if s.awake && decide (x < 2) && decide (r < 3) then writeRingcfg s x r value.toNat else s)

/-- Slots from HEAD up to TAIL (R302). -/
def Ring.waiting (g : Ring) : Nat := (g.tail + g.size - g.head) % g.size

/-- The packets that have arrived, with n slots of port x among them: new ones come last, and slots that a later doorbell takes
back are the newest (R302, R308). -/
def arrive (l : List Arrival) (x n : Nat) : List Arrival :=
  let have' := (l.filter fun a => decide (a = .slot x)).length
  if n < have' then ((List.range (have' - n)).foldl (fun (r : List Arrival) _ => r.erase (.slot x)) l.reverse).reverse
  else l ++ List.replicate (n - have') (.slot x)

/-- A doorbell write arriving through port `via`; `none`: not through a port (R297, R302, R307, R308). -/
def writeCmddb (s : State) (x : Nat) (via : Option Nat) (v : Nat) : State :=
  if via = some x && (s.port x).cmd.en then
    let s := s.updPort x fun p => { p with cmd := { p.cmd with tail := v % 65536 % p.cmd.size }, stopped := false }
    s.updDev fun d => { d with arrivals := arrive d.arrivals x (s.port x).cmd.waiting }
  else s.updPort x fun p => { p with baddb := satAdd p.baddb 1 }

/-- HP_CMDDB_WRITE (R302). -/
def execHpCmddbWrite (x via : Nat) (value : BitVec 32) (s : State) : Answer :=
  .next (if s.awake && decide (x < 2) then writeCmddb s x (some via) (fld value 15 0) else s)

/-! ## Configuration space (R280, R296) -/

/-- Device ID (R280). -/
def Part.deviceId : Part → Nat
  | .rn802 => 0x0802
  | .rn804 => 0x0804
  | .rn808 => 0x0808

/-- The features of the table *Host port features*. -/
inductive HostFeature where
  | cxlIo | cxlCache | hdmDb | flit256 | ats | pasid | pri | uio | aer | doe | flr
  | hdmH | hdmD | type3 | memMailbox | dynamicCapacity | multiLogical | flit68 | lanesX2 | lanesX1 | bifurcation
  | linkPowerStates | cxlReset | srIov | pcieIde | cxlIde | tdisp
  deriving DecidableEq, Repr

/-- Supported, and so advertised in configuration space (R280). -/
def HostFeature.supported : HostFeature → Bool
  | .cxlIo | .cxlCache | .hdmDb | .flit256 | .ats | .pasid | .pri | .uio | .aer | .doe | .flr => true
  | _ => false

/-- What the rules say of a port's configuration space: device ID, class code, BAR sizes and bases, bus mastering, address
translation, and where the MSI-X table and its pending bits lie in BAR0 (R280, R284, R296, R298). The layout is that of the PCI
Express standard, which the manual does not repeat, and no row of the table reads it. -/
structure ConfigView where
  deviceId : Nat
  classCode : Nat
  barSizes : List Nat
  bars : List (BitVec 64)
  bme : Bool
  ats : Bool
  pasid : Option (BitVec 20)
  msixTable : Nat
  msixPending : Nat
  features : HostFeature → Bool

/-- Configuration space of port x. -/
def State.configOf (s : State) (x : Nat) : ConfigView :=
  let p := s.port x
  { deviceId := s.fuses.part.deviceId, classCode := 0x120000, barSizes := [2 ^ 28, 2 ^ 34, 2 ^ 17], bars := p.bars, bme := p.bme
    ats := p.atsEn, pasid := if p.pasidEn then some p.pasid else none
    msixTable := 0x04000000 + x * 0x10000 + 0x2000, msixPending := 0x04000000 + x * 0x10000 + 0x3000
    features := HostFeature.supported }

end Sys2Proof.Machine
end

