-- ==== Sys2Proof/Machine/DeviceLinks.lean ====
section
/-!
DEFINITION. The device links (R320 to R338, R456): training, flits with their retry, lanes and their spares, going down,
forwarding, and the messages of peer memory access.
-/
namespace Sys2Proof.Machine

/-! ## Going down (R329, R345) -/

/-- Post a record of the mirror classes and send vector 5 (R297). -/
def postMirror (s : State) (cls reason : Nat) (ds : List Nat) (cause : BitVec 32) : State :=
  sendMsixBoth (postFault s cls reason ds cause) 5

/-- MIRROR_LOST with the mirror step being built (R344, R380). -/
def postMirrorLost (s : State) (reason : Nat) (cause : BitVec 32) : State :=
  postMirror s 0x18 reason [s.mirror.partner.toNat, (s.mirror.committed + 1).toNat] cause

/-- Link n goes down (R329): its retry buffer is discarded and LINK_DOWN posted; where it was the last mirror link,
MIRROR_LOST follows (R345). -/
def linkDown (s : State) (n why : Nat) (cause : BitVec 32) : State :=
  let had := s.mirror.en && !s.mirrorUp.isEmpty
  let s := s.updLink n fun l => { l with
    state := .down, losses := satAdd l.losses 1, lastWhy := BitVec.ofNat 4 why, retryBuf := [], replays := 0, txMsgs := []
    rxUnits := [], rsUnits := [], rqHeld := 0, rsHeld := 0, switches := [] }
  let q := s.dev.faultSeq
  let s := postFault s 0x11 why [n, noWord] cause
  if had && s.mirrorUp.isEmpty then postMirrorLost s 3 q else s

/-- A link loses what it needs: an up link goes down, training stops. -/
def linkLoss (s : State) (n why : Nat) (cause : BitVec 32) : State :=
  if s.linkUp n then linkDown s n why cause
  else if s.populated n && decide ((s.link n).state = .training) then s.updLink n fun l => { l with state := .down } else s

/-! ## Training and lanes (R327, R328, R321, R456) -/

/-- The links of engine e. -/
def engineLinks (e : Nat) : List Nat := [4 * e, 4 * e + 1, 4 * e + 2, 4 * e + 3]

/-- The links of engine e may train: its tile is usable (R16, R390), its laser input shows no fault (R456), and the
LINK_PROFILE strap lets links train (R420). -/
def State.engineOk (s : State) (e : Nat) : Bool :=
  s.tileUsable (engineTile s.fuses.part e) && !s.sec.elsFlt.contains e && !tst s.dev.straps 3

/-- Lanes newly set aside. -/
def addLanes (l : List Nat) (bad : List Nat) : List Nat := (bad.filter (· < 22)).foldl (fun l i => insertNat i l) l

/-- Strap fields of SEC_STRAPS (R446): PAIRID, ROLE. -/
def strapPair (w : BitVec 11) : Nat := fld w 7 4
def strapRole (w : BitVec 11) : Bool := tst w 1

/-- A link after its training has succeeded (R325, R327): sequence numbers, credits and buffers start afresh. -/
def Link.trained (l : Link) (tr : TrainResult) (tx rx : List Nat) (verified : Bool) : Link :=
  { l with
    state := if verified then .verified else .up, peerPair := tr.pairId, peerRole := tr.role, peerId := tr.peerId
    txOut := tx, rxOut := rx, retryBuf := [], nextSeq := 0, expSeq := 0, replays := 0, rqCred := 1024, rsCred := 1024
    rqBack := 0, rsBack := 0, txMsgs := [], rxUnits := [], rsUnits := [], rqHeld := 0, rsHeld := 0, switches := [], lightOut := false }

/-- DL_TRAINING_DONE: the link comes up with 20 working lanes in each direction, else stays down; pair-verified where the
far end shows the same PAIR_ID and the other MIRROR_ROLE (R327). -/
def execDlTrainingDone (n : Nat) (tr : TrainResult) (s : State) : Answer :=
  .next (
    let l := s.link n
    if s.clocked && s.populated n && !s.linkUp n && s.engineOk (n / 4) && !l.lightOut then
      let tx := addLanes l.txOut tr.txBad
      let rx := addLanes l.rxOut tr.rxBad
      if tx.length ≤ 2 ∧ rx.length ≤ 2 then
        let verified := decide (tr.pairId.toNat = strapPair s.dev.straps) && (tr.role != strapRole s.dev.straps)
        let s := s.setLink n (l.trained tr tx rx verified)
        s.updMirror fun m => { m with aliveRx := [] }
      else s.setLink n { l with state := .down }
    else s)

/-- DL_TRAINING_RETRY: training is attempted again (R327). -/
def execDlTrainingRetry (n : Nat) (s : State) : Answer :=
  .next (
    if s.clocked && s.populated n && !s.linkUp n && s.engineOk (n / 4) then
      s.updLink n fun l => { l with state := .training, lightOut := false }
    else s)

/-- DL_TRAINING_FAILED: a link that was up goes down (R329). -/
def execDlTrainingFailed (n : Nat) (s : State) : Answer := .next (if s.clocked then linkLoss s n 0x4 0 else s)

/-- LOSS_OF_LIGHT: of a laser input, or of one link's received light (R321). -/
def execLossOfLight (e : Nat) (link : Option Nat) (s : State) : Answer :=
  .next (
    if s.clocked && decide (e < 6) then
      let ls := match link with
        | some j => [4 * e + j % 4]
        | none => engineLinks e
      forEach ls s fun s n => if s.populated n then (linkLoss s n 0x1 0).updLink n fun l => { l with lightOut := true } else s
    else s)

/-- ELS_FLT_ASSERT: as a loss of light on all four links (R456). -/
def execElsFltAssert (e : Nat) (s : State) : Answer :=
  .next (
    if decide (e < 6) then
      let s := s.updSec fun c => { c with elsFlt := insertNat e c.elsFlt }
      if s.clocked then forEach (engineLinks e) s fun s n => linkLoss s n 0x1 0 else s
    else s)

/-- ELS_FLT_RELEASE: training is attempted again (R456). -/
def execElsFltRelease (e : Nat) (s : State) : Answer :=
  .next (
    let s := s.updSec fun c => { c with elsFlt := dropNat e c.elsFlt }
    if s.clocked && decide (e < 6) && s.engineOk e then
      forEach (engineLinks e) s fun s n =>
        if s.populated n && decide ((s.link n).state = .down) then s.updLink n fun l => { l with state := .training } else s
    else s)

/-- A lane in use: among the lowest twenty not set aside. -/
def laneInUse (out : List Nat) (lane : Nat) : Bool := (((List.range 22).filter fun i => !out.contains i).take 20).contains lane

/-- Lanes set aside in one direction. -/
def Link.out (l : Link) (rx : Bool) : List Nat := if rx then l.rxOut else l.txOut

/-- Lanes of one direction that are set aside or about to be. -/
def Link.failing (l : Link) (rx : Bool) : List Nat := l.out rx ++ (l.switches.filter fun w => w.rx == rx).map LaneSwitch.lane

/-- Switches that the far end has not been told of are proposed, each in a link-management flit as soon as the retry buffer has
room for it (R325, R328). The flit's payload is free: the manual gives it no layout. -/
def tellSwitches (s : State) (n : Nat) : State :=
  forEach ((s.link n).switches.filter fun w => !w.told) s fun s w =>
    if 4096 ≤ (s.link n).retryBuf.length then s
    else
      let s := s.updLink n fun l => { l with
        switches := l.switches.map fun v => if v = w then { w with seq := if w.rx then l.expSeq else l.nextSeq, told := true } else v }
      let d := drawBits 1920 s
      sendFlit d.2 n 3 d.1.toNat false

/-- A lane fails: a spare takes over once both ends agree on the flit, or the link goes down with none left (R328). -/
def laneFail (s : State) (n : Nat) (rx : Bool) (lane reason : Nat) : State :=
  let l := s.link n
  if s.clocked && s.linkUp n && laneInUse (l.out rx) lane && !(l.failing rx).contains lane then
    if 2 ≤ (l.failing rx).length then linkDown s n 0x3 0
    else tellSwitches (s.setLink n { l with
      switches := l.switches ++ [{ rx := rx, lane := lane, seq := 0, reason := reason, agreed := false, told := false }] }) n
  else s

/-- LANE_SYMBOL_THRESHOLD and LANE_LOSS_OF_SIGNAL (R328). -/
def execLaneSymbolThreshold (n : Nat) (rx : Bool) (lane : Nat) (s : State) : Answer := .next (laneFail s n rx lane 1)
def execLaneLossOfSignal (n : Nat) (rx : Bool) (lane : Nat) (s : State) : Answer := .next (laneFail s n rx lane 2)

/-- LINK_MANAGEMENT_FLIT: the SEQ of a switch is agreed; a switch that the far end proposes has a reason of its own, which
its flit alone would tell (R328). -/
def execLinkManagementFlit (n : Nat) (rx : Bool) (lane : Nat) (seq : BitVec 24) (s : State) : Answer :=
  .next (
    let l := s.link n
    if s.clocked && s.linkUp n then
      if l.switches.any fun w => w.rx == rx && decide (w.lane = lane) then
        s.setLink n { l with
          switches := l.switches.map fun w => if w.rx == rx ∧ w.lane = lane then { w with seq := seq, agreed := true } else w }
      else if laneInUse (l.out rx) lane && decide ((l.failing rx).length < 2) then
        s.drawn.setLink n { l with
          switches := l.switches ++ [{ rx := rx, lane := lane, seq := seq, reason := if Config.freeBool s.free n then 1 else 2
                                       agreed := true, told := true }] }
      else s
    else s)

/-- The flit of an agreed switch has come: it is the next in its direction, or has passed (R328). -/
def Link.due (l : Link) (w : LaneSwitch) : Bool :=
  w.agreed && decide (((if w.rx then l.expSeq else l.nextSeq) - w.seq).toNat < 2 ^ 22)

/-- LANE_SPARED: the switch occurs at the SEQ agreed (R328). -/
def execLaneSpared (n : Nat) (s : State) : Answer :=
  .next (match (s.link n).switches.find? (s.link n).due with
    | none => s
    | some w =>
      if s.clocked && s.linkUp n then
        let s := s.updLink n fun l => { l with
          switches := l.switches.erase w
          txOut := if w.rx then l.txOut else insertNat w.lane l.txOut
          rxOut := if w.rx then insertNat w.lane l.rxOut else l.rxOut }
        postFault s 0x10 w.reason [n, b2n w.rx, w.lane, 2 - ((s.link n).out w.rx).length] 0
      else s)

/-! ## Flits received (R323 to R326, R333) -/

/-- Body units of a message, by its header (R333, R334, R336). -/
def bodyUnits (h : BitVec 128) : Nat :=
  match fld h 31 28 with
  | 1 => 4 * (fld h 27 24 + 1)
  | 2 => 5
  | 3 => 0
  | 4 => 4 * (fld h 27 24 + 1)
  | 5 => 0
  | 6 => 4 * (fld h 27 24 + 1)
  | 7 => 4 * (fld h 27 24 + 1)
  | 15 => 0
  | _ => fld h 23 16

/-- Cut units into messages: those complete, what is left of one that goes on in a later flit, and how many of a reserved
type were discarded (R333). -/
def cutMsgs : Nat → List (BitVec 128) → List Msg × List (BitVec 128) × Nat
  | 0, us => ([], us, 0)
  | _ + 1, [] => ([], [], 0)
  | k + 1, h :: rest =>
    if fld h 31 28 = 0 then ([], [], 0)
    else if rest.length < bodyUnits h then ([], h :: rest, 0)
    else
      let r := cutMsgs k (rest.drop (bodyUnits h))
      if fld h 31 28 = 15 then (r.1, r.2.1, r.2.2 + 1)
      else ({ hdr := h, body := rest.take (bodyUnits h) } :: r.1, r.2.1, r.2.2)

/-- The fifteen units of a flit's payload. -/
def flitUnits (f : BitVec 2048) : List (BitVec 128) :=
  (List.range 15).map fun i => BitVec.ofNat 128 (fld f (128 * i + 127) (128 * i))

/-- The LCRC of a flit is right (R324). -/
def lcrcOk (f : BitVec 2048) : Bool := decide (fld f 2047 2016 = (crc32c (bytesOf 252 f.toNat)).toNat)

/-- SEQ a is at or before b within the window of 2^22 (R325). -/
def seqLe (a b : BitVec 24) : Bool := decide ((b - a).toNat < 2 ^ 22)

/-- ACK drops what the far end has; NAK replays what is left, and a link whose oldest flit has been replayed eight times
goes down (R325, R326). -/
def applyAck (s : State) (n : Nat) (ack : BitVec 24) (nak : Bool) : State :=
  let l := s.link n
  let kept := l.retryBuf.filter fun e => !seqLe e.1 ack
  let moved := decide (kept.length < l.retryBuf.length)
  let l := { l with retryBuf := kept, replays := if moved then 0 else l.replays }
  if nak && !kept.isEmpty then
    if 8 ≤ l.replays then linkDown (s.setLink n l) n 0x2 0
    else
      let s := s.setLink n { l with replays := l.replays + 1, retry := satAdd l.retry 1 }
      forEach kept s fun s e => (passItem s ((16 + n / 4) * 256 + 2 * (n % 4))).emit (.flit n e.2)
  else s.setLink n l

/-- Messages that a flit completes: the last of them holds the flit's buffer, and that of flits before it, until it is
taken. -/
def holdFlits (k : Nat) : List Msg → List Msg
  | [] => []
  | [m] => [{ m with cred := k }]
  | m :: ms => m :: holdFlits k ms

/-- A class's units join what was left over, complete messages wait to be handled, reserved ones are counted (R333). A flit's
buffer is held by the message that it completes or goes on with; with none its credit goes back at once (R325). -/
def takeUnits (s : State) (n : Nat) (rsp : Bool) (us : List (BitVec 128)) : State :=
  let l := s.link n
  let all := (if rsp then l.rsUnits else l.rxUnits) ++ us
  let r := cutMsgs all.length all
  let held := (if rsp then l.rsHeld else l.rqHeld) + 1
  let msgs := if s.dev.devid = 0xFFF then [] else holdFlits held r.1
  let kept := if msgs.isEmpty && !r.2.1.isEmpty then held else 0
  let back := if msgs.isEmpty && r.2.1.isEmpty then held else 0
  let l := if rsp then { l with rsUnits := r.2.1, rsHeld := kept, rsBack := l.rsBack + back }
    else { l with rxUnits := r.2.1, rqHeld := kept, rqBack := l.rqBack + back }
  (s.setLink n { l with rxMsgs := l.rxMsgs ++ msgs, expSeq := l.expSeq + 1 }).updDev fun d =>
    { d with e2ebad := satAdd d.e2ebad r.2.2 }

/-- FLIT_RECEIVE (R325): checked, accepted or answered with a NAK; its ACK or NAK and its credits act. `fecOk`: every code
word that carries it was decoded; `corr`: what was found in those that were not counted with a flit before (R323, R349). -/
def execFlitReceive (n : Nat) (flit : BitVec 2048) (fecOk : Bool) (corr : FecCounts) (s : State) : Answer :=
  .next (
    if s.clocked && s.linkUp n then
      let s := s.updLink n fun l => { l with corr := satAdd l.corr corr.corr, uncorr := satAdd l.uncorr corr.uncorr }
      let kind := fld flit 1965 1964
      if fecOk && lcrcOk flit && decide (fld flit 2015 1992 = (s.link n).expSeq.toNat) then
        let s := passItem s ((16 + n / 4) * 256 + 2 * (n % 4) + 1)
        let s := s.updLink n fun l => { l with
          rqCred := min 1024 (l.rqCred + fld flit 1963 1958), rsCred := min 1024 (l.rsCred + fld flit 1957 1952) }
        let s := if fld flit 1967 1967 = 1 then s
          else applyAck s n (BitVec.ofNat 24 (fld flit 1991 1968)) (decide (fld flit 1966 1966 = 1))
        if !s.linkUp n then s
        else
          let s := if kind = 2 then s
            else if kind = 3 then s.updLink n fun l => { l with expSeq := l.expSeq + 1 }
            else takeUnits s n (decide (kind = 1)) (flitUnits flit)
          tellSwitches (flushLink s n) n
      else sendFlit s n 2 0 true
    else s)

/-- IDLE_FLIT_SEND (R325). -/
def execIdleFlitSend (n : Nat) (s : State) : Answer := .next (if s.clocked && s.linkUp n then sendFlit s n 2 0 false else s)

/-! ## Messages (R330 to R338) -/

/-- Fields of a data header (R334); DST, SRC and HOPS lie alike in a control header (R336). -/
def Msg.addr (m : Msg) : Nat := fld m.hdr 95 56
def Msg.dst (m : Msg) : Nat := fld m.hdr 55 44
def Msg.src (m : Msg) : Nat := fld m.hdr 43 32
def Msg.nl (m : Msg) : Nat := fld m.hdr 27 24
def Msg.aop (m : Msg) : Nat := fld m.hdr 23 21
def Msg.page (m : Msg) : Nat := fld m.hdr 20 19
def Msg.pois (m : Msg) : Bool := tst m.hdr 18
def Msg.stl (m : Msg) : Nat := fld m.hdr 17 16
def Msg.hops (m : Msg) : Nat := fld m.hdr 15 12
def Msg.tag (m : Msg) : Nat := fld m.hdr 11 0
def Msg.crc (m : Msg) : Nat := fld m.hdr 127 96
/-- Fields of a control header (R336). -/
def Msg.word (m : Msg) : BitVec 32 := BitVec.ofNat 32 (fld m.hdr 95 64)
def Msg.res (m : Msg) : Nat := fld m.hdr 63 56
def Msg.alive (m : Msg) : BitVec 4 := BitVec.ofNat 4 (fld m.hdr 27 24)

/-- The message is served here (R331). -/
def State.forMe (s : State) (m : Msg) : Bool := decide (s.route m.dst = .here)

/-- The head of link n's received messages, if it is served here and has type mt. -/
def State.headMsg (s : State) (n mt : Nat) : Option Msg :=
  if !s.clocked then none
  else match (s.link n).rxMsgs with
    | m :: _ => if m.mt = mt ∧ s.forMe m then some m else none
    | [] => none

/-- The head of link n's received messages is taken; the flits of buffer it held go back as credits of its class (R325). -/
def popMsg (s : State) (n : Nat) : State :=
  s.updLink n fun l => match l.rxMsgs with
    | [] => l
    | m :: ms =>
      if isResponse m.mt then { l with rxMsgs := ms, rsBack := l.rsBack + m.cred }
      else { l with rxMsgs := ms, rqBack := l.rqBack + m.cred }

/-- A message is discarded and counted (R333, R335). -/
def badMsg (s : State) : State := s.updDev fun d => { d with e2ebad := satAdd d.e2ebad 1 }

/-- The step number that STL names, from E − 2 to E + 1 (R335). -/
def stepFrom (e : BitVec 32) (stl : Nat) : BitVec 32 :=
  (([e - 2, e - 1, e, e + 1] : List (BitVec 32)).find? fun x => decide (x.toNat % 4 = stl)).getD e

/-- The end-to-end check of a data message against a value S (R335). -/
def Msg.crcOk (m : Msg) (st : BitVec 32) : Bool := decide (m.crc = (dataCrc m st).toNat)

/-- The check with S rebuilt from the receiver's step number. -/
def State.dataOk (s : State) (m : Msg) : Bool := m.crcOk (stepFrom s.dev.step m.stl)

/-- The line i of a message body that starts at unit u. -/
def Msg.line (m : Msg) (u i : Nat) : Line := unitsLine (m.body.drop (u + 4 * i))

/-- Answer a request in error: an error completion, or a poisoned response (R331, R332, R338). -/
def answerError (s : State) (m : Msg) : State :=
  let n := m.nl + 1
  if m.mt = 3 then
    sendRouted s m.src m.addr (dataMsg s m.addr m.src 4 m.nl 0 0 true m.tag s.dev.step
      ((List.range n).flatMap fun _ => lineUnits poisonData))
  else if m.mt = 1 ∨ m.mt = 2 then sendRouted s m.src m.addr (dataMsg s m.addr m.src 5 1 0 0 false m.tag s.dev.step [])
  else s

/-- MESSAGE_FORWARD: a message for another device goes on by its routing entry; at 15 hops, or with no way, it ends here
(R331, R332). -/
def execMessageForward (n : Nat) (s : State) : Answer :=
  .next (match (s.link n).rxMsgs with
    | [] => s
    | m :: _ =>
      if !s.clocked || s.forMe m then s
      else
        let s := popMsg s n
        if m.hops = 15 then answerError (s.updDev fun d => { d with hopdrop := satAdd d.hopdrop 1 }) m
        else match s.route m.dst with
          | .links ls => sendMsg s (if 8 ≤ m.mt then nth ls 0 0 else pickLink ls m.addr) { m with hdr := setFld m.hdr 15 12 (m.hops + 1) }
          | _ => answerError s m)

/-- The elements of an accumulating line, from byte i on: each begins at a byte of the mask and covers its operation's width.
One whose address is no multiple of that width is applied at the address rounded down, and counted (R234). Mask, data and
count. -/
def alignAcc (w : Nat) (mask : BitVec 64) (data : Nat) : Nat → Nat → Nat × Nat × Nat
  | 0, _ => (0, 0, 0)
  | fuel + 1, i =>
    if 64 ≤ i then (0, 0, 0)
    else if mask.getLsbD i then
      let r := alignAcc w mask data fuel (i + w)
      let b := i - i % w
      let m := (2 ^ w - 1) * 2 ^ b
      let d := data / 2 ^ (8 * i) % 2 ^ (8 * w) * 2 ^ (8 * b)
      (m ||| r.1, d ||| r.2.1, b2n (decide (i % w ≠ 0)) + r.2.2)
    else alignAcc w mask data fuel (i + 1)

/-- One line of a peer's request, with its mask, data and misaligned elements as the vault takes them (R234). -/
def peerLine (kind : RqKind) (e : BitVec 64 × Line) : BitVec 64 × Line × Nat :=
  match kind with
  | .acc op =>
    let r := alignAcc (accWidth op) e.1 e.2.toNat 64 0
    (BitVec.ofNat 64 r.1, BitVec.ofNat 512 r.2.1, r.2.2)
  | _ => (e.1, e.2, 0)

/-- Begin to serve a peer's request (R337, R338): export checks, then one request a line. -/
def servePeer (s : State) (n : Nat) (m : Msg) (kind : RqKind) (lines : List (BitVec 64 × Line)) : State :=
  match s.exported m.src m.addr kind with
  | none => answerError (s.updDev fun d => { d with expdeny := satAdd d.expdeny 1 }) m
  | some da =>
    let v : Serve := {
      link := n, src := m.src, tag := m.tag, addr := m.addr, isRead := decide (kind = .read), left := lines.length
      lines := [], err := false }
    let s := s.updDev fun d => { d with serves := d.serves ++ [v] }
    forEach lines.zipIdx s fun s e =>
      let l := peerLine kind e.1
      issue s (.peer n m.src m.tag lines.length) kind (da / 64 * 64 + 64 * e.2) l.1 l.2.1 m.pois m.page l.2.2

/-- Kind of a peer's write, by AOP (R147, R334); none: a reserved code. -/
def writeKind (aop : Nat) : Option RqKind :=
  if aop = 0 then some .write else if aop ≤ 4 then some (.acc aop) else none

/-- WRITE: checked, written line by line, answered with COMPLETION (R337). -/
def execWriteMsg (n : Nat) (s : State) : Answer :=
  .next (match s.headMsg n 1 with
    | none => s
    | some m =>
      let s := popMsg s n
      match writeKind m.aop with
      | none => badMsg s
      | some k => if s.dataOk m then servePeer s n m k ((List.range (m.nl + 1)).map fun i => (fullMask, m.line 0 i)) else badMsg s)

/-- WRITE_MASKED: the masked bytes of one line (R333, R337). -/
def execWriteMasked (n : Nat) (s : State) : Answer :=
  .next (match s.headMsg n 2 with
    | none => s
    | some m =>
      let s := popMsg s n
      match writeKind m.aop with
      | none => badMsg s
      | some k => if s.dataOk m then servePeer s n m k [((nth m.body 0 0).setWidth 64, m.line 1 0)] else badMsg s)

/-- READ: answered with READ_RESPONSE (R337). -/
def execReadMsg (n : Nat) (s : State) : Answer :=
  .next (match s.headMsg n 3 with
    | none => s
    | some m =>
      let s := popMsg s n
      if s.dataOk m then servePeer s n m .read ((List.range (m.nl + 1)).map fun _ => (fullMask, 0)) else badMsg s)

/-- The outstanding request with a tag; an answer that finds none is late and discarded (R337). -/
def State.peerRq (s : State) (tag : Nat) : Option PeerRq := s.dev.peerRqs.find? fun q => q.tag = tag

/-- READ_RESPONSE: its lines go to their requesters, poisoned where marked (R337). -/
def execReadResponse (n : Nat) (s : State) : Answer :=
  .next (match s.headMsg n 4 with
    | none => s
    | some m =>
      let s := popMsg s n
      if !s.dataOk m then badMsg s
      else match s.peerRq m.tag with
        | none => s
        | some q =>
          let hit := fun (r : Rq) => decide (r.kind = .read) && decide (m.addr / 64 ≤ r.da % 2 ^ 34 / 64) &&
            decide (r.da % 2 ^ 34 / 64 ≤ m.addr / 64 + m.nl)
          let left := q.rqs.filter fun r => !hit r
          let s := s.updDev fun d => { d with
            peerRqs := d.peerRqs.flatMap fun p => if p = q then (if left.isEmpty then [] else [{ q with rqs := left }]) else [p] }
          forEach (q.rqs.filter hit) s fun s r =>
            answerFrom s (.engine (n / 4)) (r.answer (if m.pois then poisonData else m.line 0 (r.da % 2 ^ 34 / 64 - m.addr / 64)) m.pois))

/-- COMPLETION: acknowledges a peer write, or ends it in error (R337). -/
def execCompletionMsg (n : Nat) (s : State) : Answer :=
  .next (match s.headMsg n 5 with
    | none => s
    | some m =>
      let s := popMsg s n
      if !s.dataOk m then badMsg s
      else match s.peerRq m.tag with
        | none => s
        | some q =>
          let s := s.updDev fun d => { d with peerRqs := d.peerRqs.erase q }
          forEach q.rqs s fun s r => answerFrom s (.engine (n / 4)) (r.answer 0 (decide (m.nl ≠ 0))))

/-- DL_REQUEST_TIMEOUT: the request is ended; the first of a step posts LINK_DOWN with reason PATH_TIMEOUT, the link
staying up (R337, R375). -/
def execDlRequestTimeout (id : Nat) (s : State) : Answer :=
  .next (match s.dev.peerRqs.find? fun q => q.rqs.any fun r => r.id = id with
    | none => s
    | some q =>
      if !s.clocked then s
      else
        let first := s.running && !s.dev.pathTimeout
        let s := s.updDev fun d => { d with
          peerRqs := d.peerRqs.erase q, timeout := satAdd d.timeout 1, pathTimeout := d.pathTimeout || first
          usedTags := d.usedTags ++ [(q.tag, s.cycles .control)] }
        let s := s.updLink q.link fun l => { l with txMsgs := l.txMsgs.filter fun m => !(decide (m.mt ≤ 3) && decide (m.tag = q.tag)) }
        let s := forEach q.rqs s fun s r => answerFrom s (.engine (q.link / 4)) (r.answer poisonData true)
        if first then
          postFault (s.updLink q.link fun l => { l with losses := satAdd l.losses 1, lastWhy := 5 }) 0x11 0x5 [q.link, q.dst.toNat] 0
        else s)

end Sys2Proof.Machine
end

