-- ==== Sys2Proof/Machine/Mirror.lean ====
section
/-!
DEFINITION. Mirrored pairs (R339 to R349, R393): the store's two copies, roll calls, commits at both ends, the mirror
map, takeover and restore. The commands MIRROR_SET, MIRROR_STATUS, TAKEOVER and RESTORE_TO are in Commands.
-/
namespace Sys2Proof.Machine

/-! ## Control messages received (R336) -/

/-- The alive window of a control message: from 1 to 7 beyond the last accepted, any value where none is (R336). -/
def State.aliveOk (s : State) (m : Msg) : Bool :=
  match s.mirror.aliveRx.find? fun e => e.1 = m.src * 16 + m.mt with
  | none => true
  | some e => decide (1 ≤ (m.alive - e.2).toNat) && decide ((m.alive - e.2).toNat ≤ 7)

/-- Take the head of link n as a control message of type mt for this device; the message is given only where it is
accepted: one whose CRC or ALIVE fails, or that is for another device, is discarded (R336). It passes from the link port to
the control cluster (R469). -/
def takeControl (s : State) (n mt : Nat) : Option Msg × State :=
  match s.headMsg n mt with
  | none => (none, s)
  | some m =>
    let s := popMsg s n
    let s := crossAt s (.engine (n / 4)) .control
    if m.crc = (controlCrc m).toNat && s.aliveOk m && decide (m.dst = s.dev.devid.toNat) then
      (some m, s.updMirror fun k => { k with aliveRx := tput k.aliveRx (m.src * 16 + m.mt) m.alive })
    else (none, s)

/-- The message comes from the configured partner of an enabled pair, not refused since TAKEOVER (R339, R346). -/
def State.fromPartner (s : State) (m : Msg) : Bool :=
  s.mirror.en && decide (m.src = s.mirror.partner.toNat) && !s.mirror.refuse

/-- Answer with COMMIT_ACK on the link that the routing table, or the link the message came by, gives (R331, R344). -/
def sendAck (s : State) (n dst : Nat) (word : BitVec 32) (res : Nat) : State := sendControl s n dst 0xA word res []

/-! ## The store (R340, R343) -/

/-- The held copy is discarded (R339, R340, R341). -/
def Mirror.discard (m : Mirror) : Mirror :=
  { m with hvalid := false, cur := [], wb := [], heldValid := [], otherValid := [] }

/-- The store discards its copy for a change of the store range: MIRROR_LOST with reason STORE_DISCARDED where one was
held, and RESYNC answers the next COMMIT (R340, R344). -/
def discardStore (s : State) : State :=
  let m := s.mirror
  let had := m.hvalid || !m.wb.isEmpty
  let s := s.updMirror fun m => { m.discard with resync := m.resync || had }
  if had then postMirrorLost s 5 0 else s

/-- DA of byte 0 of copy c of pair g (R340). -/
def Mirror.copyDa (m : Mirror) (g c : Nat) : Nat := m.store.1 + 8192 * g + 4096 * c

/-- Number of the current copy of a pair. -/
def Mirror.curOf (m : Mirror) (g : Nat) : Nat := b2n (m.cur.contains g)

/-- A line can be written by the store, or a restored device, now: it is quiet, or the fence of bank mode answers it. -/
def State.storeReady (s : State) (da : Nat) : Bool := s.inBankMode da || s.daQuiet da

/-- Lines that hosts hold are recalled before they are read or written (R291). -/
def recallLines (s : State) (das : List Nat) : State :=
  forEach das s fun s da => if (s.port 0).filter.contains da || (s.port 1).filter.contains da then recallRange s da 64 else s

/-- Write a whole line that came over a link of engine e; the flag tells that it landed. A fenced range, lost memory and an
address that no window maps take none; the fence and R5 count it (R5, R176, R221, R273). -/
def storeLine (s : State) (e : Nat) (da : Nat) (d : Line) (poison : Bool) : State × Bool :=
  if s.inBankMode da then (s.updDev fun k => { k with wrdrop := satAdd k.wrdrop 1 }, false)
  else match s.place da with
    | some p =>
      let r := hubWrite (crossAt s (.engine e) (.vault p.tile p.vault)) p d poison
      (if r.2 then hitFilters r.1 da else r.1, r.2)
    | none => (countR5 s (.peer 0 0 0 0), false)

/-- Read a line of the device for a message on a link of engine e (R196, R244). -/
def readOutLine (s : State) (e : Nat) (da : Nat) : (Line × Bool) × State :=
  match s.place da with
  | some p => let r := hubRead s p; (r.1, crossAt r.2 (.vault p.tile p.vault) (.engine e))
  | none => ((poisonData, true), s)

/-- The DAs of a pair's current copy, and of the other one. -/
def Mirror.pairDas (m : Mirror) (g : Nat) : List (Nat × Nat) :=
  (List.range 64).map fun i => (m.copyDa g (m.curOf g) + 64 * i, m.copyDa g (1 - m.curOf g) + 64 * i)

/-- The lines of the store that a mirrored line of a DA needs: its own, and both copies of a pair that it opens. -/
def Mirror.neededDas (m : Mirror) (da : Nat) : List Nat :=
  match regionPos m.held da with
  | none => []
  | some x =>
    let g := x / 4096
    if m.wb.contains g then [m.copyDa g (1 - m.curOf g) + x % 4096]
    else (m.pairDas g).flatMap fun e => [e.1, e.2]

/-- The first mirrored write of a step to pair g: the current copy is copied into the other, or the other is zeroed where
there is no current copy, and WB is set (R343). -/
def openPair (s : State) (e g : Nat) : State :=
  let m := s.mirror
  if m.wb.contains g then s
  else
    let s := forEach (m.pairDas g) s fun s d =>
      let v : (Line × Bool) × State := if m.heldValid.contains g then readOutLine s e d.1 else ((0, false), s)
      (storeLine v.2 e d.2 v.1.1 v.1.2).1
    s.updMirror fun m => { m with wb := insertNat g m.wb, otherValid := insertNat g m.otherValid }

/-- One mirrored line is written into the copy that is not current (R343). -/
def mirrorLine (s : State) (e : Nat) (da : Nat) (d : Line) (poison : Bool) : State × Bool :=
  match regionPos s.mirror.held da with
  | none => (s, false)
  | some x =>
    let s := openPair s e (x / 4096)
    storeLine s e (s.mirror.copyDa (x / 4096) (1 - s.mirror.curOf (x / 4096)) + x % 4096) d poison

/-- Position of link n among the mirror links (R344). -/
def State.linkPos (s : State) (n : Nat) : Nat := s.mirrorMask.idxOf n

/-- The DAs of a data message's lines. -/
def Msg.das (m : Msg) : List Nat := (List.range (m.nl + 1)).map fun i => m.addr + 64 * i

/-- MIRROR_WRITE at the store (R343, R344): counted on its link once it has landed or been discarded; one that fails its
check is discarded (R335). It waits until the lines it needs are quiet. -/
def execMirrorWrite (n : Nat) (s : State) : Answer :=
  .next (match s.headMsg n 6 with
    | none => s
    | some m =>
      if !s.fromPartner m then popMsg s n
      else
        let ok := m.crcOk s.mirror.expect
        let need := m.das.flatMap s.mirror.neededDas
        if ok && !need.all s.storeReady then recallLines s need
        else
          let s := popMsg s n
          let s := s.updMirror fun k => { k with recv := k.recv.set (s.linkPos n) (nth k.recv (s.linkPos n) 0 + 1) }
          if !ok then badMsg (s.updMirror fun k => { k with bad := true })
          else forEach m.das.zipIdx s fun s e =>
            let r := mirrorLine s (n / 4) e.1 (m.line 0 e.2) m.pois
            if r.2 then r.1 else r.1.updMirror fun k => { k with bad := true })

/-- RESTORE_WRITE at the restored device: into its own DAs (R348); a line of lost memory fails the restore (R395). It waits
until the lines are quiet. -/
def execRestoreWrite (n : Nat) (s : State) : Answer :=
  .next (match s.headMsg n 7, s.mirror.restoreIn with
    | some m, some r =>
      if m.src ≠ s.mirror.restsrc.toNat then popMsg s n
      else if !m.crcOk r.step then
        badMsg ((popMsg s n).updMirror fun k => { k with restoreIn := some { r with got := r.got + 1, failed := true } })
      else if !m.das.all s.storeReady then recallLines s m.das
      else
        let x := m.das.zipIdx.foldl (fun (a : State × Bool) e =>
          let w := storeLine a.1 (n / 4) e.1 (m.line 0 e.2) m.pois
          (w.1, a.2 && w.2)) (popMsg s n, true)
        x.1.updMirror fun k => { k with restoreIn := some { r with got := r.got + 1, failed := r.failed || !x.2 } }
    | some _, none => popMsg s n
    | none, _ => s)

/-! ## Roll calls (R345) -/

/-- ROLLCALL: a valid one on a mirror link ends the silence, and forms or restores the pair where the partner names this
device; a pair that becomes ACTIVE expects the step after the partner's last committed one. -/
def execRollcall (n : Nat) (s : State) : Answer :=
  .next (match takeControl s n 8 with
    | (none, s) => s
    | (some m, s) =>
      let b := nth m.body 0 0
      if s.fromPartner m && s.mirrorMask.contains n then
        let names := decide (fld b 47 36 = s.dev.devid.toNat)
        let forms := names && (decide (s.mirror.pair = .forming) || decide (s.mirror.pair = .lost))
        s.updMirror fun k => { k with
          silence := 0, partnerStep := BitVec.ofNat 32 (fld b 127 96), partnerState := BitVec.ofNat 4 (fld b 55 52)
          pair := if forms then .active else k.pair
          expect := if forms then BitVec.ofNat 32 (fld b 127 96) + 1 else k.expect }
      else s)

/-- Codes of the pair states (R339). -/
def PairState.code : PairState → Nat
  | .off => 0 | .forming => 1 | .active => 2 | .lost => 3 | .held => 4

/-- The body of a roll call (R345). -/
def State.rollcallBody (s : State) : BitVec 128 :=
  packW 128 [(96, s.mirror.committed.toNat), (64, s.dev.gen.toNat), (56, s.usableTileMask), (52, s.dev.state.code),
    (48, s.mirror.pair.code), (36, s.mirror.partner.toNat)]

/-- ROLLCALL_SEND: one roll call on every up mirror link (R345). -/
def execRollcallSend (s : State) : Answer :=
  .next (
    if s.clocked && s.mirror.en then
      forEach s.mirrorUp s fun s n => sendControl s n s.mirror.partner.toNat 8 0 0 [s.rollcallBody]
    else s)

/-- PARTNER_SILENCE: 1 ms without a valid roll call on any mirror link, in a pair formed or forming (R345). -/
def execPartnerSilence (s : State) : Answer :=
  .next (
    let m := s.mirror
    if s.clocked && m.en && decide (m.pair = .active ∨ m.pair = .forming) && decide (1000 ≤ m.silence.toNat) then
      let s := s.updMirror fun m => { m with pair := .lost, commit := none }
      let s := if m.commit.isSome then s.updDev fun d => { d with commitDone := some false } else s
      postMirror s 0x19 1 [m.partner.toNat, m.partnerStep.toNat, m.partnerState.toNat] 0
    else s)

/-! ## Commits at the source (R344) -/

/-- Read lines, each from a DA and named by another, for a message on mirror link position i of links ls. -/
def readOutLines (s : State) (ls : List Nat) (das : List (Nat × Nat)) : List (Nat × Line × Bool) × State :=
  das.foldl (fun (a : List (Nat × Line × Bool) × State) d =>
    let r := readOutLine a.2 (pickLink ls d.2 / 4) d.1
    (a.1 ++ [(d.2, r.1)], r.2)) ([], s)

/-- Send lines whole, 16 a message and of one poison mark (R334, R344, R348); how many messages went on each link. -/
def sendLines (s : State) (mt : Nat) (ls : List Nat) (dst : Nat) (st : BitVec 32) (das : List (Nat × Nat)) :
    State × List Nat :=
  (List.range (das.length / 16)).foldl (fun (a : State × List Nat) j =>
    let r := readOutLines a.1 ls ((das.drop (16 * j)).take 16)
    (poisonRuns r.1).foldl (fun (a : State × List Nat) run => match run with
      | [] => a
      | (da, _, pois) :: _ =>
        (sendMirror a.1 mt ls dst st da (run.map fun e => e.2.1) pois, a.2 ++ [pickLink ls da])) (r.2, a.2)) (s, [])

/-- The DAs of granule g of a map. -/
def granuleDas (map : List (Nat × Nat)) (g : Nat) : List Nat := (List.range 64).map fun i => regionDa map (4096 * g + 64 * i)

/-- Some line of mirror granule g lies in a valid granule: it has been written (R243). -/
def State.written (s : State) (map : List (Nat × Nat)) (g : Nat) : Bool :=
  (granuleDas map g).any fun da => match s.place da with
    | some p => s.granuleValid p.tile (s.granuleOf p)
    | none => true

/-- The pending granules that a commit sends: all, but for one never written of which the partner's copy has nothing, which is
invalid in both and stays so (R343, R344). -/
def State.toSend (s : State) : List Nat :=
  s.mirror.p.filter fun g => s.mirror.copied.contains g || s.written s.mirror.map g

/-- The two body units of a COMMIT: eight counts (R344). -/
def countUnits (cs : List Nat) : List (BitVec 128) :=
  [packW 128 ((List.range 4).map fun i => (32 * i, nth cs i 0 % 2 ^ 32)),
   packW 128 ((List.range 4).map fun i => (32 * i, nth cs (4 + i) 0 % 2 ^ 32))]

/-- The counts of a COMMIT's body. -/
def unitCounts (us : List (BitVec 128)) : List (BitVec 32) :=
  (List.range 8).map fun i => BitVec.ofNat 32 (fld (nth us (i / 4) 0) (32 * (i % 4) + 31) (32 * (i % 4)))

/-- Send every pending granule and COMMIT (R344 step 3); with no mirror link up the commit waits for one. -/
def sendCommit (s : State) (st : BitVec 32) (shorts : Nat) : State :=
  match s.mirrorUp with
  | [] => s.updMirror fun m => { m with commit := some { step := st, sent := false, shorts := shorts } }
  | ls@(n :: _) =>
    let gs := s.toSend
    let s := forEach gs s fun s g =>
      (sendLines s 6 ls s.mirror.partner.toNat st ((granuleDas s.mirror.map g).map fun da => (da, da))).1
    let s := s.updMirror fun m => { m with copied := gs.foldl (fun l g => insertNat g l) m.copied }
    let s := sendControl s n s.mirror.partner.toNat 9 st 0 (countUnits (s.mirror.counts.map (·.toNat)))
    s.updMirror fun m => { m with counts := List.replicate 8 0, commit := some { step := st, sent := true, shorts := shorts } }

/-- Every vault has passed on the step's mirror lines, and the pending granules can be read (R344 step 2): no queue holds a
write to a mapped line. -/
def State.commitReady (s : State) : Bool :=
  (s.vaults.all fun e => (e.2.queue.map (·.rq) ++ e.2.rmw.map (·.rq)).all fun r =>
    decide (r.kind = .read) || (match s.lineDa (placeOf (e.1 / 64) (e.1 % 64) r.line) with
      | some da => (regionPos s.mirror.map da).isNone
      | none => true)) &&
    s.toSend.all fun g => (granuleDas s.mirror.map g).all s.daQuiet

/-- Every leg of every core of the plan has finished (R21, R344). -/
def State.legsFinished (s : State) : Bool :=
  match s.dev.plan with
  | none => false
  | some p => p.legs.all fun e => match s.holderOf e.1 with
    | some c => decide ((s.core c).seq.phase = .finished)
    | none => false

/-- The booked plan has a mirror set. -/
def State.planMirrors (s : State) : Bool :=
  match s.dev.plan with
  | some p => p.regions.any fun r => r.mirror
  | none => false

/-- No commit of the step has been sent. -/
def Mirror.unsent (m : Mirror) : Bool :=
  match m.commit with
  | some c => !c.sent
  | none => true

/-- MIRROR_COMMIT_BEGIN (R344), once the vaults have passed on the step's lines; one that SHORT or RESYNC found without a
mirror link is sent again. With the pair not ACTIVE, the commit ends at once without an acknowledgement (R345). -/
def execMirrorCommitBegin (s : State) : Answer :=
  .next (
    let m := s.mirror
    if s.clocked && s.running && s.legsFinished && s.planMirrors && m.unsent && s.dev.commitDone.isNone then
      if m.pair ≠ .active then s.updDev fun d => { d with commitDone := some false }
      else if s.mirrorUp.isEmpty then s
      else if s.commitReady then match m.commit with
        | some c => sendCommit s c.step c.shorts
        | none => sendCommit s (m.committed + 1) 0
      else recallLines s (s.toSend.flatMap (granuleDas m.map))
    else s)

/-- Every granule of the source's map (R342, R393). -/
def Mirror.allGranules (m : Mirror) : List Nat := List.range (regionLen m.map / 4096)

/-- The commit ends, acknowledged or not (R344 step 6). -/
def endCommit (s : State) (ok : Bool) : State :=
  let s := s.updMirror fun m => { m with
    committed := if ok then (match m.commit with
      | some c => c.step
      | none => m.committed) else m.committed
    w := if ok then [] else m.w, p := if ok then [] else m.p, commit := none }
  if s.running then s.updDev fun d => { d with commitDone := some ok } else s

/-- The store's answer to a COMMIT of this source (R344). -/
def commitAnswer (s : State) (c : CommitSt) (res : Nat) : State :=
  match res with
  | 0 => endCommit s true
  | 1 =>
    let s := s.updMirror fun m => { m with p := m.w.foldl (fun l g => insertNat g l) m.p }
    if 2 ≤ c.shorts then endCommit (postMirrorLost s 2 0) false
    else sendCommit (postMirrorLost s 1 0) c.step (c.shorts + 1)
  | 3 =>
    let s := s.updMirror fun m => { m with p := m.allGranules, copied := [] }
    sendCommit (postMirrorLost s 1 0) c.step c.shorts
  | _ => s

/-- Links that a RESTORE_TO uses and that are up (R348). -/
def State.restoreLinks (s : State) (mask : Nat) : List Nat :=
  (if mask = 0 then s.mirrorMask else onBits 24 mask).filter s.linkUp

/-- The link mask of the RESTORE_TO in progress. -/
def State.restoreMask (s : State) : Nat :=
  match s.dev.long with
  | some l => nfld (pktP4 l.pkt) 23 0
  | none => 0

/-- The lines of the valid held granules: the DA in the store, and the failed device's own (R348). -/
def Mirror.heldDas (m : Mirror) : List (Nat × Nat) :=
  m.heldValid.flatMap fun g => (List.range 64).map fun i => (m.copyDa g (m.curOf g) + 64 * i, regionDa m.held (4096 * g + 64 * i))

/-- Once D has accepted the map: every valid held granule as RESTORE_WRITE to the failed device's own DAs, folded with the
held step, and COMMIT with the messages counted (R348). -/
def sendRestore (s : State) (dst : Nat) : State :=
  let links := if s.restoreMask = 0 then s.mirrorMask else onBits 24 s.restoreMask
  match s.restoreLinks s.restoreMask with
  | [] => s.updMirror fun m => { m with restoreTo := some (BitVec.ofNat 12 dst, 4) }
  | ls@(first :: _) =>
    let m := s.mirror
    let r := sendLines s 7 ls dst m.hstep m.heldDas
    let counts := (List.range 8).map fun i => (r.2.filter fun n => links.idxOf n = i).length
    (sendControl r.1 first dst 9 m.hstep 0 (countUnits counts)).updMirror fun m => { m with
      restoreTo := some (BitVec.ofNat 12 dst, 1) }

/-- D's answer to a restore's MIRMAP or COMMIT (R348): three SHORT answers end it, as in R344; before that everything is sent
again. -/
def restoreAnswer (s : State) (d : BitVec 12) (phase res : Nat) : State :=
  match phase, res with
  | 0, 0 => sendRestore s d.toNat
  | 0, _ => s.updMirror fun k => { k with restoreTo := some (d, 3) }
  | _, 0 => s.updMirror fun k => { k with restoreTo := some (d, 2) }
  | _, _ =>
    if 2 ≤ s.mirror.restoreShorts then s.updMirror fun k => { k with restoreTo := some (d, 4) }
    else sendRestore (s.updMirror fun k => { k with restoreShorts := k.restoreShorts + 1 }) d.toNat

/-- The lines that an answer makes this device send again or for the first time: none but those of the held copy. -/
def State.answerDas (s : State) (src : Nat) : List Nat :=
  match s.mirror.restoreTo with
  | some (d, ph) => if src = d.toNat ∧ ph < 2 then s.mirror.heldDas.map Prod.fst
    else if src = s.mirror.partner.toNat ∧ s.mirror.commit.isSome then s.mirror.allGranules.flatMap (granuleDas s.mirror.map) else []
  | none => if src = s.mirror.partner.toNat ∧ s.mirror.commit.isSome then s.mirror.allGranules.flatMap (granuleDas s.mirror.map) else []

/-- COMMIT_ACK: the answer to MIRMAP at BOOK, to a restore's MIRMAP or COMMIT, or to the step's COMMIT (R341, R344, R348). An
answer after which lines are sent waits until they are quiet. -/
def execCommitAck (n : Nat) (s : State) : Answer :=
  .next (
    let das := match s.headMsg n 0xA with
      | some m => s.answerDas m.src
      | none => []
    if !das.all s.daQuiet then recallLines s das
    else match takeControl s n 0xA with
      | (none, s) => s
      | (some m, s) =>
        let k := s.mirror
        let toRestore := match k.restoreTo with
          | some (d, ph) => decide (m.src = d.toNat) && decide (ph < 2)
          | none => false
        if toRestore then match k.restoreTo with
          | some (d, ph) => restoreAnswer s d ph m.res
          | none => s
        else if m.src ≠ k.partner.toNat then s
        else if k.mapWait then s.updMirror fun k => { k with mapWait := false, mapAnswer := some (BitVec.ofNat 8 m.res) }
        else match k.commit with
          | some c => if c.sent && decide (m.word = c.step) then commitAnswer s c m.res else s
          | none => s)

/-! ## Commits at the store (R344) -/

/-- COMMIT: the store, or a device being restored, waits for what it counts (R344, R348). -/
def execCommitMsg (n : Nat) (s : State) : Answer :=
  .next (match takeControl s n 9 with
    | (none, s) => s
    | (some m, s) =>
      match s.mirror.restoreIn with
      | some r =>
        if m.src = s.mirror.restsrc.toNat then
          s.updMirror fun k => { k with
            restoreIn := some { r with
              total := some (((unitCounts m.body).map (·.toNat)).foldl (· + ·) 0), failed := r.failed || decide (m.word ≠ r.step) } }
        else if s.fromPartner m then s.updMirror fun k => { k with storeCommit := some (m.word, unitCounts m.body) } else s
      | none => if s.fromPartner m then s.updMirror fun k => { k with storeCommit := some (m.word, unitCounts m.body) } else s)

/-- The store answers the partner's COMMIT; counting starts afresh. -/
def answerCommit (s : State) (st : BitVec 32) (res : Nat) : State :=
  let s := s.updMirror fun m => { m with storeCommit := none, recv := List.replicate 8 0, bad := false }
  sendToPartner s s.mirror.partner.toNat 0xA st res []

/-- CUR is flipped and WB cleared for every pair with WB = 1; the step is held (R344 step 5). -/
def Mirror.flip (m : Mirror) (st : BitVec 32) : Mirror :=
  { m with
    cur := m.wb.foldl (fun l g => if l.contains g then dropNat g l else insertNat g l) m.cur
    heldValid := m.wb.foldl (fun l g => insertNat g l) m.heldValid, otherValid := [], wb := [], hstep := st, hvalid := true
    expect := st + 1 }

/-- Answer a restore's COMMIT: what was announced has landed, or has not (R348, R395). -/
def answerRestore (s : State) (r : RestoreIn) (ok : Bool) : State :=
  let src := s.mirror.restsrc.toNat
  let s := s.updMirror fun m => { m with
    restoreIn := if ok then none else some { r with total := none, got := 0, failed := false }
    rstep := if ok then r.step else m.rstep, rvalid := m.rvalid || ok }
  let s := match s.route src with
    | .links (n :: _) => sendAck s n src r.step (b2n (!ok))
    | _ => s
  if ok then sendMsixBoth s 5 else s

/-- STORE_COMMIT_LANDED: every counted message has landed or been discarded; OK, SHORT or RESYNC is answered (R344). -/
def execStoreCommitLanded (s : State) : Answer :=
  .next (
    if !s.clocked then s
    else match s.mirror.storeCommit with
      | some (st, counts) =>
        if s.mirror.recv = counts then
          if s.mirror.resync then answerCommit (s.updMirror fun m => { m with resync := false }) st 3
          else if s.mirror.bad || decide (st ≠ s.mirror.expect) then answerCommit s st 1
          else answerCommit (s.updMirror fun m => m.flip st) st 0
        else s
      | none => match s.mirror.restoreIn with
        | some r => if r.total = some r.got then answerRestore s r (!r.failed) else s
        | none => s)

/-- COMMIT_LANDING_TIMEOUT: a counted message has not landed within 100 µs, and the store answers SHORT (R344). -/
def execCommitLandingTimeout (s : State) : Answer :=
  .next (
    if !s.clocked then s
    else match s.mirror.storeCommit with
      | some (st, counts) => if s.mirror.recv = counts then s else answerCommit s st 1
      | none => match s.mirror.restoreIn with
        | some r => if r.total.isSome && decide (r.total ≠ some r.got) then answerRestore s r false else s
        | none => s)

/-! ## The mirror map (R341, R348) -/

/-- Body units of a map: base and length (R341). -/
def mapUnits (l : List (Nat × Nat)) : List (BitVec 128) := l.map fun e => packW 128 [(0, e.1), (48, e.2)]

/-- The map that body units carry. -/
def unitMap (us : List (BitVec 128)) : List (Nat × Nat) := us.map fun u => (fld u 47 0, fld u 95 48)

/-- MIRMAP: the store takes the partner's map, or a device prepared for it accepts a restore; anything else is REFUSED
(R341, R346, R348). -/
def execMirmap (n : Nat) (s : State) : Answer :=
  .next (match takeControl s n 0xB with
    | (none, s) => s
    | (some m, s) =>
      let k := s.mirror
      let map := unitMap m.body
      let idle := decide (s.dev.state = .ready ∨ s.dev.state = .degraded)
      if k.resten && decide (m.src = k.restsrc.toNat) && idle && !(s.fromPartner m && decide (k.pair = .active)) then
        sendAck (s.updMirror fun k => { k with
          restoreIn := some { map := map, step := m.word, got := 0, failed := false, total := none } }) n m.src m.word 0
      else if s.fromPartner m && decide (k.storeLen ≠ 0) && decide (regionLen map ≤ 2 ^ 38) &&
          decide (2 * regionLen map ≤ k.store.2) then
        let s := s.updMirror fun k => { (if k.held = map then k else k.discard) with held := map, expect := m.word }
        sendAck s n m.src m.word 0
      else sendAck s n m.src m.word 2)

/-- MIRMAP_TIMEOUT: no answer within 10 ms; BOOK is refused (R341). -/
def execMirmapTimeout (s : State) : Answer :=
  .next (
    if s.clocked && s.mirror.mapWait then s.updMirror fun m => { m with mapWait := false, mapAnswer := some 0xFF } else s)

/-- This device is taken over: MIRROR_LOST, and mirroring and its roll call stop; its own plan goes on (R346). -/
def takenOver (s : State) : State :=
  let s := postMirrorLost s 4 0
  let s := if s.mirror.commit.isSome then endCommit s false else s
  s.updMirror fun m => { m with en := false, pair := .off }

/-! ## Partner's command answers (R336) -/

/-- STATUS_MSG: a status record returns from the partner; it is passed on as it came. -/
def execStatusMsg (n : Nat) (s : State) : Answer :=
  .next (match takeControl s n 0xE with
    | (none, s) => s
    | (some m, s) => s.emit (.data (unitsLine m.body) false))

end Sys2Proof.Machine
end

