-- ==== Sys2Proof/Machine/Plans.lean ====
section
/-!
DEFINITION. Reading a plan and checking what step 2 and step 3 of R367 check: header, regions, leg lists, demand records,
waits, reservations (R350 to R357, R365, R368, R389, R414).
-/
namespace Sys2Proof.Machine

/-- A refusal found while booking: W3 with W0, W1 and W2 (R368). -/
structure BookFail where
  w3 : Nat
  w0 : Nat
  w1 : Nat
  w2 : Nat
  deriving DecidableEq, Repr

/-- The status of a refusal detail (R368, R389, R414). -/
def bookStatus (w3 : Nat) : Nat :=
  if w3 < 0x10 then 0x08 else if w3 < 0x20 then 0x0C else if w3 < 0x30 then 0x04 else 0x03

/-- What reading has met so far: host lines still to be asked for, and refusals. -/
structure Reader where
  ask : List Nat
  fails : List BookFail
  deriving DecidableEq, Repr

def Reader.fail (k : Reader) (w3 w0 w1 : Nat) : Reader := { k with fails := k.fails ++ [⟨w3, w0, w1, noWord⟩] }

/-- Note a refusal where a check does not hold. -/
def Reader.need (k : Reader) (ok : Bool) (w3 w0 w1 : Nat) : Reader := if ok then k else k.fail w3 w0 w1

/-- One line that booking reads, once it has come; none: still to come. A request at any DA is answered: one handled under
R5, in lost memory, or through a port that cannot read, with poison (R5, R221, R283). -/
def State.bookLine (s : State) (da : Nat) : Option (Line × Bool) := (s.dev.hubGot.find? fun e => e.1 = da).map Prod.snd

/-- Read n bytes at a DA for core w0 and leg w1; none where they have not come, or read as poison (W3 0x0004). -/
def State.bookRead (s : State) (k : Reader) (w0 w1 da n : Nat) : Option Nat × Reader :=
  let da := da % 2 ^ 48
  let ls := (lineDas da n).map fun l => (l, s.bookLine l)
  let missing := (ls.filter fun e => e.2.isNone).map Prod.fst
  let bad := ls.any fun e => match e.2 with
    | some v => v.2
    | none => false
  let k : Reader := { (k.need (!bad) 0x4 w0 w1) with ask := k.ask ++ missing.filter fun l => !k.ask.contains l }
  if bad || !missing.isEmpty then (none, k)
  else
    let bytes := ls.flatMap fun e => match e.2 with
      | some v => bytesOf 64 v.1.toNat
      | none => []
    (some (ofBytes ((bytes.drop (da % 64)).take n)), k)

/-- Entry i of a table of n-byte entries. -/
def tableEntry (w n i : Nat) : Nat := w / 2 ^ (8 * n * i) % 2 ^ (8 * n)

/-! ## Header and regions (R350, R352, R353) -/

def hdrLlda (h : BitVec 512) : Nat := fld h 511 464
def hdrRgda (h : BitVec 512) : Nat := fld h 463 416
def hdrRsda (h : BitVec 512) : Nat := fld h 415 368
def hdrWtda (h : BitVec 512) : Nat := fld h 367 320
def hdrNwait (h : BitVec 512) : Nat := fld h 319 304
def hdrNres (h : BitVec 512) : Nat := fld h 303 292
def hdrNreg (h : BitVec 512) : Nat := fld h 291 285
def hdrNcore (h : BitVec 512) : Nat := fld h 284 278
def hdrTiles (h : BitVec 512) : Nat := fld h 277 270
def hdrMirshare (h : BitVec 512) : Nat := fld h 269 259
def hdrStorein (h : BitVec 512) : Nat := fld h 258 248
def hdrHostlat (h : BitVec 512) : Nat := if fld h 247 228 = 0 then 2000 else fld h 247 228
def hdrPeerlat (h : BitVec 512) : Nat := if fld h 227 208 = 0 then 10000 else fld h 227 208
def hdrVersion (h : BitVec 512) : Nat := fld h 207 200

/-- A region entry (R352). -/
def regionOf (w : Nat) : Region :=
  { base := nfld w 127 80, len := nfld w 79 32, mirror := w.testBit 31, spill := w.testBit 30, hshared := w.testBit 29,
    zstart := w.testBit 28, run := if nfld w 27 26 = 3 then 0 else nfld w 27 26 }

/-- The region lies in stacked memory. -/
def Region.stacked (r : Region) : Bool := decide (r.base < 2 ^ 40)

/-- One region keeps the rules of R353. -/
def State.regionOk (s : State) (r : Region) : Bool :=
  let last := r.base + r.len - 1
  decide (r.len ≠ 0) && decide (last < 2 ^ 48) &&
    match s.kind r.base with
    | .stacked => !r.spill && decide (last < s.stackedTop) && (match s.windowOf r.base with
        | some w => decide (last < 2 ^ 30 * (w.base + w.size)) && decide ((r.base - 2 ^ 30 * w.base) % w.span = 0) &&
            decide (r.len % w.span = 0)
        | none => false)
    | .host _ _ => decide (r.base % 4096 = 0) && decide (r.len % 4096 = 0) && decide (r.base / 2 ^ 45 = last / 2 ^ 45) &&
        !(r.mirror || r.hshared || r.zstart)
    | .peer _ _ => decide (r.base % 4096 = 0) && decide (r.len % 4096 = 0) && decide (r.base / 2 ^ 34 = last / 2 ^ 34) &&
        !(r.mirror || r.hshared || r.zstart)
    | _ => false

/-- No region of a list overlaps a later one. -/
def disjointRegions : List Region → Bool
  | [] => true
  | r :: rs => rs.all (fun q => !overlaps r.base r.len q.base q.len) && disjointRegions rs

/-- The regions of a plan keep R353 together. -/
def State.regionsOk (s : State) (rs : List Region) : Bool :=
  rs.all s.regionOk && disjointRegions (rs.filter Region.stacked) &&
    decide ((rs.filter fun r => r.mirror).length ≤ 16)

/-! ## Legs (R162, R163, R351, R354) -/

/-- A demand entry (R354). -/
def demOf (w : Nat) : DemEnt :=
  { off := nfld w 255 208, len := nfld w 207 160, bytes := nfld w 159 96, region := nfld w 95 90, kind := nfld w 89 88 }

/-- The entry names a region of the plan and stays inside it. -/
def demOk (rs : List Region) (e : DemEnt) : Bool :=
  match rs[e.region]? with
  | some r => decide (e.off + e.len ≤ r.len)
  | none => false

/-- The implicit first phase of a leg: the preload of PLEN × 64 bytes from a region of the leg's read set, or from core
scratch (R354). The read is spread over the region, as the manual's worked example counts it (DEDUCED, log entry 40).
CYC is in quarters of a core cycle. None: the source lies in no such region. -/
def State.preloadPhase (s : State) (rs : List Region) (lh : BitVec 512) (rmask : BitVec 64) :
    Option (List (Nat × List DemEnt)) :=
  let n := min 131072 (fld lh 266 249)
  let src := fld lh 331 284
  if n = 0 then some []
  else match s.kind src with
    | .scratch _ _ => some [(n, [])]
    | _ => match (List.range rs.length).find? fun i => rmask.getLsbD i && (match rs[i]? with
        | some r => decide (r.base ≤ src) && decide (src + 64 * n ≤ r.base + r.len)
        | none => false) with
      | some i => some [(n, [{ off := 0, len := ((rs[i]?).map Region.len).getD 0, bytes := 64 * n, region := i, kind := 0 }])]
      | none => none

/-- The phases of a demand record from a DA on, at most `fuel` of them (R354). -/
def State.readPhases (s : State) (c l : Nat) : Nat → Nat → Reader → List (Nat × List DemEnt) × Reader
  | 0, _, k => ([], k)
  | fuel + 1, da, k =>
    match s.bookRead k c l da 16 with
    | (none, k) => ([], k)
    | (some w, k) =>
      let n := nfld w 63 48
      match s.bookRead k c l (da + 16) (32 * n) with
      | (none, k) => s.readPhases c l fuel (da + 16 + 32 * n) k
      | (some v, k) =>
        let r := s.readPhases c l fuel (da + 16 + 32 * n) k
        ((4 * nfld w 127 64, (List.range n).map fun i => demOf (tableEntry v 32 i)) :: r.1, r.2)

/-- Leg l of core c: its header at a DA of the leg list, its demand record (R163, R354, R365, R368). -/
def State.readLeg (s : State) (rs : List Region) (c l lda dda : Nat) (k : Reader) : LegPlan × Reader :=
  let h := s.bookRead k c l (lda + 64 * (l + 1)) 64
  let lh : BitVec 512 := BitVec.ofNat 512 (h.1.getD 0)
  let d := s.bookRead h.2 c l dda 32
  let rm : BitVec 64 := BitVec.ofNat 64 (nfld (d.1.getD 0) 255 192)
  let wm : BitVec 64 := BitVec.ofNat 64 (nfld (d.1.getD 0) 191 128)
  match d.1 with
  | some w =>
    let ph := s.readPhases c l (nfld w 79 64 + 1) (dda + 32) d.2
    let pre := s.preloadPhase rs lh rm
    let k := ph.2.need (decide ((rm ||| wm).toNat < 2 ^ rs.length)) 0x3 c l
    let k := k.need (ph.1.all fun p => p.2.all (demOk rs)) 0x3 c l
    let k := k.need (h.1.isNone || pre.isSome) 0x3 c l
    let k := k.need ((List.range rs.length).all fun i => !wm.getLsbD i || (match rs[i]? with
      | some r => r.stacked || r.spill
      | none => true)) 0x2 c l
    let k := k.need (decide (rm &&& wm = 0)) 0x22 c l
    ({ hdr := lh, rmask := rm, wmask := wm, phases := pre.getD [] ++ ph.1 }, k)
  | none => ({ hdr := lh, rmask := rm, wmask := wm, phases := [] }, d.2)

/-- The legs of core c from leg l on, given its list, the demand table as read and how many are left. -/
def State.readLegs (s : State) (rs : List Region) (c lda table : Nat) : Nat → Nat → Reader → List LegPlan × Reader
  | 0, _, k => ([], k)
  | n + 1, l, k =>
    let x := s.readLeg rs c l lda (tableEntry table 8 l % 2 ^ 48) k
    let r := s.readLegs rs c lda table n (l + 1) x.2
    (x.1 :: r.1, r.2)

/-- The legs of one logical core, from its leg-list entry (R162, R351). -/
def State.readCore (s : State) (rs : List Region) (c entry : Nat) (k : Reader) : List LegPlan × Reader :=
  let lda := nfld entry 47 0
  match s.bookRead k c noWord lda 64 with
  | (none, k) => ([], k)
  | (some ch, k) =>
    let n := nfld ch 79 64 + 1
    match s.bookRead k c noWord (nfld entry 111 64) (8 * n) with
    | (none, k) => ([], k)
    | (some table, k) => s.readLegs rs c lda table n 0 k

/-- The legs of every core of the plan. -/
def State.readCores (s : State) (rs : List Region) (table : Nat) : List Nat → Reader → List (Nat × List LegPlan) × Reader
  | [], k => ([], k)
  | c :: cs, k =>
    let x := s.readCore rs c (tableEntry table 16 c) k
    let r := s.readCores rs table cs x.2
    ((c, x.1) :: r.1, r.2)

/-! ## Waits and reservations (R355, R356) -/

/-- A wait entry (R355). -/
def waitOf (w : Nat) : WaitEnt :=
  { wcore := nfld w 127 121, wleg := nfld w 120 105, word := nfld w 104 89, dcore := nfld w 88 82, dleg := nfld w 81 66,
    host := w.testBit 65 }

/-- The plan has leg l of core c. A core whose list could not be read has no known legs and is passed over. -/
def hasLeg (legs : List (Nat × List LegPlan)) (c l : Nat) : Bool :=
  match legs.find? fun e => e.1 = c with
  | some e => decide (l < e.2.length) || e.2.isEmpty
  | none => false

/-- The entry names legs of the plan. -/
def waitOk (legs : List (Nat × List LegPlan)) (e : WaitEnt) : Bool :=
  hasLeg legs e.wcore e.wleg && (e.host || hasLeg legs e.dcore e.dleg)

/-- A reservation entry (R356). -/
def reserveOf (w : Nat) : Reserve :=
  { kind := nfld w 127 124, tile := nfld w 123 121, port := nfld w 120 119, link := nfld w 118 114, dir := nfld w 113 113,
    srclo := nfld w 112 101, srchi := nfld w 100 89, cfirst := nfld w 88 82, clast := nfld w 81 75, share := nfld w 74 64 }

/-- Keys of the resources: a vault, the bridge direction leaving tile w (8: the hub) through a port (of the hub: towards
that tile), a host-port direction, a link direction. -/
def vaultKey (t v : Nat) : Nat := 64 * t + v
def bridgeKey (w b : Nat) : Nat := 1024 + 8 * w + b
def hostPortKey (x d : Nat) : Nat := 2048 + 2 * x + d
def linkKey (n d : Nat) : Nat := 3072 + 2 * n + d

/-- The resources that an entry names; none: a reserved KIND, or something out of range (R356). -/
def State.resKeys (s : State) (e : Reserve) : Option (List Nat) :=
  let vaults := if s.tilePresent e.tile then some ((List.range 64).map (vaultKey e.tile)) else none
  match e.kind with
  | 0 => vaults
  | 1 =>
    if !s.tilePresent e.tile || !s.portPresent e.tile e.port then none
    else if e.dir = 0 then some [bridgeKey e.tile e.port]
    else match s.neighbour e.tile e.port with
      | some u => some [bridgeKey u (if e.port = 2 then 2 else 1 - e.port)]
      | none => some [bridgeKey 8 e.tile]
  | 2 => if e.port < 2 then some [hostPortKey e.port e.dir] else none
  | 3 => if s.populated e.link then some [linkKey e.link e.dir] else none
  | 4 => vaults
  | 5 => if s.populated e.link then some [linkKey e.link 0] else none
  | 6 => if e.port < 2 then vaults else none
  | _ => none

/-- The entry is in range; KIND 0x0 to 0x3 names cores of the plan. -/
def State.reserveOk (s : State) (ncore : Nat) (e : Reserve) : Bool :=
  (s.resKeys e).isSome && (decide (3 < e.kind) || (decide (e.cfirst ≤ e.clast) && decide (e.clast ≤ ncore)))

/-! ## The whole plan (step 2 of R367) -/

/-- The plan at a DA, with everything that reading it met. Every check of step 2 that what could be read allows is made;
without the region table no check that rests on a region is (R367, R368). -/
def State.readPlan (s : State) (da : Nat) : Plan × Reader :=
  let empty : Plan := { hdr := 0, lists := [], regions := [], reserves := [], waits := [], legs := [], deadlines := [],
                        stepBound := 0 }
  match s.bookRead { ask := [], fails := [] } noWord noWord da 64 with
  | (none, k) => (empty, k)
  | (some w, k) =>
    let h : BitVec 512 := BitVec.ofNat 512 w
    if hdrVersion h ≠ 1 ∨ 64 < hdrNreg h then ({ empty with hdr := h }, k.fail 0x1 noWord noWord)
    else
      let n := hdrNcore h + 1
      let ll := s.bookRead k noWord noWord (hdrLlda h) (16 * n)
      let rg := s.bookRead ll.2 noWord noWord (hdrRgda h) (16 * hdrNreg h)
      let rs := s.bookRead rg.2 noWord noWord (hdrRsda h) (16 * hdrNres h)
      let wt := s.bookRead rs.2 noWord noWord (hdrWtda h) (16 * hdrNwait h)
      let entries := fun (table : Option Nat) (count : Nat) => match table with
        | some v => (List.range count).map (tableEntry v 16)
        | none => []
      let regions := (entries rg.1 (hdrNreg h)).map regionOf
      let reserves := (entries rs.1 (hdrNres h)).map reserveOf
      let waits := (entries wt.1 (hdrNwait h)).map waitOf
      let legs := match ll.1 with
        | some lw => s.readCores regions lw (List.range n) wt.2
        | none => ((List.range n).map fun c => (c, []), wt.2)
      let k := if rg.1.isSome then legs.2 else { legs.2 with fails := legs.2.fails.filter fun f => decide (3 < f.w3) }
      let k := k.need (s.regionsOk regions) 0x2 noWord noWord
      let k := k.need (waits.all (waitOk legs.1)) 0x3 noWord noWord
      let k := k.need (reserves.all (s.reserveOk (hdrNcore h))) 0x3 noWord noWord
      let k := k.need (decide (s.mirror.storeLen = 0) ||
        regions.all fun r => !overlaps r.base r.len s.mirror.store.1 s.mirror.store.2) 0x24 noWord noWord
      ({ empty with
          hdr := h, lists := (entries ll.1 n).map fun e => nfld e 47 0
          regions := regions, reserves := reserves, waits := waits, legs := legs.1 }, k)

/-- The refusal that is reported: the lowest W3, then the lowest core, then the lowest leg (R368). -/
def lowestFail : List BookFail → Option BookFail
  | [] => none
  | f :: fs => match lowestFail fs with
    | none => some f
    | some g => if g.w3 < f.w3 ∨ (g.w3 = f.w3 ∧ (g.w0 < f.w0 ∨ (g.w0 = f.w0 ∧ g.w1 < f.w1))) then some g else some f

/-! ## What is usable (step 3 of R367) -/

/-- Cores of the plan that no usable core carries. -/
def State.uncarried (s : State) (p : Plan) : List Nat :=
  (List.range (hdrNcore p.hdr + 1)).filter fun l => !s.usableLogical.contains l

/-- A stacked region holds a line of a lost vault or of a tile that is not usable (R389). -/
def State.linesLost (s : State) (p : Plan) : Bool :=
  (p.regions.filter Region.stacked).any fun r => (lineDas r.base r.len).any fun l => match s.place l with
    | some q => !s.vaultUsable q.tile q.vault
    | none => true

/-- A usable tile is below its floor step or in Crimson, or L is below FLOORLIM (R414). -/
def State.belowFloor (s : State) : Bool :=
  (s.tileList.any fun t => s.tileUsable t &&
    (decide ((s.tile t).step < s.fuses.floorStep) || decide ((s.tile t).band = 3))) ||
    decide (s.power.limit < s.fuses.floorLim)

/-- The refusal of step 3, if any (R368, R389, R414). -/
def State.usableFail (s : State) (p : Plan) : Option BookFail :=
  match s.uncarried p with
  | c :: _ => some ⟨0x10, c, noWord, noWord⟩
  | [] =>
    if hdrTiles p.hdr &&& s.usableTileMask ≠ hdrTiles p.hdr then some ⟨0x10, noWord, noWord, noWord⟩
    else if s.linesLost p then some ⟨0x11, noWord, noWord, noWord⟩
    else none

end Sys2Proof.Machine
end

