-- ==== Sys2Proof/Machine/Booking.lean ====
section
/-!
DEFINITION. The admission check and the booking sequence: shares and sums, derated rates, worst cases, the timeline
(R357 to R366), the steps of R367 with what a refusal undoes, and UNBOOK (R370). Times are exact, in ns.
-/
namespace Sys2Proof.Machine

/-! ## Shares and sums (R356, R357) -/

/-- An entry reserves a share of the resource. -/
def State.names (s : State) (e : Reserve) (key : Nat) : Bool :=
  match s.resKeys e with
  | some ks => ks.contains key
  | none => false

/-- The share that core c holds on a resource (R356). -/
def State.shareOf (s : State) (p : Plan) (c key : Nat) : Nat :=
  ((p.reserves.filter fun e => decide (e.kind ≤ 3) && decide (e.cfirst ≤ c) && decide (c ≤ e.clast) && s.names e key).map
    Reserve.share).foldl (· + ·) 0

/-- What an entry adds to the sum of a resource it names (R357). -/
def Reserve.amount (e : Reserve) : Nat := if e.kind ≤ 3 then e.share * (e.clast + 1 - e.cfirst) else e.share

/-- The bridge directions among the crossings of a path. -/
def bridgesOf (path : List Nat) : List Nat :=
  path.filterMap fun k => if 200 ≤ k % 256 ∧ k % 256 < 204 then some (bridgeKey (k / 256) (k % 256 - 200)) else none

/-- The bridge directions from tile t to tile u (R198). -/
def State.bridgesTo (s : State) (t u : Nat) : List Nat := bridgesOf ((s.meshPath u 8 t).getD [])

/-- Bytes of a DA range on each vault, by 64 × tile + vault, as the active windows place its lines (R215, R361). -/
def State.vaultBytes (s : State) (da n : Nat) : List (Nat × Nat) :=
  (rangeLines da n).foldl (fun (acc : List (Nat × Nat)) (e : Nat × BitVec 64) => match s.place e.1 with
    | some q =>
      let lo := max da e.1
      let hi := min (da + n) (e.1 + 64)
      tput acc (vaultKey q.tile q.vault) (tget 0 acc (vaultKey q.tile q.vault) + (hi - lo))
    | none => acc) []

/-- Tiles that hold a line of the ranges. -/
def State.tilesOf (s : State) (rs : List (Nat × Nat)) : List Nat :=
  s.tileList.filter fun t => rs.any fun r => (s.vaultBytes r.1 r.2).any fun e => e.1 / 64 = t

/-- The mirror regions of a plan, in declaration order (R341). -/
def Plan.mirrorMap (p : Plan) : List (Nat × Nat) := (p.regions.filter fun r => r.mirror).map fun r => (r.base, r.len)

/-- Resources that mirror traffic takes with MIRSHARE: the mirror links outward, and the bridges towards them (R357). -/
def State.mirrorKeys (s : State) (p : Plan) : List Nat :=
  if p.mirrorMap.isEmpty then []
  else
    let ls := s.mirrorMask
    ls.map (fun n => linkKey n 0) ++
      (s.tilesOf p.mirrorMap).flatMap fun t => ls.flatMap fun n => s.bridgesTo t (engineTile s.fuses.part (n / 4))

/-- Resources that the partner's mirror traffic takes with STOREIN: the store's vaults, the mirror links inward, and the
bridges from them (R357). -/
def State.storeKeys (s : State) : List Nat :=
  if s.mirror.en && decide (s.mirror.storeLen ≠ 0) then
    let st := s.mirror.store
    let ls := s.mirrorMask
    (s.vaultBytes st.1 st.2).map Prod.fst ++ ls.map (fun n => linkKey n 1) ++
      (s.tilesOf [st]).flatMap fun t => ls.flatMap fun n => s.bridgesTo (engineTile s.fuses.part (n / 4)) t
  else []

/-- The sum of R357 for a resource. -/
def State.sumOf (s : State) (p : Plan) (key : Nat) : Nat :=
  ((p.reserves.filter fun e => s.names e key).map Reserve.amount).foldl (· + ·) 0 +
    (if (s.mirrorKeys p).contains key then hdrMirshare p.hdr else 0) +
    (if s.storeKeys.contains key then hdrStorein p.hdr else 0)

/-- The resources that anything names. -/
def State.namedKeys (s : State) (p : Plan) : List Nat :=
  p.reserves.flatMap (fun e => (s.resKeys e).getD []) ++ s.mirrorKeys p ++ s.storeKeys

/-- The first entry that names a resource; 0xFFFF_FFFF: none. -/
def State.firstEntry (s : State) (p : Plan) (key : Nat) : Nat :=
  (p.reserves.findIdx? fun e => s.names e key).getD noWord

/-- A sum exceeds 1,024 (W3 0x0020): the first reservation entry that names such a resource. -/
def State.sumFail (s : State) (p : Plan) : Option BookFail :=
  match ((s.namedKeys p).filter fun k => decide (1024 < s.sumOf p k)).map (s.firstEntry p) with
  | [] => none
  | i :: is => some ⟨0x20, noWord, is.foldl min i, noWord⟩

/-! ## Guaranteed rates (R359, R360), in bytes per ns -/

/-- The guaranteed rate of a vault by RUN (R359). -/
def vaultRate (run : Nat) : Rat := if run = 1 then 731 / 10 else if run = 2 then 232 else 183 / 10

/-- The part of a vault's time that booking leaves (R360), with THRESH of R231 and INTERVAL of R253. -/
def Vault.factor (v : Vault) : Rat :=
  let th := max 64 v.thresh.toNat
  let iv := v.interval.toNat
  let scrub : Rat := if iv = 0 then 0 else 8 / (max 256 iv : Nat)
  1 - 614 / 10000 - 4 / th - scrub

/-- The derated rate of vault key (64 × tile + vault) for a RUN. -/
def State.derated (s : State) (run key : Nat) : Rat := vaultRate run * (s.vault (key / 64) (key % 64)).factor

/-- Transfer rate of a RATE code, in GT/s (R296). -/
def gts (rate : Nat) : Rat := nth [0, 5 / 2, 5, 8, 16, 32, 64] rate 0

/-- The rate a host port grants at the width and rate trained (R359); 0 while it is down. -/
def State.portRate (s : State) (x : Nat) : Rat :=
  let p := s.port x
  let full : Rat := if p.cxlCache then 1008 / 10 else 756 / 10
  if p.up then full * (p.width / 16) * (gts p.rate / 64) else 0

/-- The rate of a bridge direction, and of a device link by RUN (R359). -/
def bridgeRate : Rat := 7200
def linkRate (run : Nat) : Rat := if run = 2 then 4634 / 10 else 3765 / 10

/-! ## What a leg touches (R361, R362) -/

/-- What the demand of a phase comes to: time needed on each resource, a resource without a share touched, the largest
latency; and for the whole leg: stacked memory touched, host ports and links used. -/
structure Work where
  need : List (Nat × Rat)
  bad : Bool
  lat : Rat
  stk : Bool
  ports : List Nat
  links : List Nat

def Work.none : Work := { need := [], bad := false, lat := 0, stk := false, ports := [], links := [] }

/-- Add a latency that applies. -/
def Work.latency (w : Work) (l : Rat) : Work := { w with lat := max w.lat l }

/-- Bytes on a resource of rate g at a share of it (R361). -/
def Work.chargeAt (w : Work) (sh key : Nat) (bytes g : Rat) : Work :=
  if bytes ≤ 0 then w
  else if sh = 0 ∨ g ≤ 0 then { w with bad := true }
  else { w with need := (key, bytes * 1024 / (sh * g)) :: w.need }

/-- Bytes of core c on a resource of rate g, at its share of it (R361). -/
def State.charge (s : State) (p : Plan) (c key : Nat) (bytes g : Rat) (w : Work) : Work :=
  w.chargeAt (s.shareOf p c key) key bytes g

/-- Key of a resource as mirror writes use it, at MIRSHARE (R360). -/
def mirrorKey (key : Nat) : Nat := 4096 + key

/-- Mirror writes of bytes written into a mirror region, by 64 × tile + vault: × 80/64, in equal parts on the mirror links
that are up, on each link and on the bridges to its tile, at MIRSHARE (R342, R357, R360). -/
def State.chargeMirror (s : State) (p : Plan) (vs : List (Nat × Nat)) (per : Rat) (w : Work) : Work :=
  let ls := s.mirrorUp
  let sh := hdrMirshare p.hdr
  vs.foldl (fun w e =>
    let part : Rat := per * e.2 * 80 / 64 / ls.length
    ls.foldl (fun (w : Work) n =>
      let w := w.chargeAt sh (mirrorKey (linkKey n 0)) part (linkRate 0)
      (s.bridgesTo (e.1 / 64) (engineTile s.fuses.part (n / 4))).foldl
        (fun (w : Work) k => w.chargeAt sh (mirrorKey k) part bridgeRate) w) w) w

/-- Bytes over several resources of one rate. -/
def State.chargeAll (s : State) (p : Plan) (c : Nat) (keys : List Nat) (bytes g : Rat) (w : Work) : Work :=
  keys.foldl (fun w k => s.charge p c k bytes g w) w

/-- Bytes of vaults charged to core c: at each vault, and on the bridges between the core's tile and each vault's tile in
the direction in which the data flows. `vw` and `ow` are the weights at the vault and elsewhere (R360). -/
def State.chargeVaults (s : State) (p : Plan) (c run : Nat) (wr : Bool) (vs : List (Nat × Nat)) (per vw ow : Rat) (w : Work) :
    Work :=
  vs.foldl (fun w e =>
    let t := e.1 / 64
    let w := s.charge p c e.1 (per * e.2 * vw) (s.derated run e.1) w
    s.chargeAll p c (if wr then s.bridgesTo (c / 16) t else s.bridgesTo t (c / 16)) (per * e.2 * ow) bridgeRate w) w

/-- Latency of stacked memory for core c: 100 ns, 80 ns a hop to another tile, 100 ns more where host-shared (R362). -/
def State.stackLat (s : State) (c : Nat) (hs : Bool) (vs : List (Nat × Nat)) : Rat :=
  (vs.map fun e => (100 + 80 * (s.bridgesTo (c / 16) (e.1 / 64)).length + (if hs then 100 else 0) : Rat)).foldl max 0

/-- The lines of a peer-window range whose destination is local, through the export table (R338): bytes by vault. -/
def State.exportBytes (s : State) (addr n : Nat) (wr : Bool) : List (Nat × Nat) :=
  (rangeLines addr n).foldl (fun (acc : List (Nat × Nat)) (e : Nat × BitVec 64) =>
    match (s.exported s.dev.devid.toNat e.1 (if wr then .write else .read)).bind s.place with
    | some q =>
      let lo := max addr e.1
      let hi := min (addr + n) (e.1 + 64)
      tput acc (vaultKey q.tile q.vault) (tget 0 acc (vaultKey q.tile q.vault) + (hi - lo))
    | none => acc) []

/-- Core c touches a sub-range of n bytes at a DA, moving some bytes of it, under a RUN; `hs`: host-shared, `mir`: in the
mirror set (R361, R362). -/
def State.touch (s : State) (p : Plan) (c run : Nat) (hs mir : Bool) (da n bytes kind : Nat) (w : Work) : Work :=
  let wr := decide (kind = 1 ∨ kind = 2)
  let ow : Rat := if kind = 3 then 2 else 1
  let vw : Rat := if kind = 2 ∨ kind = 3 then 2 else 1
  let per : Rat := if n = 0 then 0 else bytes / n
  match s.kind da with
  | .stacked =>
    let vs := s.vaultBytes da (max 1 n)
    let w := (s.chargeVaults p c run wr vs per vw ow w).latency (s.stackLat c hs vs)
    let w := if wr && mir then s.chargeMirror p vs per w else w
    { w with stk := true }
  | .host x _ =>
    let w := s.charge p c (hostPortKey x (if wr then 0 else 1)) (bytes * ow) (s.portRate x) w
    let path := if wr then s.path (.core (17 * (c / 16))) (.hostPort x) else s.path (.hostPort x) (.core (17 * (c / 16)))
    let w := (s.chargeAll p c (bridgesOf (path.getD [])) (bytes * ow) bridgeRate w).latency (hdrHostlat p.hdr + 1000)
    { w with ports := insertNat x w.ports }
  | .peer dst addr =>
    let w := w.latency (hdrPeerlat p.hdr)
    (match s.route dst with
      | .unreachable => { w with bad := true }
      | .here => { s.chargeVaults p c run wr (s.exportBytes addr n wr) per vw ow w with stk := true }
      | .links ls =>
        let part : Rat := bytes * ow / ls.length
        ls.foldl (fun (w : Work) n =>
          let e := engineTile s.fuses.part (n / 4)
          let w := s.charge p c (linkKey n (if wr then 0 else 1)) part (linkRate run) w
          let w := s.chargeAll p c (if wr then s.bridgesTo (c / 16) e else s.bridgesTo e (c / 16)) part bridgeRate w
          { w with links := insertNat n w.links }) w)
  | _ => w

/-- A demand entry of core c. -/
def State.touchEntry (s : State) (p : Plan) (c : Nat) (w : Work) (e : DemEnt) : Work :=
  match p.regions[e.region]? with
  | some r => s.touch p c r.run r.hshared r.mirror (r.base + e.off) e.len e.bytes e.kind w
  | none => w

/-- Time needed on one resource over the entries of a phase. -/
def needOf (l : List (Nat × Rat)) (key : Nat) : Rat := ((l.filter fun e => e.1 = key).map Prod.snd).foldl (· + ·) 0

/-- PM_FLOORCLK in core cycles per ns (R359). -/
def State.floorHz (s : State) : Rat := s.fuses.floorClk / 1000

/-- One phase: its time with latency, and the leg's work so far (R361). -/
def State.phaseTime (s : State) (p : Plan) (c : Nat) (w : Work) (ph : Nat × List DemEnt) : Rat × Work :=
  let w := ph.2.foldl (s.touchEntry p c) { w with need := [], lat := 0 }
  let cyc : Rat := ph.1 / 4 / s.floorHz
  ((w.need.map fun e => needOf w.need e.1).foldl max cyc + w.lat, w)

/-- The completion flag's DA of a leg header (R163). -/
def flagDa (lh : BitVec 512) : Nat := fld lh 447 400 / 4 * 4

/-- A region of the plan that holds a DA is host-shared. -/
def Plan.sharedAt (p : Plan) (da : Nat) : Bool :=
  p.regions.any fun r => r.hshared && decide (r.base ≤ da) && decide (da < r.base + r.len)

/-- Host-shared lines that a leg accesses (R360): those of its demand entries' sub-ranges that move bytes, PLEN of a
preload, and its flag's. -/
def Plan.sharedLines (p : Plan) (lp : LegPlan) : Nat :=
  let plen := min 131072 (fld lp.hdr 266 249)
  let shared := fun (e : DemEnt) => match p.regions[e.region]? with
    | some r => r.hshared
    | none => false
  let linesOf := fun (e : DemEnt) => match p.regions[e.region]? with
    | some r => if e.bytes = 0 then 0 else (lineDas (r.base + e.off) (max 1 e.len)).length
    | none => 0
  let rest := if plen = 0 then lp.phases else lp.phases.drop 1
  let pre := if plen ≠ 0 ∧ ((lp.phases.take 1).flatMap Prod.snd).any shared then plen else 0
  pre + (((rest.flatMap Prod.snd).filter shared).map linesOf).foldl (· + ·) 0 + b2n (p.sharedAt (flagDa lp.hdr))

/-- The larger of the two ports' back-invalidation bounds, in ns (R296, R360). -/
def State.biBoundNs (s : State) : Nat := 1000 * max 1 (max (s.port 0).biBound.toNat (s.port 1).biBound.toNat)

/-- The worst case of a leg in ns; none: it touches a resource on which its core holds no share (R361, R364). -/
def State.worst (s : State) (p : Plan) (c : Nat) (lp : LegPlan) : Option Rat :=
  let f := s.floorHz
  let r := lp.phases.foldl (fun (a : Rat × Work) ph => let x := s.phaseTime p c a.2 ph; (a.1 + x.1, x.2)) (16 / f, Work.none)
  let da := flagDa lp.hdr
  let w := s.touch p c 0 (p.sharedAt da) false da 4 4 1 { r.2 with need := [], lat := 0 }
  let allow : Rat := (if w.stk then 1600 else 0) + 32000 * w.ports.length + 1200 * w.links.length +
    s.biBoundNs * ((p.sharedLines lp + 255) / 256 : Nat)
  if w.bad then none else some (r.1 + 4 / f + w.lat + allow)

/-! ## Timeline (R363) -/

/-- Legs by core and leg. -/
def Plan.legList (p : Plan) : List (Nat × Nat × LegPlan) :=
  p.legs.flatMap fun e => e.2.zipIdx.map fun x => (e.1, x.2, x.1)

/-- A finishing time already placed. -/
def finOf (l : List ((Nat × Nat) × Rat)) (c k : Nat) : Option Rat := (l.find? fun e => e.1 = (c, k)).map Prod.snd

/-- The legs that the waits of (c, k) name. -/
def Plan.waitsOn (p : Plan) (c k : Nat) : List (Nat × Nat) :=
  (p.waits.filter fun e => !e.host && decide (e.wcore = c) && decide (e.wleg = k)).map fun e => (e.dcore, e.dleg)

/-- Place every leg whose predecessors are placed. -/
def Plan.placeRound (p : Plan) (wc : List ((Nat × Nat) × Rat)) (fin : List ((Nat × Nat) × Rat)) : List ((Nat × Nat) × Rat) :=
  wc.foldl (fun fin e =>
    let c := e.1.1
    let k := e.1.2
    let prev : Option Rat := if k = 0 then some 0 else finOf fin c (k - 1)
    match finOf fin c k, prev with
    | none, some st =>
      let rel := (p.waitsOn c k).map fun d => finOf fin d.1 d.2
      if rel.all (·.isSome) then fin ++ [(e.1, (rel.map fun x => x.getD 0).foldl max st + e.2)] else fin
    | _, _ => fin) fin

/-- Every leg that can be placed, after as many rounds as there are legs. -/
def Plan.timeline (p : Plan) (wc : List ((Nat × Nat) × Rat)) : List ((Nat × Nat) × Rat) :=
  wc.foldl (fun fin _ => p.placeRound wc fin) []

/-- A time in whole ns, rounded up, as a status word carries it. -/
def ceilNs (x : Rat) : Nat := x.ceil.toNat

/-- The deadline of the wait that an entry declares; none where the host alone releases it (R363). -/
def Plan.deadlineOf (p : Plan) (fin : List ((Nat × Nat) × Rat)) (e : WaitEnt) : Option Nat :=
  match (p.waits.filter fun f => !f.host && decide (f.wcore = e.wcore) && decide (f.wleg = e.wleg) && decide (f.word = e.word)).map
      fun f => (finOf fin f.dcore f.dleg).getD 0 with
  | [] => none
  | x :: xs => some (ceilNs (5000 + xs.foldl max x))

/-! ## Step 7 of R367 (R364) -/

/-- Longest time over the vaults to rewrite the ZSTART regions, in ns (R364). -/
def State.zstartTime (s : State) (p : Plan) : Rat :=
  let parts := (p.regions.filter fun r => r.zstart).flatMap fun r =>
    (s.vaultBytes r.base r.len).map fun e => (e.1, (e.2 : Rat) / s.derated r.run e.1)
  (parts.map fun e => needOf parts e.1).foldl max 0

/-- Host-shared regions without KIND 0x6 on a tile that they touch (R357). -/
def State.sharedUnreserved (s : State) (p : Plan) : Bool :=
  (s.tilesOf ((p.regions.filter fun r => r.hshared).map fun r => (r.base, r.len))).any fun t =>
    !(p.reserves.any fun e => decide (e.kind = 6) && decide (e.tile = t))

/-- The refusals of step 7, and with none the plan with its deadlines and step bound (R363, R364, R368). -/
def State.admission (s : State) (p : Plan) : List BookFail × Plan :=
  let ws := p.legList.map fun e => (e.1, e.2.1, e.2.2, s.worst p e.1 e.2.2)
  let noShare := (ws.filter fun e => e.2.2.2.isNone).map fun e => (⟨0x21, e.1, e.2.1, noWord⟩ : BookFail)
  let wc := ws.map fun e => ((e.1, e.2.1), e.2.2.2.getD 0)
  let fin := p.timeline wc
  let bound := fun (lp : LegPlan) => fld lp.hdr 511 480
  let late := ws.filterMap fun e => match e.2.2.2 with
    | some x => if (bound e.2.2.1 : Rat) < x then some (⟨0x30, e.1, e.2.1, ceilNs x⟩ : BookFail) else none
    | none => none
  let long' := ws.filterMap fun e => if 2000000 < bound e.2.2.1 then
    some (⟨0x31, e.1, e.2.1, ceilNs (e.2.2.2.getD 0)⟩ : BookFail) else none
  let stuck := wc.filterMap fun e => if (finOf fin e.1.1 e.1.2).isNone then
    some (⟨0x32, e.1.1, e.1.2, ceilNs e.2⟩ : BookFail) else none
  let fails := (s.sumFail p).toList ++ noShare ++
    (if s.sharedUnreserved p then [⟨0x21, noWord, noWord, noWord⟩] else []) ++
    (if 800000 < s.zstartTime p then [⟨0x25, noWord, noWord, noWord⟩] else []) ++ late ++ long' ++ stuck
  (fails, { p with
    deadlines := p.waits.map (p.deadlineOf fin), stepBound := ceilNs (137000 + (fin.map Prod.snd).foldl max 0) })

/-! ## Translations (R284, R285) -/

/-- Pages that port x has no translation for, where it translates. -/
def State.untranslated (s : State) (p : Plan) (x : Nat) : List (BitVec 45) :=
  if (s.port x).atsEn then (p.hostPages x).filter fun a => ((s.port x).translation a.toNat).isNone else []

/-- Every translation that the plan needs is there. -/
def State.translated (s : State) (p : Plan) : Bool := [0, 1].all fun x => (s.untranslated p x).isEmpty

/-- Every port whose translations the plan lacks can ask for them (R284). -/
def State.canTranslate (s : State) (p : Plan) : Bool := [0, 1].all fun x => (s.untranslated p x).isEmpty || (s.port x).live

/-- Ask for the translations that are missing. -/
def askPages (s : State) (p : Plan) : State :=
  forEach [0, 1] s fun s x => forEach (s.untranslated p x) s fun s a => askPage s x a

/-- Lock the translations of the plan's pages. -/
def lockPages (s : State) (p : Plan) : State :=
  forEach [0, 1] s fun s x =>
    if (s.port x).atsEn then
      s.updPort x fun q => { q with
        atc := q.atc.map fun e => if (p.hostPages x).any fun a => decide (e.page.toNat ≤ a.toNat) &&
          decide (a.toNat < e.page.toNat + 2 ^ e.log2) then { e with locked := true } else e }
    else s

/-- More than 1,024 entries of a port are locked. -/
def State.overLocked (s : State) : Bool := [0, 1].any fun x => decide (1024 < ((s.port x).atc.filter fun e => e.locked).length)

/-- Locked translations are released (R284, R370). -/
def unlockPages (s : State) : State :=
  forEach [0, 1] s fun s x => s.updPort x fun q => { q with atc := q.atc.map fun e => { e with locked := false } }

/-! ## The booking sequence (R367) -/

/-- The stacked regions that are fenced (R293). -/
def Plan.fenced (p : Plan) : List (Nat × Nat) :=
  (p.regions.filter fun r => r.stacked && !r.hshared).map fun r => (r.base, r.len)

/-- The BOOK in progress moves on to a stage: 0 reading, 1 translations asked for, 2 recalls under way, 3 MIRMAP sent,
4 everything there. -/
def atStage (s : State) (n : Nat) : State := s.updDev fun d => { d with long := d.long.map fun l => { l with w1 := n } }

/-- Send MIRMAP with the plan's mirror map; a map that differs starts with every granule pending (R341, R342). -/
def sendMirmap (s : State) (map : List (Nat × Nat)) : State :=
  let m := s.mirror
  let s := s.updDev fun d => { d with bookOld := some (m.map, m.w, m.p) }
  let s := s.updMirror fun m =>
    let m := if m.map = map then m else
      let m := { m with map := map, w := [], copied := [] }
      { m with p := m.allGranules }
    { m with mapWait := true, mapAnswer := none }
  sendToPartner s m.partner.toNat 0xB (m.committed + 1) 0 (mapUnits map)

/-- Step 5 and what follows it: the regions are fenced once every recall is answered and no host holds a line (R293). -/
def bookRecalled (s : State) (p : Plan) : State :=
  let r := recallAgain s p.fenced
  let s := if r.2 then r.1.updDev fun d => { d with fences := p.fenced } else r.1
  if !r.2 then s
  else if p.mirrorMap.isEmpty then atStage s 4
  else if s.mirror.pair = .active then atStage (sendMirmap s p.mirrorMap) 3
  else s

/-- Step 4 and what follows it, once every translation is there. -/
def bookTranslated (s : State) (p : Plan) : State :=
  if !s.translated p then askPages s p
  else
    let s := lockPages s p
    if s.overLocked then s
    else
      let s := forEach p.fenced s fun s r => recallRange s r.1 r.2
      bookRecalled (atStage s 2) p

/-- A BOOK in progress goes as far as it can: it asks for host lines it has not read, then for translations, recalls the
regions, sends MIRMAP. A step that fails stays where it is; BOOK_COMPLETE reports it (R367). -/
def bookAdvance (s : State) : State :=
  match s.dev.long with
  | none => s
  | some l =>
    if pktOpc l.pkt ≠ 0x08 then s
    else match l.w1, s.dev.plan with
      | 0, _ =>
        let r := s.readPlan (pktP0 l.pkt)
        if !r.2.ask.isEmpty then
          let new := r.2.ask.filter fun a => !s.dev.hubAsk.contains a
          forEach new (s.updDev fun d => { d with hubAsk := d.hubAsk ++ new }) fun s a =>
            issue s (.hub s.dev.hubOp false) .read a fullMask 0 false 0
        else if !r.2.fails.isEmpty || (s.usableFail r.1).isSome || s.belowFloor then s
        else bookTranslated (atStage (s.updDev fun d => { d with plan := some r.1 }) 1) r.1
      | 1, some p => if l.w0 = 1 then s else bookTranslated s p
      | 2, some p => bookRecalled s p
      | 3, some _ => if s.mirror.mapAnswer = some 0 then atStage s 4 else s
      | _, _ => s

/-- The refusal that a BOOK in progress has met, if any; a loss comes first (R368, R395). -/
def State.bookRefusal (s : State) (l : Long) : Option BookFail :=
  match s.dev.bookLoss with
  | some w => some ⟨w, noWord, noWord, noWord⟩
  | none =>
  match l.w1, s.dev.plan with
  | 0, _ =>
    let r := s.readPlan (pktP0 l.pkt)
    if !r.2.ask.isEmpty then none
    else match lowestFail r.2.fails with
      | some f => some f
      | none => match s.usableFail r.1 with
        | some f => some f
        | none => if s.belowFloor then some ⟨0x26, noWord, noWord, noWord⟩ else none
  | n, some p => match s.usableFail p with
    | some f => some f
    | none =>
      if n = 1 then (if l.w0 = 1 ∨ !s.canTranslate p ∨ (lockPages s p).overLocked then some ⟨0x23, noWord, noWord, noWord⟩ else none)
      else if n = 2 then (if (recallAgain s p.fenced).2 && !p.mirrorMap.isEmpty &&
        decide (s.mirror.pair ≠ .active) then some ⟨0x24, noWord, noWord, noWord⟩ else none)
      else if n = 3 then (match s.mirror.mapAnswer with
        | some r => if r = 0 then none else some ⟨0x24, noWord, noWord, noWord⟩
        | none => none)
      else lowestFail (s.admission p).1
  | _, none => none

/-- Everything that booking did is undone: locks, fences, the partner's map (R367). -/
def bookUndo (s : State) : State :=
  let s := unlockPages s
  let s := match s.dev.bookOld with
    | none => s
    | some (m, w, p) =>
      let sent := decide (s.mirror.map ≠ m) && decide (s.mirror.mapAnswer ≠ some 2)
      let s := s.updMirror fun k =>
        let k := { k with map := m, w := if sent then [] else w, p := p, copied := if sent then [] else k.copied, mapWait := false, mapAnswer := none }
        if sent then { k with p := k.allGranules } else k
      if sent && !m.isEmpty then sendToPartner s s.mirror.partner.toNat 0xB (s.mirror.committed + 1) 0 (mapUnits m) else s
  s.updDev fun d => { d with plan := none, fences := [], bookOld := none, bookLoss := none }

/-- The lines of the stacked regions in any leg's write set. -/
def State.writtenPlaces (s : State) (p : Plan) : List Place :=
  let wm : BitVec 64 := p.legList.foldl (fun w e => w ||| e.2.2.wmask) 0
  let rs := p.regions.zipIdx.filter fun e => e.1.stacked && wm.getLsbD e.2
  (rs.flatMap fun e => lineDas e.1.base e.1.len).filterMap s.place

/-- The zero code words of step 8 can be written now (R245). -/
def State.fillReady (s : State) (p : Plan) : Bool :=
  (s.writtenPlaces p).all fun q => s.granuleValid q.tile (s.granuleOf q) || s.granuleFree q.tile (s.granuleOf q)

/-- Step 8: every invalid granule of the stacked regions in any leg's write set is made valid (R367, R245). -/
def fillWritten (s : State) (p : Plan) : State :=
  forEach (s.writtenPlaces p) s fun s q =>
    if s.granuleValid q.tile (s.granuleOf q) then s else fillGranule s q.tile (s.granuleOf q)

/-- No core island of the booked device runs below its least clock (R373). -/
def raiseClocks (s : State) : State :=
  forEach (s.tileList.filter s.tileUsable) s fun s t => s.updTile t fun x =>
    { x with clk := max (s.leastClock x) x.clk, newClk := x.newClk.map (max (s.leastClock x)) }

/-- Step 9: scratch valid and poison bits cleared, the rates of the host ports noted, the step number 0, BOOKED entered
with no core below PM_FLOORCLK (R367, R373, R374). -/
def enterBooked (s : State) (p : Plan) : State :=
  let s := forEach (s.cores.map Prod.fst) s fun s c => s.updCore c fun k => { k with valid := [], poison := [] }
  let s := forEach [0, 1] s fun s x => s.updPort x fun q => { q with bookWidth := q.width, bookRate := q.rate }
  raiseClocks ((s.updDev fun d => { d with plan := some p, step := 0, bookOld := none }).enter .booked)

/-- UNBOOK (R370): locks and fences go; the device returns to its idle state. -/
def unbookPlan (s : State) : State :=
  ((unlockPages s).updDev fun d => { d with plan := none, fences := [] }).enter s.idleState

end Sys2Proof.Machine
end

