-- ==== Sys2Proof/Machine/CoreOps.lean ====
section
/-!
DEFINITION. What the engines of a core share: its scratch with valid and poison bits (R128, R167, R255, R256), command
queues with the hold buffer (R172), waits and signals on semaphores (R72, R177 to R180), flags (R125).
-/
namespace Sys2Proof.Machine

/-! ## Scratch -/

/-- Address of a scratch byte in `State.scratch`, modulo 8 MiB. -/
def scrKey (c off : Nat) : Nat := 2 ^ 23 * c + off % 2 ^ 23

/-- A byte of scratch as stored: 0 in a line whose valid bit is 0 (R167). -/
def scrByte (mem : List Host.Cell) (valid : List Nat) (c off : Nat) : Byte :=
  if valid.contains (off % 2 ^ 23 / 64) then memGet mem (scrKey c off) else 0

/-- A byte as an engine reads it: 0xFF in a poisoned line (R255). -/
def engByte (mem : List Host.Cell) (valid poison : List Nat) (c off : Nat) : Byte :=
  if poison.contains (off % 2 ^ 23 / 64) then 0xFF else scrByte mem valid c off

/-- n bytes of scratch as stored. -/
def State.scrBytes (s : State) (c off n : Nat) : List Byte :=
  (List.range n).map fun i => scrByte s.scratch (s.core c).valid c (off + i)

/-- n bytes of scratch as an engine reads them. -/
def State.engBytes (s : State) (c off n : Nat) : List Byte :=
  (List.range n).map fun i => engByte s.scratch (s.core c).valid (s.core c).poison c (off + i)

/-- The first poisoned line among n bytes from off. -/
def State.scrPoison (s : State) (c off n : Nat) : Option Nat :=
  if n = 0 then none
  else ((List.range ((off + n - 1) / 64 - off / 64 + 1)).map fun i => (off / 64 + i) % 131072).find? fun l =>
    (s.core c).poison.contains l

/-- Masked bytes of one scratch line written: an invalid line is zero-filled first and its bit set; a write of the
whole line clears its poison bit, a narrower one leaves it, a poisoned write sets it (R167, R256). -/
def scrWriteLine (s : State) (c line : Nat) (mask : BitVec 64) (data : Line) (poison : Bool) : State :=
  if mask = 0 then s
  else
    let k := s.core c
    let a := scrKey c (64 * line)
    let m := if k.valid.contains line then s.scratch else memClear s.scratch a 64
    let k := { k with
      valid := insertNat line k.valid,
      poison := if poison then insertNat line k.poison
        else if mask = fullMask then dropNat line k.poison else k.poison }
    { s with scratch := memWriteMasked m a mask.toNat (bytesOf 64 data.toNat) }.setCore c k

/-- Bytes written into scratch from an offset on, addresses modulo 8 MiB. -/
def scrWrite (s : State) (c off : Nat) (bytes : List Byte) : State :=
  forEach (rangeLines off bytes.length) s fun s (l, m) =>
    let d : Line := if l < off then BitVec.ofNat 512 (ofBytes (bytes.take (l + 64 - off)) * 2 ^ (8 * (off - l)))
      else lineOf ((bytes.drop (l - off)).take 64)
    scrWriteLine s c (l / 64 % 131072) m d false

/-- A line as an engine reads it. -/
def State.engLine (s : State) (c line : Nat) : Line := lineOf (s.engBytes c (64 * line) 64)

/-- The MMAs of the core keep what a write of another engine to a line left, its bytes in `mask`, or the whole line where
it is poisoned (R61, R255). -/
def noteWrite (s : State) (c line : Nat) (mask : BitVec 64) : State :=
  let k := s.core c
  let p := k.poison.contains line
  let wr : WinWr := { line, mask := if p then fullMask else mask, data := s.engLine c line, poison := p }
  if k.mx.mmas.isEmpty then s
  else s.updMx c fun x => { x with mmas := x.mmas.map fun m => { m with writes := m.writes ++ [wr] } }

/-- A line written by an engine other than the matrix engine: the MMAs that are reading may see it (R61). -/
def scrPutLine (s : State) (c line : Nat) (mask : BitVec 64) (data : Line) (poison : Bool) : State :=
  noteWrite (scrWriteLine s c line mask data poison) c line mask

/-- Bytes written by an engine other than the matrix engine. -/
def scrPut (s : State) (c off : Nat) (bytes : List Byte) : State :=
  forEach (rangeLines off bytes.length) (scrWrite s c off bytes) fun s (l, m) => noteWrite s c (l / 64 % 131072) m

/-- DA of a scratch line of core c, as records name it. -/
def scrDa (c line : Nat) : Nat := 2 ^ 40 + 2 ^ 23 * c + 64 * line

/-! ## Records of a core -/

/-- The leg as a detail word: 0xFFFF_FFFF outside a step. -/
def State.legWord (s : State) (c : Nat) : Nat := if s.running then (s.core c).seq.leg else 0xFFFFFFFF

/-- An engine or the sequencer takes poison (R255, R257): MP_POISONCONS counts it, and the first in each step period on
a core posts POISON_CONSUMED. -/
def consumePoison (s : State) (c engine da : Nat) : State :=
  let t := tileOfCore c
  let s := s.updTile t fun x => { x with poisonCons := satAdd x.poisonCons 1 }
  if (s.core c).poisonPosted then s
  else
    postFault (s.updCore c fun k => { k with poisonPosted := true }) 0x0B engine
      [t, c, s.logicalWord c, s.legWord c, da % 2 ^ 32, da / 2 ^ 32] 0

/-- Take poison if some line was poisoned. -/
def consumeIf (s : State) (c engine : Nat) (line : Option Nat) : State :=
  match line with
  | some l => consumePoison s c engine (scrDa c l)
  | none => s

/-- Flags of the matrix engine, of the vector engine, and of a stream channel's conversions (R71, R125, R141). -/
def raiseMx (s : State) (c : Nat) (f : Flags) : State :=
  s.updCore c fun k => { k with mx := { k.mx with sticky := k.mx.sticky ||| f }, sticky := k.sticky ||| f }
def raiseVx (s : State) (c : Nat) (f : Flags) : State :=
  s.updCore c fun k => { k with vx := { k.vx with sticky := k.vx.sticky ||| f }, sticky := k.sticky ||| f }
def raiseSt (s : State) (c : Nat) (f : Flags) : State := s.updCore c fun k => { k with sticky := k.sticky ||| f }

/-! ## Engine queues (R172). Engines: 0 matrix, 1 vector, 2 and 3 the channels, 4 the check-value unit -/

def Core.queue (k : Core) (e : Nat) : List QCmd :=
  match e with
  | 0 => k.mx.queue | 1 => k.vx.queue | 2 => k.ch0.queue | 3 => k.ch1.queue | _ => k.ck.queue

def Core.setQueue (k : Core) (e : Nat) (q : List QCmd) : Core :=
  match e with
  | 0 => { k with mx := { k.mx with queue := q } }
  | 1 => { k with vx := { k.vx with queue := q } }
  | 2 => { k with ch0 := { k.ch0 with queue := q } }
  | 3 => { k with ch1 := { k.ch1 with queue := q } }
  | _ => { k with ck := { k.ck with queue := q } }

/-- Commands of a channel that have left the head of its queue and not completed. -/
def Chan.active (x : Chan) : Nat :=
  (x.copies.filter fun k => !k.held && k.preload.isNone).length + x.flags.length

/-- Commands an engine holds, those executing included: the QDEPTH of its status register. -/
def Core.depth (k : Core) (e : Nat) : Nat :=
  match e with
  | 0 => k.mx.queue.length + k.mx.mmas.length + k.mx.drains.length
  | 1 => k.vx.queue.length + b2n k.vx.taking.isSome + b2n k.vx.run.isSome
  | 2 => k.ch0.queue.length + k.ch0.active
  | 3 => k.ch1.queue.length + k.ch1.active
  | _ => k.ck.queue.length

/-- Queue depths (R172). -/
def queueDepth (e : Nat) : Nat := if e ≤ 1 then 64 else 32

/-- Commands in flight: decoded and not completed (R172). -/
def Core.inFlight (k : Core) : Nat :=
  k.depth 0 + k.depth 1 + k.depth 2 + k.depth 3 + k.depth 4 + k.seq.hold.length

/-- A command for engine e enters its queue, or the hold buffer while the queue is full or earlier commands for it are
held (R172). -/
def Core.dispatch (k : Core) (e : Nat) (q : QCmd) : Core :=
  if k.depth e < queueDepth e ∧ ¬k.seq.hold.any (fun h => h.eng = e) then k.setQueue e (k.queue e ++ [q])
  else { k with seq := { k.seq with hold := k.seq.hold ++ [{ eng := e, cmd := q }] } }

/-- Held commands enter their queues as those have room, in order for each engine (R172). -/
def Core.refill (k : Core) : Core :=
  let held := k.seq.hold
  held.foldl (fun k h => k.dispatch h.eng h.cmd) { k with seq := { k.seq with hold := [] } }

/-! ## Synchronisation fields (R72) -/

def waitEn (w : EngCmd) : Bool := tst w 15
def waitSem (w : EngCmd) : Nat := fld w 14 10
def sigEn (w : EngCmd) : Bool := tst w 9
def sigSem (w : EngCmd) : Nat := fld w 8 4

/-- Opcode of an engine command. -/
def opcOf (w : EngCmd) : Nat := fld w 127 122

/-- The command may start: not speculative, its wait released (R175, R178). -/
def QCmd.ready (q : QCmd) : Bool := q.spec = 0 && (!waitEn q.word || q.released)

/-- A core executes: its step runs and it is usable. -/
def State.coreRuns (s : State) (c : Nat) : Bool :=
  s.running && s.coreUsable c && match (s.core c).seq.phase with
    | .idle => false
    | .finished => false
    | _ => true

/-- The command at the head of engine e's queue, if it may start. -/
def State.head (s : State) (c e : Nat) : Option QCmd :=
  if s.coreRuns c then match (s.core c).queue e with
    | q :: _ => if q.ready then some q else none
    | [] => none
  else none

/-- The head of engine e with a given opcode test. -/
def State.headOp (s : State) (c e : Nat) (p : Nat → Bool) : Option QCmd :=
  match s.head c e with
  | some q => if p (opcOf q.word) then some q else none
  | none => none

/-- The head leaves its queue. -/
def popHead (s : State) (c e : Nat) : State := s.updCore c fun k => k.setQueue e (k.queue e).tail

/-- Commands of engine e, dispatched or held. -/
def Core.pendingFor (k : Core) (e : Nat) : Nat := k.depth e + (k.seq.hold.filter fun h => h.eng = e).length

/-- A FENCE is released once the engines it names have no command left (R169). -/
def Core.endFence (k : Core) : Core :=
  match k.seq.wait with
  | .fence m => if (List.range 5).any fun e => m.getLsbD e && decide (k.pendingFor e ≠ 0) then k
      else { k with seq := { k.seq with wait := .none } }
  | _ => k

/-- The command completes: its signal becomes visible (R72), held commands move up, a FENCE may be released. -/
def complete (s : State) (c : Nat) (w : EngCmd) : State :=
  s.updCore c fun k =>
    let k := if sigEn w then { k with seq := { k.seq with signals := k.seq.signals ++ [(sigSem w, 1, false)] } } else k
    k.refill.endFence

/-! ## Semaphores (R177 to R180) -/

/-- Record a saturation: SEQ_SEMFLAGS, its counter, and the first in each step period posts SEM_SATURATE (R177, R180). -/
def saturated (s : State) (c sem : Nat) (hi : Bool) : State :=
  let s := s.updSeq c fun q => if hi then { q with semHi := q.semHi ||| (1 <<< sem), sathi := satAdd q.sathi 1 }
    else { q with semLo := q.semLo ||| (1 <<< sem), satlo := satAdd q.satlo 1 }
  if (s.core c).satPosted then s
  else postFault (s.updCore c fun k => { k with satPosted := true }) 0x31 (if hi then 1 else 2)
    [tileOfCore c, c, s.logicalWord c, s.legWord c, sem] 0

/-- One signal applied with saturation (R177). -/
def applySignal (s : State) (c sem : Nat) (amt : BitVec 16) (sub : Bool) : State :=
  let n := (nth (s.core c).seq.sems sem 0).toNat
  let set := fun (s : State) (v : Nat) => s.updSeq c fun q => { q with sems := q.sems.set sem (BitVec.ofNat 16 v) }
  if sub then
    if amt.toNat ≤ n then set s (n - amt.toNat) else saturated (set s 0) c sem false
  else if n + amt.toNat ≤ 0xFFFF then set s (n + amt.toNat) else saturated (set s 0xFFFF) c sem true

/-- One consuming wait of 1 by the head of engine e (R178); behind a trail run no vector command is at the head (R116,
R119). -/
def engineWait (s : State) (c sem e : Nat) : State :=
  match (s.core c).queue e with
  | q :: rest =>
    if q.spec = 0 ∧ waitEn q.word ∧ ¬q.released ∧ waitSem q.word = sem ∧ ¬(e = 1 ∧ (s.core c).vx.run.isSome) ∧
        1 ≤ (nth (s.core c).seq.sems sem 0).toNat then
      s.updCore c fun k =>
        let k := k.setQueue e ({ q with released := true } :: rest)
        { k with seq := { k.seq with sems := k.seq.sems.set sem (nth k.seq.sems sem 0 - 1) } }
    else s
  | [] => s

/-- The sequencer's wait on a semaphore, if it stands and its amount is met (R178, R179). -/
def seqWait (s : State) (c sem : Nat) (obs : Bool) : State :=
  let q := (s.core c).seq
  match q.wait with
  | .semw n o cnt =>
    if n = sem ∧ o = obs ∧ cnt.toNat ≤ (nth q.sems sem 0).toNat then
      s.updSeq c fun q => { q with wait := .none, sems := if obs then q.sems else q.sems.set sem (nth q.sems sem 0 - cnt) }
    else s
  | _ => s

/-! ## Meters (R375) -/

/-- A core-scratch DA of the part (R3, R129). -/
def State.isScratch (s : State) (da : Nat) : Bool :=
  match s.kind da with
  | .scratch _ _ => true
  | _ => false

/-- Logical core of a running core, its leg in the booked plan. -/
def State.legPlan (s : State) (c : Nat) : Option LegPlan :=
  match s.dev.plan, s.logicalOf c with
  | some p, some l => match p.legs.find? fun e => e.1 = l with
    | some e => e.2[(s.core c).seq.leg]?
    | none => none
  | _, _ => none

/-- A core exceeds its demand (R375, R376): the field is set, OVER with it, and the first such leg is kept. -/
def setOver (s : State) (c : Nat) (f : Demand → Demand) : State :=
  let s := s.updCore c fun k =>
    let d := f k.dem
    { k with dem := { d with ovr := true, overLeg := if k.dem.ovr then k.dem.overLeg else BitVec.ofNat 16 k.seq.leg } }
  s.updDev fun d => { d with stepOver := true }

/-- A DA lies in one of the plan's regions that a mask names. -/
def State.inSet (s : State) (mask : BitVec 64) (da : Nat) : Bool :=
  match s.dev.plan with
  | none => true
  | some p => p.regions.zipIdx.any fun (r, i) =>
      mask.getLsbD i && decide (r.base ≤ da) && decide (da < r.base + r.len)

/-- Bytes of a leg that its demand entries declare on stacked memory, or off the device (R354, R375). -/
def State.declared (s : State) (lp : LegPlan) (stacked : Bool) : Nat :=
  let regs := match s.dev.plan with
    | some p => p.regions
    | none => []
  (lp.phases.map fun ph => (ph.2.map fun e =>
    let st := match regs[e.region]? with
      | some r => decide (r.base < 2 ^ 40)
      | none => true
    if st == stacked then e.bytes else 0).foldl (· + ·) 0).foldl (· + ·) 0

/-- Meter an access of a leg's channels or of an LDW: lines outside its sets, bytes beyond its declared sums (R375). Scratch is not
metered, and DEDUCED (log 170) neither are the reads of leg lists, code and WAITFs and the completion flag, which no demand entry
describes. -/
def meter (s : State) (c : Nat) (wr : Bool) (das : List Nat) (bytes : Nat) : State :=
  match s.legPlan c with
  | none => s
  | some lp =>
    let das := das.filter fun a => !s.isScratch a
    let s := if das.any fun a => !s.inSet (if wr then lp.wmask else lp.rmask) a then
        setOver s c fun d => { d with undecl := true } else s
    match das with
    | [] => s
    | a :: _ =>
      if a < 2 ^ 40 then
        let s := s.updCore c fun k => { k with dem := { k.dem with stackedBytes := k.dem.stackedBytes + bytes } }
        if s.declared lp true < (s.core c).dem.stackedBytes then setOver s c fun d => { d with stacked := true } else s
      else
        let s := s.updCore c fun k => { k with dem := { k.dem with offBytes := k.dem.offBytes + bytes } }
        if s.declared lp false < (s.core c).dem.offBytes then setOver s c fun d => { d with offdev := true } else s

/-- Busy cycles of the busiest engine of the leg (R375). -/
def Demand.busiest (d : Demand) : Nat := max d.ckCycles (max d.mxCycles d.vxCycles)

/-- The engines' busy cycles of a leg, metered against the sum of its CYC values, which count quarters of a cycle (R354, R375). -/
def meterCycles (s : State) (c : Nat) (f : Demand → Demand) : State :=
  let s := s.updCore c fun k => { k with dem := f k.dem }
  match s.legPlan c with
  | some lp => if (lp.phases.map Prod.fst).foldl (· + ·) 0 < 4 * (s.core c).dem.busiest then
      setOver s c fun d => { d with cycles := true } else s
  | none => s

end Sys2Proof.Machine
end

