-- ==== Sys2Proof/Machine/Tensor.lean ====
section
/-!
DEFINITION. Tensor descriptors and copies (R130 to R150): where each element of a descriptor lies, bit by bit; the
iteration spaces of a copy, a gather and a scatter; what a copy writes, as masked lines, from what it read.
-/
namespace Sys2Proof.Machine

/-- A descriptor as R130 and R131 read it; strides by dimension, that of dimension 0 in elements. -/
structure Desc where
  ty : Nat
  rank : Nat
  planes : Nat
  sep : Bool
  cmp : Bool
  blk : Nat
  padw : Bool
  clip : Bool
  page : Nat
  lo : List Nat
  hi : List Nat
  pstr : Nat
  base : Nat
  strides : List Int
  sizes : List Nat
  /-- BASE is a core-scratch DA: addresses wrap modulo 8 MiB (R132) -/
  scr : Bool
  deriving DecidableEq, Repr

/-- A type code, reserved ones as FP32 (R30). -/
def normTy (code : Nat) : Nat :=
  if code ≤ 0x0D ∨ isMx code ∨ isPsb code then code else 0

/-- The effective rank (R130). -/
def rankOf (r : Nat) : Nat := if r = 0 then 1 else min r 6

/-- The fields of a descriptor (R130, R131). -/
def State.descOf (s : State) (d : BitVec 512) : Desc :=
  let r := rankOf (fld d 501 499)
  { ty := normTy (fld d 506 502), rank := r, planes := fld d 498 496, sep := tst d 495, cmp := tst d 494,
    blk := fld d 493 492, padw := tst d 491, clip := tst d 490, page := fld d 489 488,
    lo := (List.range 6).map fun i => if i < r then fld d (443 + 8 * i) (440 + 8 * i) else 0,
    hi := (List.range 6).map fun i => if i < r then fld d (447 + 8 * i) (444 + 8 * i) else 0,
    pstr := fld d 439 408, base := fld d 407 360,
    strides := (List.range 6).map fun i =>
      if r ≤ i then 0 else if i = 0 then sext 16 (fld d 359 344) else sext 40 (fld d (383 - 40 * i) (344 - 40 * i)),
    sizes := (List.range 6).map fun i => if i < r then fld d (24 * i + 23) (24 * i) + 1 else 1,
    scr := s.isScratch (fld d 407 360) }

/-- Lowest dimension whose stride fails R135; 0 where none does. -/
def Desc.badDim (d : Desc) : Nat :=
  (((List.range 6).filter fun i => decide (1 ≤ i) && decide (i < d.rank) && decide (nth d.strides i 0 % 64 ≠ 0)).head?).getD 0

/-- Width of an element's bits without its block scale (R132); one plane of PSB. -/
def tyWidth (ty : Nat) : Nat := if isPsb ty then 1 else (etyOf ty).width

def isBlk (ty : Nat) : Bool := isMx ty || isPsb ty

/-- Types that SEP applies to (R134). -/
def Desc.separated (d : Desc) : Bool := d.sep && [5, 6, 7, 0xA, 0xB, 0xC].contains d.ty

/-- Shape of a block (R133); 1 × 1 for plain types. -/
def Desc.shape (d : Desc) : Nat × Nat :=
  if isBlk d.ty then nth [(32, 1), (16, 2), (8, 4), (4, 8)] d.blk (32, 1) else (1, 1)

/-- Sizes of an iteration, dimensions 0 and 1 in blocks where blocks are moved whole (R142). -/
def Desc.dims (d : Desc) (blocks : Bool) : List Nat :=
  if blocks then
    let b := d.shape
    d.sizes.zipIdx.map fun (n, i) => if i = 0 then (n + b.1 - 1) / b.1 else if i = 1 then (n + b.2 - 1) / b.2 else n
  else d.sizes

/-- A bit address, folded: 8 × byte + bit, the byte modulo 2^48 or within 8 MiB of scratch (R132). -/
def Desc.bitAt (d : Desc) (b : Int) : Nat :=
  let a := b / 8
  8 * (if d.scr then 2 ^ 40 + ((a - 2 ^ 40) % 2 ^ 23).toNat else (a % 2 ^ 48).toNat) + (b % 8).toNat

/-- Σ x_d × STRIDEd over dimensions 2 to 5. -/
def Desc.upper (d : Desc) (x : List Nat) : Int :=
  (List.range 4).foldl (fun a i => a + (nth x (i + 2) 0 : Nat) * nth d.strides (i + 2) 0) 0

/-- Bit planes that a read takes (R134). -/
def Desc.readPlane (d : Desc) (q : Nat) : Bool :=
  let w := tyWidth d.ty
  decide (d.planes = 0) || decide (w ≤ d.planes) || decide (w - d.planes ≤ q)

/-- The bits of a plain element's encoding, lowest first (R132); `rd`: planes not read are absent. -/
def Desc.plainBits (d : Desc) (x : List Nat) (rd : Bool) : List (Option Nat) :=
  let o := (nth x 1 0 : Nat) * nth d.strides 1 0 + d.upper x
  let w := tyWidth d.ty
  let s0 := (nth x 0 0 : Nat) * nth d.strides 0 0
  (List.range w).map fun q =>
    if d.separated then
      if rd && !d.readPlane q then none else some (d.bitAt (8 * (d.base + q * d.pstr * 64 + o) + s0))
    else some (d.bitAt (8 * (d.base + o) + s0 * w + q))

/-- A PSB region's bit: region q from 1 to 8 of block j0 at byte offset ob, bit e (R132); `p` planes are read. -/
def Desc.psbBit (d : Desc) (ob : Int) (j0 e q p : Nat) : Option Nat :=
  if q ≤ p + 1 then some (d.bitAt (8 * (d.base + q * d.pstr * 64 + ob + 4 * j0) + e)) else none

/-- The eight bits of a byte address. -/
def Desc.byteBits (d : Desc) (a : Int) : List (Option Nat) := (List.range 8).map fun (i : Nat) => some (d.bitAt (8 * a + i))

/-- One element of a block type as the value path reads it: element bits or sign and magnitudes b1 to b7, then the
scale or exponent byte (R35 to R39, R132). -/
def Desc.blkElemBits (d : Desc) (x : List Nat) : List (Option Nat) :=
  let b := d.shape
  let j0 := nth x 0 0 / b.1
  let j1 := nth x 1 0 / b.2
  let e := nth x 1 0 % b.2 * b.1 + nth x 0 0 % b.1
  let ob := (j1 : Nat) * nth d.strides 1 0 + d.upper x
  if isPsb d.ty then
    (List.range 8).map (fun q => d.psbBit ob j0 e (q + 1) d.planes) ++ d.byteBits (d.base + ob + j0)
  else
    let w := tyWidth d.ty
    (List.range w).map (fun (i : Nat) => some (d.bitAt (8 * (d.base + ob) + (32 * j0 + e) * w + i))) ++
      d.byteBits (d.base + d.pstr * 64 + ob + j0)

/-- A whole block at block coordinates: scale or exponent byte, then elements or the eight regions (R132); planes above
`p` are absent. -/
def Desc.blockBits (d : Desc) (x : List Nat) (p : Nat) : List (Option Nat) :=
  let j0 := nth x 0 0
  let ob := (nth x 1 0 : Nat) * nth d.strides 1 0 + d.upper x
  if isPsb d.ty then
    d.byteBits (d.base + ob + j0) ++
      (List.range 8).flatMap fun q => (List.range 32).map fun e => d.psbBit ob j0 e (q + 1) p
  else
    let w := tyWidth d.ty
    d.byteBits (d.base + d.pstr * 64 + ob + j0) ++
      (List.range (32 * w)).map fun (i : Nat) => some (d.bitAt (8 * (d.base + ob) + 32 * j0 * w + i))

/-- Clamp a coordinate into a size (R137). -/
def clampAt (n : Nat) (i : Int) : Nat := if i < 0 then 0 else min i.toNat (n - 1)

/-! ## Iteration spaces (R137 to R146) -/

/-- All coordinates below the given extents, the first varying fastest. -/
def coords : List Nat → List (List Nat)
  | [] => [[]]
  | n :: ns => (coords ns).flatMap fun r => (List.range n).map fun i => i :: r

/-- One iteration: source coordinate (clamped), destination coordinate, and that it is a pad element. -/
structure Iter where
  src : List Nat
  dst : List Nat
  pad : Bool
  deriving DecidableEq, Repr

/-- A signed source coordinate clamped into the sizes. -/
def clampAll (sizes : List Nat) (x : List Int) : List Nat := (sizes.zip x).map fun (n, i) => clampAt n i

/-- Some coordinate lies outside its size. -/
def outside (sizes : List Nat) (x : List Int) : Bool := (sizes.zip x).any fun (n, i) => decide (i < 0) || decide ((n : Int) ≤ i)

/-- The destination's order of the iteration dimensions it names, lowest destination dimension first (R139). -/
def named : List Nat → List Nat
  | [] => []
  | k :: ks => k :: (named ks).filter (· ≠ k)

/-- ST_COPY's iterations (R137, R139); `perm` gives PERM_d for the destination dimensions below its rank where PEN is
1. -/
def copyIters (src : Desc) (blocks : Bool) (perm : Option (List Nat)) : List Iter :=
  let dims := src.dims blocks
  let n := (List.range 6).map fun d => nth src.lo d 0 + nth dims d 1 + nth src.hi d 0
  let mk := fun (i : List Nat) (t : List Nat) =>
    let x := (List.range 6).map fun d => ((nth i d 0 : Nat) : Int) - (nth src.lo d 0 : Nat)
    { src := clampAll dims x, dst := t, pad := outside dims x : Iter }
  match perm with
  | none => (coords n).map fun i => mk i i
  | some p =>
    let order := named p
    (coords (order.map fun k => nth n k 1)).map fun v =>
      let i := (List.range 6).map fun k => if order.contains k then nth v (order.idxOf k) 0 else 0
      mk i ((List.range 6).map fun d => match p[d]? with
        | some k => nth i k 0
        | none => 0)

/-- Block coordinates of a list entry, by dimension (R144). -/
def entryCoords (e : BitVec 128) : List Nat :=
  [fld e 126 112, fld e 23 0, fld e 47 24, fld e 71 48, fld e 95 72, fld e 111 96]

/-- Block extents of a gather or scatter: the sizes below dimension r − 1 of the side that counts entries (R145,
R146). -/
def blockExt (dims : List Nat) (r : Nat) : List Nat := dims.zipIdx.map fun (n, d) => if d + 1 < r then n else 1

/-- Iterations of a gather (R145). -/
def gatherIters (src dst : Desc) (blocks : Bool) (list : List (BitVec 128)) : List Iter :=
  let b := blockExt (dst.dims blocks) dst.rank
  list.zipIdx.flatMap fun (e, j) =>
    if tst e 127 then []
    else (coords b).map fun u =>
      { src := clampAll (src.dims blocks) ((List.range 6).map fun d =>
          ((nth (entryCoords e) d 0 * nth b d 1 + nth u d 0 : Nat) : Int)),
        dst := (List.range 6).map fun d => if d + 1 = dst.rank then j else nth u d 0, pad := false }

/-- Iterations of a scatter (R146). -/
def scatterIters (src : Desc) (blocks : Bool) (list : List (BitVec 128)) : List Iter :=
  let b := blockExt (src.dims blocks) src.rank
  list.zipIdx.flatMap fun (e, j) =>
    if tst e 127 then []
    else (coords b).map fun u =>
      { src := clampAll (src.dims blocks) ((List.range 6).map fun d =>
          ((if d + 1 = src.rank then j else nth u d 0 : Nat) : Int)),
        dst := (List.range 6).map fun d => nth (entryCoords e) d 0 * nth b d 1 + nth u d 0, pad := false }

/-- Iterations that are written, destination coordinates clamped or suppressed (R138). -/
def writtenIters (dst : Desc) (blocks : Bool) (l : List Iter) : List Iter :=
  let dims := dst.dims blocks
  (l.filter fun it => (!it.pad || dst.padw) && !(dst.clip && outside dims (it.dst.map Int.ofNat))).map fun it =>
    { it with dst := clampAll dims (it.dst.map Int.ofNat) }

/-! ## What a copy does -/

/-- A copy worked out: its descriptors, the operation of an accumulating write (0: none), the encoding path, whole
blocks moved, its iterations. -/
structure Job where
  src : Desc
  dst : Desc
  aop : Nat
  enc : Bool
  blocks : Bool
  rm : Rm
  sat : Bool
  iters : List Iter
  deriving DecidableEq, Repr

/-- Element type of an accumulating write (R147). -/
def aopTy (aop : Nat) : Nat := if aop = 2 then 2 else if aop = 4 then 8 else 0

/-- The operation that an AOP field selects; 5 to 7 as none (R147). -/
def aopOf (n : Nat) : Nat := if n ≤ 4 then n else 0

/-- The rounding mode of a stream conversion: SR as RNE (R141). -/
def streamRm (n : Nat) : Rm :=
  match rmOf n with
  | .sr => .rne
  | m => m

/-- A copy, gather or scatter from its command, its descriptors and its list (R137 to R147). A run-ahead load (`ra`) has
no permutation (R139). -/
def jobOf (w : EngCmd) (ra : Bool) (src dst : Desc) (list : List (BitVec 128)) : Job :=
  let aop := aopOf (fld w 120 118)
  let copy := decide (opcOf w = 1)
  let pen := copy && tst w 112 && !ra
  let enc := decide (src.ty = dst.ty) && !pen && decide (aop = 0) && (!isBlk src.ty || decide (src.blk = dst.blk))
  let dst := if aop = 0 then dst else { dst with ty := aopTy aop }
  let blocks := enc && isBlk src.ty
  let perm := (List.range dst.rank).map fun d => fld w (96 + 3 * d) (94 + 3 * d) % 6
  let its := if copy then copyIters src blocks (if pen then some perm else none)
    else if opcOf w = 2 then gatherIters src dst blocks list
    else scatterIters src blocks list
  { src := src, dst := dst, aop := aop, enc := enc, blocks := blocks, rm := streamRm (fld w 117 115), sat := tst w 114,
    iters := writtenIters dst blocks its }

/-- Bits that an iteration reads (R132, R140, R141). -/
def Job.readBits (j : Job) (it : Iter) : List (Option Nat) :=
  if isBlk j.src.ty then
    if j.blocks then j.src.blockBits it.src j.src.planes else j.src.blkElemBits it.src
  else j.src.plainBits it.src true

/-- Bits that an iteration writes where its destination is plain or a block is moved whole. -/
def Job.writeBits (j : Job) (it : Iter) : List (Option Nat) :=
  if j.blocks then j.dst.blockBits it.dst 8 else j.dst.plainBits it.dst false

/-- The destination block of an element on the value path, and its place in it (R143). -/
def Job.blockOf (j : Job) (it : Iter) : List Nat × Nat :=
  let b := j.dst.shape
  ((nth it.dst 0 0 / b.1) :: (nth it.dst 1 0 / b.2) :: it.dst.drop 2, nth it.dst 1 0 % b.2 * b.1 + nth it.dst 0 0 % b.1)

/-- The destination is encoded block by block (R143). -/
def Job.toBlocks (j : Job) : Bool := !j.enc && isBlk j.dst.ty

/-- Line DA of a bit address. -/
def bitLine (b : Nat) : Nat := b / 512 * 64

/-- Distinct elements, first appearances kept. -/
def uniq : List Nat → List Nat := fun l => (l.foldl (fun a x => if a.contains x then a else x :: a) []).reverse

/-- Lines a copy reads, in order. -/
def Job.readLines (j : Job) : List Nat := uniq (j.iters.flatMap fun it => (j.readBits it).filterMap fun b => b.map bitLine)

/-- Lines a copy writes, in order. -/
def Job.writeLines (j : Job) : List Nat :=
  uniq (j.iters.flatMap fun it =>
    let bits := if j.toBlocks then j.dst.blockBits (j.blockOf it).1 8 else j.writeBits it
    bits.filterMap fun b => b.map bitLine)

/-- Lines of the destination of which a byte is written in part, whose old bits are kept. -/
def Job.partLines (j : Job) : List Nat :=
  if j.toBlocks || j.blocks || decide (j.aop ≠ 0) || (decide (tyWidth j.dst.ty % 8 = 0) && !j.dst.separated) then []
  else j.writeLines

/-- Bits spelled as a number, lowest first. -/
def bitsNat : List Bool → Nat
  | [] => 0
  | b :: bs => b2n b + 2 * bitsNat bs

/-- The value of an element from the bits that were read (R45, R35, R38 to R40, R134). -/
def Desc.value (d : Desc) (bits : List Bool) : Val :=
  if isPsb d.ty then
    let mag := bitsNat ((bits.drop 1).take 7).reverse
    psbValue (bitsNat (bits.drop 8)) (bits.headD false) mag (min d.planes 7) d.cmp
  else if isMx d.ty then
    let w := tyWidth d.ty
    mxValue d.ty (bitsNat (bits.drop w)) (bitsNat (bits.take w))
  else (etyOf d.ty).decode (bitsNat bits)

/-- What is read at a bit: its value and that its line is poisoned. -/
abbrev BitReader := Nat → Bool × Bool

/-- An iteration's bits as read, and poison among them (R255). -/
def readAll (rd : BitReader) (bits : List (Option Nat)) : List Bool × Bool :=
  (bits.map fun b => match b with
    | none => false
    | some a => (rd a).1, bits.any fun b => match b with
    | none => false
    | some a => (rd a).2)

/-- One write of a copy in iteration order: bits with their values, or an accumulating element's byte address, width
in bytes and code. -/
structure ElemWr where
  bits : List (Nat × Bool)
  poison : Bool
  deriving DecidableEq, Repr

/-- Bits of a number paired with places. -/
def placeBits (places : List (Option Nat)) (v : Nat) : List (Nat × Bool) :=
  places.zipIdx.filterMap fun (p, i) => p.map fun a => (a, v.testBit i)

/-- A block's code as one number in the order of `blockBits`: scale byte, then elements, or the eight planes. -/
def blockCode (ty : Nat) (x : Nat) (els : List Nat) : Nat :=
  if isPsb ty then
    x + 2 ^ 8 * pack ((List.range 8).map fun q => (32 * q, pack (els.zipIdx.map fun (e, i) => (i, b2n (e.testBit (7 - q))))))
  else
    let w := tyWidth ty
    x + 2 ^ 8 * pack (els.zipIdx.map fun (e, i) => (w * i, e % 2 ^ w))

/-- A place named twice. -/
def twice : List Nat → Bool
  | [] => false
  | a :: l => l.contains a || twice l

/-- The bits of one unit's write where its regions overlap: nothing orders them, so a place named more than once takes
any one of its values. `n` and `k` number the choice. -/
def freeParts (n k : Nat) (l : List (Nat × Bool)) : List (Nat × Bool) :=
  if twice (l.map Prod.fst) then
    l.map fun p =>
      let c := l.filter fun q => decide (q.1 = p.1)
      (p.1, (nth c ((Config.freeWord n (2 ^ 52 * k + p.1)).toNat % c.length) p).2)
  else l

/-- Regions of the destination may overlap within one unit: it has more than one. -/
def Job.manyRegions (j : Job) : Bool := isBlk j.dst.ty || j.dst.separated

/-- Destination blocks as far as the copy has reached: values written by place, poison, and iterations still to come
(R143). -/
abbrev Blocks := List (List Nat × Tab Val × Bool × Nat)

/-- One value into its block. -/
def Job.intoBlock (j : Job) (bs : Blocks) (it : Iter) (v : Val) (bad : Bool) : Blocks :=
  let b := j.blockOf it
  match bs.find? fun e => decide (e.1 = b.1) with
  | some e => (bs.filter fun e => decide (e.1 ≠ b.1)) ++ [(b.1, tput e.2.1 b.2 v, e.2.2.1 || bad, e.2.2.2 - 1)]
  | none => bs ++ [(b.1, [(b.2, v)], bad, (j.iters.filter fun i => decide ((j.blockOf i).1 = b.1)).length - 1)]

/-- The element writes of a copy in iteration order, and the flags its conversions raise (R140 to R143). A block is
encoded with the last iteration that writes into it. What iteration k reads may depend on the writes before it; `n`
numbers free values. A widening conversion is exact whatever SAT says (R45). -/
def Job.elems (j : Job) (n : Nat) (rd : List ElemWr → Nat → BitReader) : List ElemWr × Flags :=
  let parts := fun (k : Nat) (l : List (Nat × Bool)) => if j.manyRegions then freeParts n k l else l
  if j.toBlocks then
    let r := j.iters.zipIdx.foldl (fun (acc : List ElemWr × Flags × Blocks) (it, k) =>
      let r := readAll (rd acc.1 k) (j.readBits it)
      let v := j.src.value r.1
      let bs := j.intoBlock acc.2.2 it v r.2
      let fl := acc.2.1 ||| flagIf v.isSig fInvalid
      match bs.find? fun e => decide (e.2.2.2 = 0) with
      | none => (acc.1, fl, bs)
      | some e =>
        let c := blockEncode j.dst.ty j.rm (List.replicate 32 0) ((List.range 32).map fun i => tget (.fin false 0 0) e.2.1 i)
        let w : ElemWr := {
          bits := parts acc.1.length (placeBits (j.dst.blockBits e.1 8) (blockCode j.dst.ty c.1 c.2.1)), poison := e.2.2.1 }
        (acc.1 ++ [w], c.2.2.foldl (· ||| ·) fl, bs.filter fun e => decide (e.2.2.2 ≠ 0))) ([], 0, [])
    (r.1, r.2.1)
  else
    let sat := j.sat && (isBlk j.src.ty || !widens (etyOf j.src.ty) (etyOf j.dst.ty))
    j.iters.zipIdx.foldl (fun acc (it, k) =>
      let r := readAll (rd acc.1 k) (j.readBits it)
      let c := if j.enc then (bitsNat r.1, 0) else (etyOf j.dst.ty).encode j.rm sat 0 (j.src.value r.1)
      (acc.1 ++ [{ bits := parts k (placeBits (j.writeBits it) c.1), poison := r.2 }], acc.2 ||| c.2)) ([], 0)

/-! ## A source that the copy writes (R150) -/

/-- The copy writes a line it reads. -/
def Job.overlaps (j : Job) : Bool := let w := j.writeLines; j.readLines.any fun l => w.contains l

/-- A bit after some plain writes of the copy. -/
def afterWrites (rd : BitReader) (es : List ElemWr) : BitReader := fun b =>
  match es.reverse.findSome? fun e => (e.bits.find? fun p => decide (p.1 = b)).map fun p => (p.2, e.poison) with
  | some r => r
  | none => rd b

/-- A bit after one accumulating element: the vault combines it with what stands at its aligned place (R147, R233,
R234). -/
def afterAcc (op : Nat) (rd : BitReader) (e : ElemWr) : BitReader :=
  match e.bits with
  | [] => rd
  | (b0, _) :: _ =>
    let w := accWidth op
    let lo := b0 / 8 / w * w * 8
    let old := bitsNat ((List.range (8 * w)).map fun i => (rd (lo + i)).1)
    let pois := e.poison || (List.range (8 * w)).any fun i => (rd (lo + i)).2
    let new := accElem op old (bitsNat (e.bits.map Prod.snd))
    fun b => if lo ≤ b ∧ b < lo + 8 * w then (new.testBit (b - lo), pois) else rd b

/-- What iteration k of an overlapping copy reads: the bits before the copy, or as some number of the earlier iterations
left them (R150), free. -/
def Job.seen (j : Job) (n : Nat) (rd : BitReader) (es : List ElemWr) (k : Nat) : BitReader :=
  let done := es.take ((Config.freeWord n (2 ^ 52 * k + 2 ^ 51)).toNat % (es.length + 1))
  if j.aop = 0 then afterWrites rd done else done.foldl (afterAcc j.aop) rd

/-! ## Lines to write -/

/-- Lines being put together: DA, data, bits written, poison. -/
abbrev LineSet := Tab (Line × Line × Bool)

/-- One bit put into a line set; later writes of a bit stand (R150). -/
def putBit (pois : Bool) (m : LineSet) (b : Nat × Bool) : LineSet :=
  let e := tget (0, 0, false) m (bitLine b.1)
  let k : Line := 1 <<< (b.1 % 512)
  tput m (bitLine b.1) (if b.2 then e.1 ||| k else e.1 &&& ~~~k, e.2.1 ||| k, e.2.2 || pois)

/-- Bytes of which some bit is written. -/
def byteMask (bits : Line) : BitVec 64 := BitVec.ofNat 64 (ofBits ((List.range 64).filter fun i => decide (byteAt bits i ≠ 0)))

/-- Plain writes of a copy, one per line; bits not written of a byte keep what `old` reads there. -/
def plainWrites (old : Nat → Line) (es : List ElemWr) : List CopyWr :=
  (es.foldl (fun m e => e.bits.foldl (putBit e.poison) m) ([] : LineSet)).map fun (da, d, k, p) =>
    { da := da, mask := byteMask k, data := (old da &&& ~~~k) ||| d, poison := p, mis := 0 }

/-- An accumulating element put behind the requests made so far: into its line's request while that has no value for
it, else as a new one (R150, R233, R234). -/
def putAcc (w : Nat) (acc : List CopyWr) (e : ElemWr) : List CopyWr :=
  match e.bits with
  | [] => acc
  | (b0, _) :: _ =>
    let a := b0 / 8
    let al := a / w * w
    let da := al / 64 * 64
    let mask := maskOf (al % 64) w
    let v := bitsNat (e.bits.map Prod.snd)
    let data : Line := BitVec.ofNat 512 (v * 2 ^ (8 * (al % 64)))
    let mis := b2n (decide (a ≠ al))
    match acc.reverse.findIdx? fun c => c.da = da with
    | some i =>
      let k := acc.length - 1 - i
      let c := nth acc k { da := da, mask := 0, data := 0, poison := false, mis := 0 }
      if c.mask &&& mask = 0 then
        acc.set k { da := da, mask := c.mask ||| mask, data := c.data ||| data, poison := c.poison || e.poison,
                    mis := c.mis + mis }
      else acc ++ [{ da := da, mask := mask, data := data, poison := e.poison, mis := mis }]
    | none => acc ++ [{ da := da, mask := mask, data := data, poison := e.poison, mis := mis }]

/-- Everything a copy writes. -/
def Job.writes (j : Job) (old : Nat → Line) (es : List ElemWr) : List CopyWr :=
  if j.aop = 0 then plainWrites old es else es.foldl (putAcc (tyWidth j.dst.ty / 8)) []

/-! ## Bytes moved (R161) -/

/-- Quarter bits that one unit moves on a side: an element, or a block moved whole; MX scales and PSB exponents are
shared by 32 elements. -/
def unitQuarters (d : Desc) (blocks wr : Bool) : Nat :=
  let one := if isPsb d.ty then 4 * (if wr then 8 else min d.planes 7 + 1) + 1
    else if isMx d.ty then 4 * tyWidth d.ty + 1 else 4 * tyWidth d.ty
  if blocks then 32 * one else one

/-- Bytes read (pad elements excepted) and bytes written. -/
def Job.bytes (j : Job) : Nat × Nat :=
  (((j.iters.filter fun it => !it.pad).length * unitQuarters j.src j.blocks false + 31) / 32,
   (j.iters.length * unitQuarters j.dst j.blocks true + 31) / 32)

end Sys2Proof.Machine
end

