-- ==== Sys2Proof/Machine/Stream.lean ====
section
/-!
DEFINITION. The stream channels (R127 to R161, R470): copies with their reads and writes, run-ahead loads, flags under
the flag rule (R203, R204), the preload (R164), the meters of R375.
-/
namespace Sys2Proof.Machine

/-! ## Directions (R129, R203) -/

/-- Direction of a DA for core c: 0 local stack, 1 remote tile, 2 host port, 3 device link, 4 none (handled under R5). -/
def State.dirOf (s : State) (c da : Nat) : Nat :=
  match s.kind da with
  | .scratch _ _ => 0
  | .stacked => match s.place (da / 64 * 64) with
    | some p => if p.tile = tileOfCore c then 0 else 1
    | none => 4
  | .host _ _ => 2
  | .peer _ _ => 3
  | _ => 4

/-- Offset of a scratch DA in the issuing core's scratch (R129). -/
def scratchOff (da : Nat) : Nat := da % 2 ^ 23

/-! ## Reads and writes of a copy -/

/-- The copy of channel ch with a given read number. -/
def State.copyNum (s : State) (c ch n : Nat) : Option Copy := ((s.core c).chan ch).copies.find? fun x => x.n = n

/-- Replace a copy, known by its command's number. -/
def updCopy (s : State) (c ch id : Nat) (f : Copy → Copy) : State :=
  s.updChan c ch fun k => { k with copies := k.copies.map fun x => if x.cmd.id = id then f x else x }

/-- Remove a copy and its filter entry. -/
def dropCopy (s : State) (c ch id : Nat) : State :=
  let gone := (((s.core c).chan ch).copies.filter fun x => x.cmd.id = id).map (·.n)
  let s := s.updChan c ch fun k => { k with copies := k.copies.filter fun x => decide (x.cmd.id ≠ id) }
  s.updSeq c fun q => { q with filter := q.filter.filter fun e => !(decide (e.ch = ch) && gone.contains e.copy) }

/-- The copy as R137 to R147 work it out. -/
def State.copyJob (s : State) (x : Copy) : Job := jobOf x.cmd.word x.runAhead (s.descOf x.src) (s.descOf x.dst) x.list

/-- Lines of a preload's source: PLEN × 64 bytes from PSRC (R164). -/
def preloadLines (p : Nat × Nat × Nat) : List Nat :=
  (List.range (p.2.2 + b2n (decide (p.1 % 64 ≠ 0)))).map fun i => (p.1 / 64 * 64 + 64 * i) % 2 ^ 48

/-- Lines that a copy asks for: those of its source, and of its destination where old bits are kept, outside scratch. -/
def State.copyLines (s : State) (x : Copy) : List Nat :=
  let l := match x.preload with
    | some p => preloadLines p
    | none => let j := s.copyJob x; uniq (j.readLines ++ j.partLines)
  l.filter fun a => !s.isScratch a

/-- Ask for lines of a copy (R158). -/
def askLines (s : State) (c ch n hint : Nat) (ls : List Nat) : State :=
  forEach ls s fun s l => issue s (.copy c ch n) .read l fullMask 0 false hint

/-- A line as a copy reads it: from its answers, or its core's scratch (R129, R167). -/
def State.copyLine (s : State) (c : Nat) (got : List (Nat × Line × Bool)) (l : Nat) : Line × Bool :=
  if s.isScratch l then
    let o := scratchOff l
    (lineOf (s.scrBytes c o 64), (s.core c).poison.contains (o / 64))
  else match got.find? fun e => e.1 = l with
    | some e => (if e.2.2 then 0 else e.2.1, e.2.2)
    | none => (0, false)

/-- One write of a copy: into the core's own scratch at once, else issued (R129, R148). The flag tells an accumulating
write that no vault serves; the list is what it leaves unacknowledged. -/
def putWrite (s : State) (c ch n aop hint : Nat) (w : CopyWr) : State × Bool × List (Nat × Nat) :=
  match s.kind w.da with
  | .scratch _ _ =>
    if aop = 0 then (scrPutLine s c (scratchOff w.da / 64) w.mask w.data w.poison, false, []) else (s, true, [])
  | .host _ _ =>
    if aop = 0 then (issue s (.copy c ch n) .write w.da w.mask w.data w.poison hint, false, [(s.nextRq, 2)]) else (s, true, [])
  | _ => (issue s (.copy c ch n) (if aop = 0 then .write else .acc aop) w.da w.mask w.data w.poison hint w.mis, false,
      [(s.nextRq, s.dirOf c w.da)])

/-- Bytes of two lines mixed freely. -/
def mixLine (n i : Nat) (a b : Line) : Line :=
  lineOf ((List.range 64).map fun k => if Config.freeBool n (128 * i + k) then byteAt a k else byteAt b k)

/-- One line of a preload as a state gives it: 64 bytes from an address on, and poison. -/
def State.preloadLine (s : State) (c : Nat) (got : List (Nat × Line × Bool)) (a : Nat) : Line × Bool :=
  let lo := s.copyLine c got (a / 64 * 64 % 2 ^ 48)
  let hi := if a % 64 = 0 then (0, false) else s.copyLine c got ((a / 64 + 1) * 64 % 2 ^ 48)
  ((lo.1 >>> (8 * (a % 64))) ||| (if a % 64 = 0 then 0 else hi.1 <<< (8 * (64 - a % 64))), lo.2 || hi.2)

/-- Lines and bytes of a preload's writes (R164): PDST in 64-byte units, wrapping in scratch. A source line in scratch
reads as before the preload or as its earlier lines left it, free (R150). -/
def preloadWrites (s : State) (c : Nat) (x : Copy) (p : Nat × Nat × Nat) : State :=
  let s0 := s
  let n := s.free
  let s := if (preloadLines p).any s.isScratch then s.drawn else s
  forEach (List.range p.2.2) s fun s i =>
    let a := p.1 + 64 * i
    let d := s0.preloadLine c x.got a
    let d := if s.isScratch (a / 64 * 64 % 2 ^ 48) || s.isScratch ((a + 63) / 64 * 64 % 2 ^ 48) then
        let e := s.preloadLine c x.got a
        (mixLine n i d.1 e.1, if Config.freeBool n (128 * i + 64) then d.2 else e.2)
      else d
    scrPutLine s c ((p.2.1 + i) % 131072) fullMask d.1 d.2

/-! ## Completion (R151, R153) and flags (R149, R194, R204) -/

/-- A copy is finished: its writes are issued and acknowledged. -/
def Copy.finished (x : Copy) : Bool := x.wrote && x.unacked.isEmpty

/-- A copy still owes writes in a direction. -/
def Copy.owes (x : Copy) (dir : Nat) : Bool := if x.wrote then x.unacked.any (fun u => u.2 = dir) else x.dirs.contains dir

/-- Count an AOPBAD (R148, R161). -/
def aopBad (s : State) (c : Nat) : State := s.updCore c fun k => { k with stAopbad := satAdd k.stAopbad 1 }

/-- Direction number under which an error acknowledgement of a flag write itself is remembered: it suppresses the
completion flag alone (R166, R194). -/
def flagDir : Nat := 5

/-- A flag whose turn has come (R149, R194): discarded with AOPBAD, suppressed, written into scratch, or sent. -/
def sendFlag (s : State) (c ch : Nat) (f : Flag) : State :=
  let w := f.cmd.word
  let da := fld w 111 64 / 4 * 4
  let add := decide (fld w 120 118 = 4)
  let drop := fun (s : State) =>
    complete (s.updChan c ch fun k => { k with flags := k.flags.filter fun g => decide (g.cmd.id ≠ f.cmd.id) }) c w
  let kind := s.kind da
  let unserved := match kind with
    | .scratch _ _ => true
    | .host _ _ => true
    | _ => false
  if add && unserved then drop (aopBad s c)
  else if f.bad then drop s
  else if s.isScratch da then drop (scrPut s c (scratchOff da) (bytesOf 4 (fld w 47 16)))
  else
    let s := s.updChan c ch fun k => { k with flags := k.flags.map fun g => if g.cmd.id = f.cmd.id then { g with sent := true } else g }
    let s := if add then s.updCore c fun k => { k with didAddFlag := true } else s
    let s := meter s c true [da / 64 * 64] 4
    issue s (.flag c ch f.cmd.id) (if add then .acc 4 else .write) (da / 64 * 64) (maskOf (da % 64) 4)
      (BitVec.ofNat 512 (fld w 47 16 * 2 ^ (8 * (da % 64)))) false 0

/-- Flags whose earlier data writes in their direction are all acknowledged are sent (R204). -/
def trySendFlags (s : State) (c ch : Nat) : State :=
  forEach ((s.core c).chan ch).flags s fun s f =>
    let k := (s.core c).chan ch
    if !f.sent && !(k.copies.any fun x => f.behind.contains x.cmd.id && x.owes f.dir) then sendFlag s c ch f else s

/-- A copy that is finished completes (R151); a finished preload is left to PRELOAD_COMPLETE. -/
def settleCopy (s : State) (c ch id : Nat) : State :=
  match ((s.core c).chan ch).copies.find? fun x => x.cmd.id = id with
  | none => s
  | some x =>
    let s := trySendFlags s c ch
    if x.finished && x.preload.isNone then complete (dropCopy s c ch id) c x.cmd.word else s

/-- All of a copy's lines are there and it may write (R150, R152): its writes are issued in iteration order, its
conversions' flags raised (R141), its bytes counted (R161, R375). -/
def finishReads (s : State) (c ch id : Nat) : State :=
  match ((s.core c).chan ch).copies.find? fun x => x.cmd.id = id with
  | none => s
  | some x =>
    if x.wrote || x.held || !x.todo.isEmpty || decide (x.got.length < x.lines.length) then s
    else
      let s := s.updSeq c fun q => { q with filter := q.filter.filter fun e => !(decide (e.ch = ch) && decide (e.copy = x.n)) }
      match x.preload with
      | some p =>
        let s := preloadWrites s c x p
        let s := s.updChan c ch fun k => { k with bytes := wrapAdd k.bytes (64 * p.2.2) }
        updCopy s c ch id fun x => { x with wrote := true }
      | none =>
        let j := s.copyJob x
        let rd : BitReader := fun b => let l := s.copyLine c x.got (bitLine b); (l.1.getLsbD (b % 512), l.2)
        let clash := j.overlaps
        let e := j.elems s.free (if clash then j.seen s.free rd else fun _ _ => rd)
        let s := if clash || j.manyRegions then s.drawn else s
        let ws := j.writes (fun l => (s.copyLine c x.got l).1) e.1
        let s := raiseSt s c e.2
        let b := j.bytes
        let s := s.updChan c ch fun k => { k with bytes := wrapAdd k.bytes (max b.1 b.2) }
        let s := meter s c true (ws.map (·.da)) b.2
        let s := updCopy (if x.runAhead then releaseLines s x.lines else s) c ch id fun x => { x with wrote := true, got := [] }
        let r := ws.foldl (fun (a : State × Bool × List (Nat × Nat)) w =>
          let r := putWrite a.1 c ch x.n j.aop j.dst.page w
          (r.1, a.2.1 || r.2.1, a.2.2 ++ r.2.2)) (s, false, [])
        let s := if j.aop ≠ 0 ∧ r.2.2 ≠ [] then r.1.updCore c fun k => { k with didAcc := true } else r.1
        let s := updCopy s c ch id fun x => { x with unacked := x.unacked ++ r.2.2 }
        settleCopy (if r.2.1 then aopBad s c else s) c ch id

/-! ## Starting (R127, R135, R152, R158, R470) -/

/-- A gather or scatter list as it reads: all ones from a poisoned line; the first such line (R144, R156, R470). -/
def State.readList (s : State) (c : Nat) (w : EngCmd) : List (BitVec 128) × Option Nat :=
  if opcOf w = 1 then ([], none)
  else
    let n := fld w 113 98 + 1
    let a := fld w 97 79 * 16
    ((List.range n).map fun i => BitVec.ofNat 128 (ofBytes (s.engBytes c (a + 16 * i) 16)), s.scrPoison c a (16 * n))

/-- Offsets of a command's descriptors in scratch. -/
def srcdOff (w : EngCmd) : Nat := fld w 63 47 * 64
def dstdOff (w : EngCmd) : Nat := fld w 46 30 * 64

/-- A descriptor as scratch holds it. -/
def State.descBits (s : State) (c off : Nat) : BitVec 512 := lineOf (s.scrBytes c off 64)

/-- The command is refused at its start (R135, R470). -/
inductive CopyRefusal where
  | poison (line : Nat)
  | align (side dim unit : Nat)
  deriving DecidableEq, Repr

/-- The checks at the start of a copy, poison first (R158 step 1). DESIGN CHOICE (log 158): where both descriptors are
poisoned, or both fail R135, the source is the one named, and one poison is counted. -/
def State.copyCheck (s : State) (c : Nat) (w : EngCmd) : Option CopyRefusal :=
  match s.scrPoison c (srcdOff w) 64, s.scrPoison c (dstdOff w) 64 with
  | some l, _ => some (.poison l)
  | none, some l => some (.poison l)
  | none, none =>
    let sd := (s.descOf (s.descBits c (srcdOff w))).badDim
    let dd := (s.descOf (s.descBits c (dstdOff w))).badDim
    if sd ≠ 0 then some (.align 0 sd (fld w 63 47)) else if dd ≠ 0 then some (.align 1 dd (fld w 46 30)) else none

/-- The command's refusal takes effect: counted or posted, and its signal as of a completed command. -/
def refuseCopy (s : State) (c ch : Nat) (w : EngCmd) (r : CopyRefusal) : State :=
  let s := match r with
    | .poison l => consumePoison s c (1 + ch) (scrDa c l)
    | .align side dim unit => s.updCore c fun k =>
        { k with
          stAlign := satAdd k.stAlign 1
          alignInfo := if tst k.alignInfo 63 then k.alignInfo
            else packW 64 [(63, 1), (62, ch), (61, side), (58, dim), (0, unit)] }
  complete (popHead s c (2 + ch)) c w

/-- A run-ahead load: RA, into scratch, from anywhere but scratch and the peer window (R152, R176). -/
def State.isRunAhead (s : State) (w : EngCmd) (src dst : Desc) : Bool :=
  decide (opcOf w = 1) && tst w 113 && dst.scr && (match s.kind src.base with
    | .scratch _ _ => false
    | .peer _ _ => false
    | _ => true)

/-- Begin a copy's reads (R158 step 3): `held` while its command still waits (R152). -/
def beginCopy (s : State) (c ch : Nat) (q : QCmd) (held : Bool) : State :=
  let w := q.word
  let src := s.descBits c (srcdOff w)
  let dst := s.descBits c (dstdOff w)
  let ra := s.isRunAhead w (s.descOf src) (s.descOf dst)
  let lst := s.readList c w
  let s := match lst.2 with
    | some l => consumePoison s c (1 + ch) (scrDa c l)
    | none => s
  let n := (s.core c).seq.nextCopy
  let x : Copy := {
    n := n, cmd := q, src := src, dst := dst, preload := none, list := lst.1, lines := [], todo := [], got := [], dirs := [],
    unacked := [], wrote := false, runAhead := ra, held := held, hits := 0 }
  let j := s.copyJob x
  let lines := s.copyLines x
  let srcs := j.readLines.filter fun a => !s.isScratch a
  let ask := if held then lines.take 1024 else lines
  let x := { x with lines := lines, todo := lines.drop ask.length, dirs := uniq (j.writeLines.map (s.dirOf c)) }
  let s := s.updCore c fun k =>
    let h := k.chan ch
    let k := k.setChan ch { h with copies := h.copies ++ [x] }
    let lo := srcs.foldl min (srcs.headD 0)
    let hi := srcs.foldl max 0 + 64
    { k with seq := { k.seq with
        nextCopy := n + 1
        filter := if ra && !srcs.isEmpty then k.seq.filter ++ [{ ch := ch, copy := n, lo := lo, hi := hi }]
          else k.seq.filter } }
  let s := meter s c false srcs j.bytes.1
  finishReads (askLines s c ch n x.srcHint ask) c ch q.id

/-- A command of channel ch that starts leaves its queue: ST_COPY, ST_GATHER or ST_SCATTER (R155, R156, R158). A
run-ahead load that has read already goes on where it stands, or reads afresh after a second hit (R176); one whose
descriptors are no longer what it read begins as the descriptors say now (R155). -/
def startCopy (s : State) (c ch : Nat) (q : QCmd) : State :=
  match ((s.core c).chan ch).copies.find? fun x => x.cmd.id = q.id with
  | some x =>
    match s.copyCheck c q.word with
    | some r => refuseCopy (dropCopy s c ch q.id) c ch q.word r
    | none =>
      if s.descBits c (srcdOff q.word) = x.src ∧ s.descBits c (dstdOff q.word) = x.dst then
        let s := updCopy (popHead s c (2 + ch)) c ch q.id fun x => { x with cmd := q, held := false, todo := [] }
        let s := if x.todo.isEmpty then s else askLines s c ch x.n x.srcHint x.todo
        finishReads s c ch q.id
      else beginCopy (popHead (dropCopy s c ch q.id) c (2 + ch)) c ch q false
  | none =>
    if 4 ≤ ((s.core c).chan ch).copies.length then s
    else match s.copyCheck c q.word with
      | some r => refuseCopy s c ch q.word r
      | none => beginCopy (popHead s c (2 + ch)) c ch q false

/-- A run-ahead load at the head of its queue whose wait is not released, or that is speculative, begins its reads
(R152). -/
def earlyCopy (s : State) (c ch : Nat) : State :=
  match ((s.core c).chan ch).queue with
  | [] => s
  | q :: _ =>
    let w := q.word
    let k := (s.core c).chan ch
    if s.coreRuns c && decide (opcOf w = 1) && decide (k.copies.length < 4) && !(k.copies.any fun x => x.cmd.id = q.id) &&
        (s.copyCheck c w).isNone &&
        s.isRunAhead w (s.descOf (s.descBits c (srcdOff w))) (s.descOf (s.descBits c (dstdOff w))) then
      beginCopy s c ch q true
    else s

/-- The preload of a leg as a copy of channel 0 (R164, R471). -/
def beginPreload (s : State) (c psrc pdst plen : Nat) : State :=
  let id := (s.core c).seq.nextId
  let n := (s.core c).seq.nextCopy
  let x : Copy := {
    n := n, cmd := { id := id, word := 0, spec := 0, released := false }, src := 0, dst := 0,
    preload := some (psrc, pdst, min plen 131072), list := [], lines := [], todo := [], got := [], dirs := [], unacked := [],
    wrote := false, runAhead := false, held := false, hits := 0 }
  let lines := s.copyLines x
  let s := s.updCore c fun k =>
    { k with
      ch0 := { k.ch0 with copies := k.ch0.copies ++ [{ x with lines := lines }] }
      seq := { k.seq with nextId := id + 1, nextCopy := n + 1 } }
  let s := meter s c false lines (64 * min plen 131072)
  finishReads (askLines s c 0 n 0 lines) c 0 id

/-! ## The rows of the table -/

/-- ST_NOP: its synchronisation fields alone (R157). -/
def execStNop (c ch : Nat) (s : State) : Answer :=
  .next (match s.headOp c (2 + ch) (· = 0) with
    | some q => complete (popHead s c (2 + ch)) c q.word
    | none => s)

/-- ST_COPY (R152, R155, R158). -/
def execStCopy (c ch : Nat) (s : State) : Answer :=
  .next (match s.headOp c (2 + ch) (· = 1) with
    | some q => startCopy s c ch q
    | none => earlyCopy s c ch)

/-- ST_GATHER (R145, R156). -/
def execStGather (c ch : Nat) (s : State) : Answer :=
  .next (match s.headOp c (2 + ch) (· = 2) with
    | some q => startCopy s c ch q
    | none => s)

/-- ST_SCATTER (R146, R156). -/
def execStScatter (c ch : Nat) (s : State) : Answer :=
  .next (match s.headOp c (2 + ch) (· = 3) with
    | some q => startCopy s c ch q
    | none => s)

/-- ST_FLAG leaves its queue and waits for the data writes of its direction (R149, R204). -/
def execStFlag (c ch : Nat) (s : State) : Answer :=
  .next (match s.headOp c (2 + ch) (· = 4) with
    | some q =>
      let da := fld q.word 111 64 / 4 * 4
      let s := popHead s c (2 + ch)
      let s := s.updChan c ch fun k => { k with
        flags := k.flags ++ [{ cmd := q, sent := false, dir := s.dirOf c da, behind := k.copies.map (·.cmd.id), bad := k.supp.contains (s.dirOf c da) }] }
      trySendFlags s c ch
    | none => s)

/-- A reserved stream opcode: as ST_NOP, counted (R154). -/
def execReservedStOpcode (c ch : Nat) (s : State) : Answer :=
  .next (match s.headOp c (2 + ch) (5 ≤ ·) with
    | some q =>
      complete ((popHead s c (2 + ch)).updCore c fun k => { k with stBadop := satAdd k.stBadop 1 }) c q.word
    | none => s)

/-- The first answer in a core's inbox that a test picks, and the inbox without it. -/
def takeRsp (l : List Rsp) (p : Rsp → Bool) : Option (Rsp × List Rsp) :=
  (l.find? p).map fun a => (a, l.erase a)

/-- Read data arrives for a channel's copy; with the last line its writes go out (R158). An answer to a copy that is
gone, or to reads that restarted, is dropped. -/
def execStReadReturn (c ch : Nat) (s : State) : Answer :=
  .next (match takeRsp (s.inboxOf c) fun a => a.isRead && (match a.own with
      | .copy _ h _ => h = ch
      | _ => false) with
    | none => s
    | some (a, rest) =>
      let s := s.updCore c fun k => { k with inbox := rest }
      match a.own with
      | .copy _ _ n => match s.copyNum c ch n with
        | some x =>
          finishReads (updCopy s c ch x.cmd.id fun x => { x with got := x.got ++ [(a.da, a.data, a.bad)] }) c ch x.cmd.id
        | none => s
      | _ => s)

/-- A write of the copy in direction d met an error acknowledgement (R194): a flag already waiting behind the copy in that
direction, and every later one of the leg, is not written. -/
def markBad (s : State) (c ch id d : Nat) : State :=
  s.updChan c ch fun k => { k with
    supp := insertNat d k.supp
    flags := k.flags.map fun f => if f.dir = d ∧ f.behind.contains id then { f with bad := true } else f }

/-- A write acknowledgement arrives at a channel (R151): the copy's write is done, an error remembered for the flag rule
(R194); a copy may complete, a flag be sent or complete. -/
def execStWriteAck (c ch : Nat) (s : State) : Answer :=
  .next (match takeRsp (s.inboxOf c) fun a => !a.isRead && (match a.own with
      | .copy _ h _ => h = ch
      | .flag _ h _ => h = ch
      | _ => false) with
    | none => s
    | some (a, rest) =>
      let s := s.updCore c fun k => { k with inbox := rest }
      match a.own with
      | .copy _ _ n => match s.copyNum c ch n with
        | some x =>
          let d := ((x.unacked.find? fun u => u.1 = a.id).map Prod.snd).getD (s.dirOf c a.da)
          let s := updCopy s c ch x.cmd.id fun x => { x with unacked := x.unacked.filter fun u => decide (u.1 ≠ a.id) }
          settleCopy (if a.bad then markBad s c ch x.cmd.id d else s) c ch x.cmd.id
        | none => s
      | .flag _ _ id => match ((s.core c).chan ch).flags.find? fun f => f.cmd.id = id && f.sent with
        | some f =>
          let s := s.updChan c ch fun k => { k with
            flags := k.flags.filter fun g => decide (g.cmd.id ≠ id)
            supp := if a.bad then insertNat flagDir k.supp else k.supp }
          complete s c f.cmd.word
        | none => s
      | _ => s)

end Sys2Proof.Machine
end

