-- ==== Sys2Proof/Machine/Sequencer.lean ====
section
/-!
DEFINITION. The core sequencer (R162 to R181, R471, R472): legs and their headers, the fetch buffer, the instructions,
loops, branches and speculation, waits, the leg's end with its completion flag, semaphores settled.
-/
namespace Sys2Proof.Machine

/-! ## Headers (R162, R163) -/

def Seq.nleg (q : Seq) : Nat := fld q.coreHdr 79 64 + 1
def Seq.seed (q : Seq) : BitVec 32 := BitVec.ofNat 32 (fld q.coreHdr 63 32)
def Seq.cval (q : Seq) : Nat := fld q.legHdr 479 448
def Seq.cda (q : Seq) : Nat := fld q.legHdr 447 400 / 4 * 4
def Seq.code (q : Seq) : Nat := fld q.legHdr 399 352 / 8 * 8
def Seq.codew (q : Seq) : Nat := fld q.legHdr 351 332
def Seq.psrc (q : Seq) : Nat := fld q.legHdr 331 284
def Seq.pdst (q : Seq) : Nat := fld q.legHdr 283 267
def Seq.plen (q : Seq) : Nat := fld q.legHdr 266 249
def Seq.cadd (q : Seq) : Bool := tst q.legHdr 248

/-! ## Reads of the sequencer (R471) -/

/-- A read of one line by the sequencer: its own scratch at once, any other DA as a request. -/
def seqRead (s : State) (c : Nat) (own : Owner) (da : Nat) : State :=
  let l := da / 64 * 64
  if s.isScratch l then
    let o := scratchOff l
    let a : Rsp := { id := s.nextRq, own := own, da := l, isRead := true, data := lineOf (s.scrBytes c o 64),
                     bad := (s.core c).poison.contains (o / 64) }
    { s with nextRq := s.nextRq + 1 }.updCore c fun k => { k with inbox := k.inbox ++ [a] }
  else issue s own .read l fullMask 0 false 0

/-- Read a 64-byte header at a DA as parts p and p + 1: one line, or two where it crosses. -/
def readHeader (s : State) (c p da : Nat) : State :=
  let ask := fun (s : State) (j l : Nat) =>
    seqRead (s.updSeq c fun q => { q with hdrs := q.hdrs ++ [(j, s.nextRq)] }) c (.list c j) l
  let s := ask s p (da / 64 * 64)
  if da % 64 = 0 then s else ask s (p + 1) ((da / 64 + 1) * 64 % 2 ^ 48)

/-- DA of a core's leg list in the booked plan (R351). -/
def State.listDa (s : State) (c : Nat) : Nat :=
  match s.dev.plan, s.logicalOf c with
  | some p, some l => nth p.lists l 0
  | _, _ => 0

/-- The sequencer turns to leg k: its headers are read, the core's too where asked (R162, R164). -/
def beginLeg (s : State) (c k : Nat) (both : Bool) : State :=
  let s := s.updSeq c fun q => { q with
    phase := .header, leg := k, hdrs := [], legHdr := 0, coreHdr := if both then 0 else q.coreHdr, wait := .none, run := none }
  let s := if both then readHeader s c 0 (s.listDa c) else s
  readHeader s c 2 ((s.listDa c + 64 * (k + 1)) % 2 ^ 48)

/-- A header with what a line brings of it: part 0 or 2 the line it starts in, part 1 or 3 the next. -/
def joinHeader (old line : BitVec 512) (da : Nat) (second : Bool) : BitVec 512 :=
  let o := da % 64
  if second then old ||| (line <<< (8 * (64 - o))) else old ||| (line >>> (8 * o))

/-! ## The fetch buffer (R472) -/

/-- Number of the line of word i, from the line in which CODE lies. -/
def Seq.lineOfWord (q : Seq) (i : Nat) : Nat := (q.code % 64 + 8 * i) / 64

/-- Word i as the fetch buffer holds it: the word, and that its line is poisoned. -/
def Seq.word (q : Seq) (i : Nat) : Option (BitVec 64 × Bool) :=
  match q.fetch.find? fun e => e.1 = q.lineOfWord i with
  | some (_, d, bad) => some (BitVec.ofNat 64 (fld d (8 * ((q.code + 8 * i) % 64) + 63) (8 * ((q.code + 8 * i) % 64))), bad)
  | none => none

/-- Lines wanted and neither held nor being read: that of PC, then up to 32 ahead, within the leg's code. -/
def Seq.wanted (q : Seq) : List Nat :=
  let l := q.lineOfWord q.pc
  ((List.range 33).map (l + ·)).filter fun i => decide (i ≤ q.lineOfWord q.codew) &&
    !(q.fetch.any fun e => e.1 = i) && !(q.fetching.any fun e => e.1 = i)

/-- Fetch ahead of the word being decoded (R472). -/
def fetchAhead (s : State) (c : Nat) : State :=
  if (s.core c).seq.phase = .decode then
    forEach (s.core c).seq.wanted s fun s i =>
      let da := ((s.core c).seq.code / 64 * 64 + 64 * i) % 2 ^ 48
      seqRead (s.updSeq c fun q => { q with fetching := q.fetching ++ [(i, s.nextRq)] }) c (.fetch c i) da
  else s

/-! ## Registers, loops (R169, R173) -/

def Seq.reg (q : Seq) (i : Nat) : BitVec 32 := nth q.g i 0

/-- An LDW has not written the register yet (R172). -/
def Seq.awaits (q : Seq) (i : Nat) : Bool := q.awaited.any fun e => e.1 = i

/-- The request that brings an awaited register's word. -/
def Seq.awaitRq (q : Seq) (i : Nat) : Option Nat := (q.awaited.find? fun e => e.1 = i).map fun e => e.2.1

/-- Write a register; an LDW still under way for it is overtaken. -/
def Seq.setReg (q : Seq) (i : Nat) (v : BitVec 32) : Seq :=
  { q with g := q.g.set i v, awaited := q.awaited.filter fun e => decide (e.1 ≠ i) }

/-- The word `last` has been decoded: loop bodies that end there go round or are popped, innermost first (R173). The
word to go to, where a body goes round. A level whose count is awaited predicts another iteration (R175). -/
def loopEnds : Nat → Seq → Nat → Seq × Option Nat
  | 0, q, _ => (q, none)
  | k + 1, q, last => match q.loops with
    | [] => (q, none)
    | l :: ls =>
      if l.last ≠ last then (q, none)
      else if l.j + 1 < l.count then
        let q : Seq := match l.pred with
          | none => q
          | some rq => { q with specs := q.specs ++
              [{ rq := rq, pred := .iter (l.j + 1) last, g := q.g, loops := ls, awaited := q.awaited }] }
        (Seq.setReg { q with loops := { l with j := l.j + 1 } :: ls } l.ireg (BitVec.ofNat 32 (l.j + 1)), some l.first)
      else loopEnds k { q with loops := ls } last

/-- Go to a word: past CODEW the leg stops decoding (R164, R174). -/
def Seq.goto (q : Seq) (pc : Nat) : Seq :=
  if q.codew < pc then { q with pc := pc, phase := .drain, run := none } else { q with pc := pc, phase := .decode }

/-- After word i: the next one, or where a loop leads (R173). -/
def Seq.after (q : Seq) (i : Nat) : Seq :=
  match loopEnds 5 q i with
  | (q, some t) => q.goto t
  | (q, none) => q.goto (i + 1)

/-- Levels whose body does not hold a target are popped (R174). -/
def Seq.popTo (q : Seq) (target : Nat) : Seq := { q with loops := q.loops.dropWhile fun l => decide (l.last < target) }

/-- A taken BRNZ (R174). -/
def Seq.jump (q : Seq) (target : Nat) : Seq := (q.popTo target).goto target

/-! ## Decoding (R171, R172) -/

/-- The opcode of a sequencer instruction (R169). -/
def seqOp (w : BitVec 64) : Nat := fld w 63 58

/-- Decoding may take a word now: the leg decodes, nothing stops it, both buffers have room (R172). -/
def State.mayDecode (s : State) (c : Nat) : Bool :=
  let k := s.core c
  s.coreRuns c && decide (k.seq.phase = .decode) && decide (k.seq.wait = .none) && decide (k.inFlight < 1024) &&
    decide (k.seq.hold.length < 800)

/-- The instruction at PC, if it can be decoded now and its opcode passes a test; not inside an ENG run. -/
def State.instrAt (s : State) (c : Nat) (p : Nat → Bool) : Option (BitVec 64) :=
  let q := (s.core c).seq
  if s.mayDecode c && q.run.isNone then
    match q.word q.pc with
    | some (w, false) => if p (seqOp w) then some w else none
    | _ => none
  else none

/-- Decoding meets poison: it stops there and the leg never completes (R255). -/
def stickAt (s : State) (c da : Nat) : State :=
  consumePoison (s.updSeq c fun q => { q with phase := .stuck }) c 6 da

/-- The word at PC lies in a poisoned line. -/
def State.pcPoisoned (s : State) (c : Nat) : Bool :=
  match (s.core c).seq.word (s.core c).seq.pc with
  | some (_, bad) => bad
  | none => false

/-- Where poison stands at PC and decoding has come to it, it stops. -/
def meetPoison (s : State) (c : Nat) : State :=
  let q := (s.core c).seq
  if decide (q.phase = .decode) && decide (q.wait = .none) && s.pcPoisoned c then stickAt s c ((q.code + 8 * q.pc) % 2 ^ 48)
  else s

/-- Decoding goes on from an updated sequencer: lines are fetched ahead, poison is met. -/
def advance (s : State) (c : Nat) (f : Seq → Seq) : State := meetPoison (fetchAhead (s.updSeq c f) c) c

/-- One plain instruction: its effect on the sequencer, then the next word. -/
def plain (s : State) (c : Nat) (f : Seq → Seq) : State := advance s c fun q => (f q).after q.pc

/-! ## Legs (R164, R165) -/

/-- The state every leg starts from (R57, R88, R100, R153, R165, R472). Command and copy numbers go on. Where a spare repeats a
leg whose timer runs, timer and posted breaches stand (R371). -/
def Core.legState (k : Core) (step : BitVec 32) (seed : BitVec 32) (leg : Nat) : Core :=
  { k with
    seq := { k.seq with
      pc := 0, g := List.replicate 16 0, awaited := [], run := none, loops := [], hold := [], fetch := [], fetching := [],
      wait := .none, specs := [], sems := List.replicate 32 0, signals := [], filter := [], waitfs := 0 }
    mx := { k.mx with
      queue := [], banks := List.replicate 4 AccBank.reset, layouts := List.replicate 8 Layout.reset, basket := [],
      mmas := [], drains := [] }
    vx := { k.vx with
      queue := [], tregs := [], masks := List.replicate 8 (BitVec.allOnes 1024), sregs := List.replicate 16 0, rows := [],
      stages := List.replicate 8 Stage.reset, lanes := (List.range 256).map (laneState seed step leg), taking := none,
      run := none }
    ch0 := { k.ch0 with queue := [], copies := [], flags := [], supp := [] }
    ch1 := { k.ch1 with queue := [], copies := [], flags := [], supp := [] }
    ck := Ck.reset
    alignInfo := k.alignInfo &&& (BitVec.allOnes 64 >>> 1)
    didAcc := false
    didAddFlag := false
    dem := { k.dem with
      stackedBytes := 0, offBytes := 0, mxCycles := 0, vxCycles := 0, ckCycles := 0
      legPosted := k.dem.timing && k.dem.legPosted, waitPosted := if k.dem.timing then k.dem.waitPosted else []
      legTimer := if k.dem.timing then k.dem.legTimer else 0, timing := true } }

/-- LEG_START: step 1 of R164 with its headers read; the preload is issued, or decoding begins. The ledger keeps the
fabric cycle of the start (R381). -/
def execLegStart (c : Nat) (s : State) : Answer :=
  .next (
    let q := (s.core c).seq
    if s.coreRuns c && decide (q.phase = .header) && q.hdrs.isEmpty then
      let s := s.updCore c fun k => k.legState s.dev.step q.seed q.leg
      let s := match s.logicalOf c with
        | some l => s.updTile (tileOfCore c) fun t => { t with legStart := t.legStart.set (l % 16) (s.cycles (.fabric (tileOfCore c))) }
        | none => s
      if q.plen = 0 then advance s c fun q => { q with phase := .decode }
      else beginPreload (s.updSeq c fun q => { q with phase := .preload }) c q.psrc q.pdst q.plen
    else s)

/-- PRELOAD_COMPLETE: the preload's writes are done; decoding begins at CODE (R164). -/
def execPreloadComplete (c : Nat) (s : State) : Answer :=
  .next (
    if s.coreRuns c && decide ((s.core c).seq.phase = .preload) then
      match (s.core c).ch0.copies.find? fun x => x.preload.isSome && x.finished with
      | some x => advance (dropCopy s c 0 x.cmd.id) c fun q => { q with phase := .decode }
      | none => s
    else s)

/-- FETCH_LINE_RETURN: a code line, or a line of the leg list, comes back (R162, R471, R472); poison in a header stops
the core (R255). -/
def execFetchLineReturn (c : Nat) (s : State) : Answer :=
  .next (match takeRsp (s.inboxOf c) fun a => (match a.own with
      | .fetch _ _ => true
      | .list _ _ => true
      | _ => false) with
    | none => s
    | some (a, rest) =>
      let s := s.updCore c fun k => { k with inbox := rest }
      match a.own with
      | .fetch _ i =>
        if (s.core c).seq.fetching.contains (i, a.id) then
          advance s c fun q => { q with
            fetching := q.fetching.erase (i, a.id)
            fetch := (if q.fetch.length < 128 then q.fetch else q.fetch.tail) ++ [(i, a.data, a.bad)] }
        else s
      | .list _ j =>
        if (s.core c).seq.hdrs.contains (j, a.id) then
          let s := s.updSeq c fun q => { q with hdrs := q.hdrs.erase (j, a.id) }
          if a.bad then stickAt s c a.da
          else s.updSeq c fun q =>
            let da := if j < 2 then s.listDa c else s.listDa c + 64 * (q.leg + 1)
            if j < 2 then { q with coreHdr := joinHeader q.coreHdr a.data da (j = 1) }
            else { q with legHdr := joinHeader q.legHdr a.data da (j = 3) }
        else s
      | _ => s)

/-! ## Instructions (R169) -/

/-- SNOP. -/
def execSnop (c : Nat) (s : State) : Answer :=
  .next (match s.instrAt c (· = 0) with
    | some _ => plain s c id
    | none => s)

/-- The offset fields of a command (R170): first and second, as high and low bit. -/
def offsetFields (eng : Nat) (w : EngCmd) : Option (Nat × Nat) × Option (Nat × Nat) :=
  let a := some (63, 47)
  let b := some (46, 30)
  match eng, opcOf w with
  | 0, 1 => (a, b)
  | 0, 3 => (a, none)
  | 0, 4 => (a, none)
  | 1, 5 => (a, none)
  | 1, 6 => (a, none)
  | 1, 7 => (some (63, 32), none)
  | 1, 9 => (a, b)
  | 2, 1 => (a, b)
  | 2, 2 => (a, b)
  | 2, 3 => (a, b)
  | 2, 4 => (some (111, 64), some (47, 16))
  | 3, 1 => (some (111, 64), some (63, 32))
  | 3, 2 => (some (63, 41), none)
  | 3, 3 => (some (63, 32), none)
  | 3, 4 => (some (63, 41), none)
  | _, _ => (none, none)

/-- A register added to a field, sign-extended to a wider one, modulo its width (R170). -/
def addOffset (w : EngCmd) (f : Option (Nat × Nat)) (g : Option (BitVec 32)) : EngCmd :=
  match f, g with
  | some (hi, lo), some v => setFld w hi lo (((fld w hi lo : Nat) + v.toInt) % (2 : Int) ^ (hi + 1 - lo)).toNat
  | _, _ => w

/-- The queue of a command that an ENG names: engines 0, 1, then the channel by its CH bit, then 4. -/
def queueOf (eng : Nat) (w : EngCmd) : Nat := if eng = 2 then 2 + b2n (tst w 121) else if eng = 3 then 4 else eng

/-- One command of an ENG run is decoded and dispatched (R170 to R172). An ENG run that leaves the code ends the
leg's decoding. The flag tells that it went. -/
def dispatchOne (s : State) (c : Nat) : State × Bool :=
  let q := (s.core c).seq
  match q.run with
  | none => (s, false)
  | some r =>
    if !s.mayDecode c then (s, false)
    else if q.codew < q.pc + 1 then (advance s c fun q => { q with phase := .drain, run := none }, false)
    else match q.word q.pc, q.word (q.pc + 1) with
      | some (w0, false), some (w1, false) =>
        let w : EngCmd := BitVec.ofNat 128 (w0.toNat + 2 ^ 64 * w1.toNat)
        let f := offsetFields r.eng w
        let w := addOffset (addOffset w f.1 r.ofa) f.2 r.ofb
        let cmd : QCmd := { id := q.nextId, word := w, spec := q.specs.length, released := false }
        let s := s.updCore c fun k =>
          { k with seq := { k.seq with nextId := k.seq.nextId + 1 } }.dispatch (queueOf r.eng w) cmd
        (advance s c fun q =>
          let left := if r.left ≤ 1 then none else some { r with left := r.left - 1 }
          match loopEnds 5 q q.pc with
          | (q', some t) => { q' with run := none }.goto t
          | (q', none) => match loopEnds 5 q' (q.pc + 1) with
            | (q'', some t) => { q'' with run := none }.goto t
            | (q'', none) => { q'' with run := left }.goto (q.pc + 2), true)
      | some (_, false), some (_, true) =>
        (stickAt s c ((q.code + 8 * (q.pc + 1)) % 2 ^ 48), false)
      | _, _ => (s, false)

/-- Commands of the run as far as they can be decoded. -/
def dispatchRun : Nat → State → Nat → State
  | 0, s, _ => s
  | k + 1, s, c => match dispatchOne s c with
    | (s, true) => dispatchRun k s c
    | (s, false) => s

/-- ENG: the next N + 1 commands go to one engine (R169, R170); an ENG whose offset registers are awaited stops
decoding (R172). A run that stopped for want of room or code goes on. -/
def execEng (c : Nat) (s : State) : Answer :=
  .next (
    if (s.core c).seq.run.isSome then dispatchRun 256 s c
    else match s.instrAt c (· = 1) with
      | some w =>
        let q := (s.core c).seq
        let ga := fld w 46 43
        let gb := fld w 41 38
        if (tst w 47 && q.awaits ga) || (tst w 42 && q.awaits gb) then s
        else
          let r : EngRun := { eng := fld w 57 56, left := fld w 55 48 + 1,
                              ofa := if tst w 47 then some (q.reg ga) else none,
                              ofb := if tst w 42 then some (q.reg gb) else none }
          let s := advance s c fun q => match loopEnds 5 q q.pc with
            | (q, some t) => q.goto t
            | (q, none) => { q with run := some r }.goto (q.pc + 1)
          dispatchRun 256 s c
      | none => s)

/-- SETI. -/
def execSeti (c : Nat) (s : State) : Answer :=
  .next (match s.instrAt c (· = 2) with
    | some w => plain s c fun q => q.setReg (fld w 57 54) (BitVec.ofNat 32 (fld w 31 0))
    | none => s)

/-- ADDI. -/
def execAddi (c : Nat) (s : State) : Answer :=
  .next (match s.instrAt c (· = 3) with
    | some w =>
      let q := (s.core c).seq
      if q.awaits (fld w 53 50) then s
      else plain s c fun q => q.setReg (fld w 57 54) (q.reg (fld w 53 50) + BitVec.ofNat 32 (fld w 31 0))
    | none => s)

/-- MADI, IMM unsigned. -/
def execMadi (c : Nat) (s : State) : Answer :=
  .next (match s.instrAt c (· = 4) with
    | some w =>
      let q := (s.core c).seq
      if q.awaits (fld w 53 50) || q.awaits (fld w 49 46) then s
      else plain s c fun q => q.setReg (fld w 57 54)
        (q.reg (fld w 53 50) * BitVec.ofNat 32 (fld w 15 0) + q.reg (fld w 49 46))
    | none => s)

/-- ANDI. -/
def execAndi (c : Nat) (s : State) : Answer :=
  .next (match s.instrAt c (· = 5) with
    | some w =>
      let q := (s.core c).seq
      if q.awaits (fld w 53 50) then s
      else plain s c fun q => q.setReg (fld w 57 54) (q.reg (fld w 53 50) &&& BitVec.ofNat 32 (fld w 31 0))
    | none => s)

/-- LDW: a read of the word at DA + Ga is issued and metered; Gd is awaited (R169, R172, R375). It may read while speculative
(R175). -/
def execLdw (c : Nat) (s : State) : Answer :=
  .next (match s.instrAt c (· = 6) with
    | some w =>
      let q := (s.core c).seq
      if q.awaits (fld w 53 50) then s
      else
        let a := (((fld w 47 0 : Nat) + (q.reg (fld w 53 50)).toInt) % (2 : Int) ^ 48).toNat / 4 * 4
        let d := fld w 57 54
        let rq := s.nextRq
        let s := meter s c false [a / 64 * 64] 4
        let s := s.updSeq c fun q => { q with awaited := (q.awaited.filter fun e => decide (e.1 ≠ d)) ++ [(d, rq, a % 64)] }
        plain (seqRead s c (.ldw c d) a) c id
    | none => s)

/-! ## Speculation (R175) -/

/-- The commands that stand behind more than i predictions are discarded, with their run-ahead data (R175). -/
def discardBehind (s : State) (c i : Nat) : State :=
  let s := forEach [0, 1] s fun s ch =>
    forEach (((s.core c).chan ch).copies.filter fun x => x.held && decide (i < x.cmd.spec)) s fun s x => dropCopy s c ch x.cmd.id
  s.updCore c fun k =>
    let keep := fun (q : QCmd) => decide (q.spec ≤ i)
    let k := [0, 1, 2, 3, 4].foldl (fun (k : Core) e => k.setQueue e ((k.queue e).filter keep)) k
    { k with seq := { k.seq with hold := k.seq.hold.filter fun h => keep h.cmd } }.refill

/-- Prediction i is right: commands behind it stand behind one fewer. -/
def renumber (s : State) (c i : Nat) : State :=
  s.updCore c fun k =>
    let f := fun (q : QCmd) => if i < q.spec then { q with spec := q.spec - 1 } else q
    let k := [0, 1, 2, 3, 4].foldl (fun (k : Core) e => k.setQueue e ((k.queue e).map f)) k
    { k with
      seq := { k.seq with specs := k.seq.specs.eraseIdx i, hold := k.seq.hold.map fun h => { h with cmd := f h.cmd } }
      ch0 := { k.ch0 with copies := k.ch0.copies.map fun x => { x with cmd := f x.cmd } }
      ch1 := { k.ch1 with copies := k.ch1.copies.map fun x => { x with cmd := f x.cmd } } }

/-- A prediction holds for the word that arrived. -/
def Pred.holds (p : Pred) (v : BitVec 32) : Bool :=
  match p with
  | .brnz _ => v = 0
  | .iter j _ => decide (j < v.toNat)

/-- The other path is taken up where prediction i was wrong: later commands are discarded, SPECMISS counts. DESIGN CHOICE
(log 161): BADOP and LOOPDEPTH keep what instructions of the abandoned path have counted. -/
def takeOtherPath (s : State) (c i : Nat) (p : Spec) : State :=
  let s := discardBehind s c i
  advance s c fun q =>
    let q := { q with
      g := p.g, loops := p.loops, awaited := p.awaited, specs := q.specs.take i, run := none, wait := .none,
      specmiss := satAdd q.specmiss 1 }
    match p.pred with
    | .brnz t => q.jump t
    | .iter _ last => q.after last

/-- Resolve every prediction on request rq, oldest first, with the word it brought (R175). -/
def resolve : Nat → State → Nat → Nat → BitVec 32 → State
  | 0, s, _, _, _ => s
  | k + 1, s, c, rq, v => match (s.core c).seq.specs.findIdx? fun p => p.rq = rq with
    | none => s
    | some i => match (s.core c).seq.specs[i]? with
      | none => s
      | some p => if p.pred.holds v then resolve k (renumber s c i) c rq v else takeOtherPath s c i p

/-- A level whose count is awaited from rq takes the word. -/
def Lvl.arrive (l : Lvl) (rq : Nat) (v : BitVec 32) : Lvl :=
  if l.pred = some rq then { l with count := min v.toNat l.count, pred := none } else l

/-- Registers awaited from rq take the word. -/
def arriveRegs (g : List (BitVec 32)) (aw : List (Nat × Nat × Nat)) (rq : Nat) (v : BitVec 32) : List (BitVec 32) :=
  aw.foldl (fun g e => if e.2.1 = rq then g.set e.1 v else g) g

/-- LDW_RETURN: an LDW's word arrives; the register is written, here and on the paths not taken, and predictions on it
are resolved (R175). Poison gives 0xFFFF_FFFF (R255). -/
def execLdwReturn (c : Nat) (s : State) : Answer :=
  .next (match takeRsp (s.inboxOf c) fun a => (match a.own with
      | .ldw _ _ => true
      | _ => false) with
    | none => s
    | some (a, rest) =>
      let s := s.updCore c fun k => { k with inbox := rest }
      let q := (s.core c).seq
      let known := (q.awaited ++ q.specs.flatMap (·.awaited)).find? fun e => e.2.1 = a.id
      match known with
      | none => s
      | some (_, _, off) =>
        let v : BitVec 32 := if a.bad then 0xFFFFFFFF else BitVec.ofNat 32 (fld a.data (8 * off + 31) (8 * off))
        let s := if a.bad then consumePoison s c 6 (a.da + off) else s
        let s := s.updSeq c fun q => { q with
          g := arriveRegs q.g q.awaited a.id v
          awaited := q.awaited.filter fun e => decide (e.2.1 ≠ a.id)
          loops := q.loops.map fun l => l.arrive a.id v
          specs := q.specs.map fun p => { p with
            g := arriveRegs p.g p.awaited a.id v
            awaited := p.awaited.filter fun e => decide (e.2.1 ≠ a.id)
            loops := p.loops.map fun l => l.arrive a.id v } }
        fetchAhead (resolve ((s.core c).seq.specs.length + 1) s c a.id v) c)

/-! ## Semaphores and waits -/

/-- SEMS: a signal by the sequencer, applied as it is decoded (R169, R177); a speculative one waits (R175). DESIGN CHOICE (log 159): decoding
waits at a speculative SEMS, as R172 says of the other three. -/
def execSems (c : Nat) (s : State) : Answer :=
  .next (match s.instrAt c (· = 7) with
    | some w =>
      if (s.core c).seq.specs.isEmpty then
        plain (applySignal s c (fld w 57 53) (BitVec.ofNat 16 (fld w 15 0)) (tst w 52)) c id
      else s
    | none => s)

/-- SEMW: decoding stops on the wait (R172, R178); a wait for 0 is released at once. DESIGN CHOICE (log 160): a speculative
one waits first, whatever its count (R175). -/
def execSemw (c : Nat) (s : State) : Answer :=
  .next (match s.instrAt c (· = 8) with
    | some w =>
      if !(s.core c).seq.specs.isEmpty then s
      else if fld w 15 0 = 0 then plain s c id
      else plain s c fun q => { q with wait := .semw (fld w 57 53) (tst w 52) (BitVec.ofNat 16 (fld w 15 0)) }
    | none => s)

/-- A wait entry of the plan declares the WAITF (R355). -/
def State.declaredWait (s : State) (c ordinal : Nat) : Bool :=
  match s.dev.plan, s.logicalOf c with
  | some p, some l => p.waits.any fun e =>
      decide (e.wcore = l) && decide (e.wleg = (s.core c).seq.leg) && decide (e.word = ordinal)
  | _, _ => true

/-- WAITF: decoding stops and the word is read (R172, R181); one that no wait entry declares exceeds the demand
(R375). -/
def execWaitf (c : Nat) (s : State) : Answer :=
  .next (match s.instrAt c (· = 9) with
    | some w =>
      let q := (s.core c).seq
      if !q.specs.isEmpty || q.awaits (fld w 55 52) then s
      else
        let da := fld w 47 0 / 4 * 4
        let s := if s.declaredWait c q.waitfs then s else setOver s c fun d => { d with undecl := true }
        let rq := s.nextRq
        plain (seqRead s c (.waitf c) da) c fun q => { q with
          waitfs := q.waitfs + 1
          wait := .waitf (fld w 57 56) (q.reg (fld w 55 52)) da (some rq) q.waitfs }
    | none => s)

/-- The comparisons of WAITF (R181). -/
def waitfHolds (cmp : Nat) (w v : BitVec 32) : Bool :=
  match cmp with
  | 0 => decide (v.toNat ≤ w.toNat)
  | 1 => w = v
  | 2 => w ≠ v
  | _ => serialGe w v

/-- WAITF_READ_RETURN: the word read releases decoding, or another read is due (R181); poison fails the comparison
(R255). -/
def execWaitfReadReturn (c : Nat) (s : State) : Answer :=
  .next (match takeRsp (s.inboxOf c) fun a => (match a.own with
      | .waitf _ => true
      | _ => false) with
    | none => s
    | some (a, rest) =>
      let s := s.updCore c fun k => { k with inbox := rest }
      match (s.core c).seq.wait with
      | .waitf cmp v da (some rq) o =>
        if rq ≠ a.id then s
        else
          let off := da % 64
          let w : BitVec 32 := BitVec.ofNat 32 (fld a.data (8 * off + 31) (8 * off))
          let s := if a.bad then consumePoison s c 6 da else s
          if !a.bad && waitfHolds cmp w v then advance s c fun q => { q with wait := .none }
          else s.updSeq c fun q => { q with wait := .waitf cmp v da none o }
      | _ => s)

/-- WAITF_REREAD: the next read of a WAITF that does not hold yet (R181). -/
def execWaitfReread (c : Nat) (s : State) : Answer :=
  .next (match (s.core c).seq.wait with
    | .waitf cmp v da none o =>
      if s.coreRuns c then
        let rq := s.nextRq
        (seqRead s c (.waitf c) da).updSeq c fun q => { q with wait := .waitf cmp v da (some rq) o }
      else s
    | _ => s)

/-- LOOP (R173, R175): a level, its body cut short at the enclosing body's end; a count of 0 skips it; beyond four
levels a SNOP; an awaited count predicts iterations. -/
def execLoopSeq (c : Nat) (s : State) : Answer :=
  .next (match s.instrAt c (· = 10) with
    | some w => advance s c fun q =>
        if 4 ≤ q.loops.length then Seq.after { q with loopdepth := satAdd q.loopdepth 1 } q.pc
        else
          let creg := fld w 57 54
          let most := fld w 15 0 + 1
          let last0 := q.pc + fld w 49 32 + 1
          let last := match q.loops with
            | [] => last0
            | l :: _ => min last0 l.last
          let n := if q.awaits creg then most else min (q.reg creg).toNat most
          if n = 0 ∨ last ≤ q.pc then q.after last
          else
            let pred := q.awaitRq creg
            let q : Seq := match pred with
              | none => q
              | some rq => { q with specs := q.specs ++
                  [{ rq := rq, pred := .iter 0 last, g := q.g, loops := q.loops, awaited := q.awaited }] }
            let l : Lvl := { first := q.pc + 1, last := last, count := n, j := 0, ireg := fld w 53 50, pred := pred }
            (Seq.setReg { q with loops := l :: q.loops } (fld w 53 50) 0).goto (q.pc + 1)
    | none => s)

/-- BRNZ (R174, R175): forward, OFFSET 0 a SNOP; on an awaited register predicted not taken. -/
def execBrnz (c : Nat) (s : State) : Answer :=
  .next (match s.instrAt c (· = 11) with
    | some w => advance s c fun q =>
        let a := fld w 57 54
        let off := fld w 23 0
        let t := q.pc + 1 + off
        if off = 0 then q.after q.pc
        else match q.awaitRq a with
          | some rq => Seq.after { q with specs := q.specs ++
              [{ rq := rq, pred := .brnz t, g := q.g, loops := q.loops, awaited := q.awaited }] } q.pc
          | none => if q.reg a = 0 then q.after q.pc else q.jump t
    | none => s)

/-- FENCE: decoding stops until the named engines are empty (R169, R174); a speculative one waits (R175).
DESIGN CHOICE (log 160): so does a speculative one with MASK 0. -/
def execFence (c : Nat) (s : State) : Answer :=
  .next (match s.instrAt c (· = 12) with
    | some w =>
      if !(s.core c).seq.specs.isEmpty then s
      else State.updCore (plain s c fun q => { q with wait := .fence (BitVec.ofNat 5 (fld w 57 53)) }) c Core.endFence
    | none => s)

/-- END: decoding stops for the leg (R164). -/
def execEndLeg (c : Nat) (s : State) : Answer :=
  .next (match s.instrAt c (· = 13) with
    | some _ => s.updSeq c fun q => { q with phase := .drain }
    | none => s)

/-- A reserved opcode: as SNOP, counted (R169). -/
def execReservedSeqOpcode (c : Nat) (s : State) : Answer :=
  .next (match s.instrAt c (14 ≤ ·) with
    | some _ => plain s c fun q => { q with badop := satAdd q.badop 1 }
    | none => s)

/-! ## The leg's end (R164 to R166, R381) -/

/-- Index of the logical core a core carries, in its tile's ledger. -/
def State.ledgerIndex (s : State) (c : Nat) : Nat := (s.logicalOf c).getD 0 % 16

/-- The leg's completion flag is acknowledged: the next leg begins, or the core has finished (R164 step 6). -/
def nextLeg (s : State) (c : Nat) : State :=
  let q := (s.core c).seq
  let s := s.updCore c fun k => { k with dem := { k.dem with timing := false } }
  if q.leg + 1 < q.nleg then beginLeg s c (q.leg + 1) false
  else s.updSeq c fun q => { q with phase := .finished }

/-- An answer that acknowledges the completion flag at once: it was not written, or written into scratch. -/
def ackFlag (s : State) (c : Nat) : State :=
  let a : Rsp := { id := s.nextRq, own := .legFlag c, da := 0, isRead := false, data := 0, bad := false }
  { s with nextRq := s.nextRq + 1 }.updCore c fun k => { k with
    inbox := k.inbox ++ [a]
    seq := { k.seq with flagRq := a.id } }

/-- The completion flag is handed to the ledger of the tile's fabric island, which sends it (R164 step 5, R166, R194, R381): from
then on it stands in no crossing of the core's. -/
def sendLegFlag (s : State) (c : Nat) : State :=
  let q := (s.core c).seq
  let k := s.core c
  let da := q.cda
  let scr := s.isScratch da
  let host := match s.kind da with
    | .host _ _ => true
    | _ => false
  if q.cadd && (scr || host) then ackFlag (aopBad s c) c
  else if !k.ch0.supp.isEmpty || !k.ch1.supp.isEmpty then ackFlag s c
  else if scr then ackFlag (scrPut s c (scratchOff da) (bytesOf 4 q.cval)) c
  else
    let s := passItem (s.updSeq c fun q => { q with flagRq := s.nextRq }) (xkey (tileOfCore c) (coreWithin c))
    issue s (.legFlag c) (if q.cadd then .acc 4 else .write) (da / 64 * 64) (maskOf (da % 64) 4)
      (BitVec.ofNat 512 (q.cval * 2 ^ (8 * (da % 64)))) false 0

/-- LEG_DRAIN_COMPLETE: every command of the leg has completed; slots left are discarded (R84), the busiest engine is
held against the leg's CYC (R375), the ledger records the leg complete and sends the flag (R166, R381). -/
def execLegDrainComplete (c : Nat) (s : State) : Answer :=
  .next (
    let k := s.core c
    if s.coreRuns c && decide (k.seq.phase = .drain) && k.seq.specs.isEmpty && decide (k.inFlight = 0) &&
        k.ch0.copies.isEmpty && k.ch1.copies.isEmpty then
      let s := meterCycles s c id
      let s := s.updMx c fun m => { m with leftover := satAdd m.leftover m.basket.length, basket := [] }
      let i := s.ledgerIndex c
      let s := s.updTile (tileOfCore c) fun t => { t with done := t.done.set i (nth t.done i 0 + 1) }
      sendLegFlag (s.updSeq c fun q => { q with phase := .flag }) c
    else s)

/-- COMPLETION_FLAG_ACK: the completion flag is acknowledged (R164 step 6). -/
def execCompletionFlagAck (c : Nat) (s : State) : Answer :=
  .next (match takeRsp (s.inboxOf c) fun a => (match a.own with
      | .legFlag _ => true
      | _ => false) with
    | none => s
    | some (a, rest) =>
      let s := s.updCore c fun k => { k with inbox := rest }
      if decide ((s.core c).seq.phase = .flag) && decide ((s.core c).seq.flagRq = a.id) then nextLeg s c else s)

/-- SEM_SETTLE of semaphore n: visible signals, then observers, then consuming waits in the fixed order channel 0,
channel 1, matrix, vector, check-value unit, sequencer (R179). -/
def execSemSettle (c n : Nat) (s : State) : Answer :=
  .next (
    if s.coreRuns c then
      let mine := (s.core c).seq.signals.filter fun g => g.1 = n
      let s := s.updSeq c fun q => { q with signals := q.signals.filter fun g => decide (g.1 ≠ n) }
      let s := forEach mine s fun s g => applySignal s c n g.2.1 g.2.2
      let s := seqWait s c n true
      let s := forEach [2, 3, 0, 1, 4] s fun s e => engineWait s c n e
      advance (seqWait s c n false) c id
    else s)

end Sys2Proof.Machine
end

