-- ==== Sys2Proof/Machine/Steps.lean ====
section
/-!
DEFINITION. Steps: START's own work and its refusals (R285, R369, R389, R414), the end of a step (R21, R315), breaches of
deadlines (R371, R372).
-/
namespace Sys2Proof.Machine

/-! ## START (R369) -/

/-- The host ports that the plan uses: its host-window regions, leg lists and completion flags. -/
def Plan.ports (p : Plan) : List Nat :=
  let das := p.regions.map Region.base ++ p.lists ++ p.legList.map fun e => flagDa e.2.2.hdr
  [0, 1].filter fun x => das.any fun a => decide (2 ^ 46 ≤ a) && decide (a < 2 ^ 47) && decide (a / 2 ^ 45 % 2 = x)

/-- The port is up at no less than the width and rate of BOOK (R374). -/
def State.portFits (s : State) (x : Nat) : Bool :=
  let p := s.port x
  p.up && decide (p.bookWidth ≤ p.width) && decide (p.bookRate ≤ p.rate)

/-- The plan is admissible on the present resources (R24, R389). -/
def State.stillAdmissible (s : State) (p : Plan) : Bool :=
  (s.usableFail p).isNone && p.ports.all s.portFits

/-- Sending time in µs, rounded up, of the granules pending now, at 463.4 GB/s on each up mirror link (R313, R363). -/
def State.pendingTime (s : State) : Nat :=
  let n := s.mirrorUp.length
  if n = 0 then 0 else (s.mirror.p.length * 4096 * 10 + 4634 * n * 1000 - 1) / (4634 * n * 1000)

/-- A line is rewritten with the zero code word as a write of the vault's own, which a flip may strike; what its vault had
accepted for it before comes before (R222, R254, R369). -/
def rewriteZero (s : State) (q : Place) : State :=
  if s.vaultUsable q.tile q.vault then writeLine (columnTransfer (settleLine s q) q 0) q 0 false else s

/-- Every line of the ZSTART regions is rewritten with the zero code word (R369). -/
def zeroRegions (s : State) (p : Plan) : State :=
  forEach (((p.regions.filter fun r => r.zstart).flatMap fun r => lineDas r.base r.len).filterMap s.place) s rewriteZero

/-- What START clears in a core (R85, R125, R126, R161, R180, R186, R257, R376). -/
def Core.startState (k : Core) : Core :=
  { k with
    sticky := 0, mx := { k.mx with sticky := 0 }, vx := { k.vx with sticky := 0 }
    seq := { k.seq with semHi := 0, semLo := 0 }
    alignInfo := k.alignInfo &&& (BitVec.allOnes 64 >>> 1)
    poisonPosted := false, satPosted := false
    dem := Demand.reset }

/-- What START clears elsewhere: VC_NRCOUNT.STEP, the limits of R257, the ledgers (R396), the lowest throttle steps. -/
def clearStep (s : State) : State :=
  let s := forEach (s.cores.map Prod.fst) s fun s c => s.updCore c Core.startState
  let s := forEach (s.vaults.map Prod.fst) s fun s i => s.updVault (i / 64) (i % 64) fun v => { v with
    nrStep := 0, recCount := 0, recOpen := false }
  let s := forEach s.tileList s fun s t => s.updTile t fun x => { x with
    done := List.replicate 16 0, lowest := x.step }
  s.updDev fun d => { d with
    breaches := 0, stepOver := false, pathTimeout := false, commitDone := none, startFault := d.lastFault, remaps := [] }

/-- Every core of the plan is released to its first leg (R369). -/
def releaseCores (s : State) (p : Plan) : State :=
  forEach (List.range (hdrNcore p.hdr + 1)) s fun s l => match s.holderOf l with
    | some c => beginLeg s c 0 true
    | none => s

/-- START begins the step (R369). -/
def startStep (s : State) (p : Plan) : State :=
  let s := lockPages (clearStep (zeroRegions s p)) p
  releaseCores (s.enter .running) p

/-! ## The end of a step (R21, R315) -/

/-- Logical cores of the part whose holder shows a refused copy (R135, R315). -/
def State.alignCores (s : State) : List Nat :=
  (List.range (16 * s.fuses.part.tiles)).filter fun l => match s.holderOf l with
    | some c => tst (s.core c).alignInfo 63
    | none => false

/-- STEP_COMPLETE: the device returns to BOOKED and posts the step's record; the step number goes up (R21, R49, R315). -/
def execStepComplete (s : State) : Answer :=
  .next (
    if s.clocked && s.running && s.legsFinished && (!s.planMirrors || s.dev.commitDone.isSome) then
      let al := s.alignCores
      let w4 := b2n (s.dev.commitDone = some true)
      let ws := [s.dev.step.toNat, al.length, al.headD noWord, s.dev.breaches.toNat, w4]
      let s := forEach (s.cores.map Prod.fst) s fun s c => s.updCore c Core.stopLeg
      let s := (s.updDev fun d => { d with commitDone := none }).enter .booked
      let s := sendMsixBoth (postStatus s 0x02 0xFF 0 0 0 3 ws) 2
      s.updDev fun d => { d with step := d.step + 1 }
    else s)

/-! ## Breaches (R371, R372) -/

/-- Class of a fault record (R378). -/
def FaultRec.class' (f : FaultRec) : Nat := fld f.bits 63 56

/-- Sequence number of a fault record. -/
def FaultRec.seq (f : FaultRec) : BitVec 32 := BitVec.ofNat 32 (fld f.bits 159 128)

/-- The newest record since START that can cause a breach; 0: none (R372). -/
def State.breachCause (s : State) : BitVec 32 :=
  match s.dev.faults.reverse.find? fun f =>
      serialGe f.seq s.dev.startFault && decide (f.seq ≠ s.dev.startFault) && !([0x20, 0x31, 0x30].contains f.class') with
  | some f => f.seq
  | none => 0

/-- Ticks of 10 ns that a time of n ns allows, with 1% (R371). -/
def breachTicks (n : Nat) : Nat := (n * 101 + 999) / 1000

/-- Post DEADLINE_BREACH for core c (R371, R372). -/
def postBreach (s : State) (c reason ns : Nat) (word : Nat) (f : Demand → Demand) : State :=
  let s := s.updCore c fun k => { k with dem := { f k.dem with breach := satAdd k.dem.breach 1 } }
  let s := s.updDev fun d => { d with breaches := satAdd d.breaches 1 }
  postFault s 0x20 reason [tileOfCore c, c, s.logicalWord c, (s.core c).seq.leg, ns, word] s.breachCause

/-- BOUND of the leg a core runs, in ns (R163). -/
def State.legBound (s : State) (c : Nat) : Option Nat := (s.legPlan c).map fun lp => fld lp.hdr 511 480

/-- LEG_TIMER_EXPIRY: the leg timer passes its bound plus 1% (R371); once a leg, and not once a core has exceeded its
demand (R375). -/
def execLegTimerExpiry (c : Nat) (s : State) : Answer :=
  .next (
    let d := (s.core c).dem
    match s.legBound c with
    | some b =>
      if s.clocked && s.coreRuns c && d.timing && !d.legPosted && !s.dev.stepOver &&
          decide (breachTicks b < d.legTimer.toNat) then
        postBreach s c 1 b noWord fun d => { d with legPosted := true }
      else s
    | none => s)

/-- Deadline in ns of the wait of core c's leg with an ordinal (R355, R363). -/
def State.waitDeadline (s : State) (c ordinal : Nat) : Option Nat :=
  match s.dev.plan, s.logicalOf c with
  | some p, some l => match (p.waits.zip p.deadlines).find? fun e =>
      decide (e.1.wcore = l) && decide (e.1.wleg = (s.core c).seq.leg) && decide (e.1.word = ordinal) with
    | some e => e.2
    | none => none
  | _, _ => none

/-- WAIT_DEADLINE_EXPIRY: a declared WAITF is still stopped as the step timer passes its deadline plus 1% (R371). -/
def execWaitDeadlineExpiry (c : Nat) (s : State) : Answer :=
  .next (match (s.core c).seq.wait with
    | .waitf _ _ _ _ o =>
      let d := (s.core c).dem
      (match s.waitDeadline c o with
        | some n =>
          if s.clocked && s.coreRuns c && !d.waitPosted.contains o && !s.dev.stepOver &&
              decide (breachTicks n < d.stepTimer.toNat) then
            postBreach s c 2 n o fun d => { d with waitPosted := o :: d.waitPosted }
          else s
        | none => s)
    | _ => s)

end Sys2Proof.Machine
end

