-- ==== Sys2Proof/Machine/Resilience.lean ====
section
/-!
DEFINITION. Cores and tiles that fail (R381 to R395): the remap onto a tile's spare, the loss of a core, the loss of a
tile.
-/
namespace Sys2Proof.Machine

/-! ## Cores (R382 to R386, R395) -/

/-- Crossings of a core with its tile's fabric (R211). -/
def coreXings (c : Nat) : List Nat := [xkey (tileOfCore c) (coreWithin c), xkey (tileOfCore c) (32 + coreWithin c)]

/-- Requests of a core among the items of a crossing. -/
def Xing.rqsOf (x : Xing) (c : Nat) : List Rq :=
  (itemRqs (x.fifo ++ x.back)).filter fun r => decide (r.own.core? = some c)

/-- A request that core c sent beyond its crossing is still under way (R383 step 5). -/
def State.underWay (s : State) (c : Nat) : Bool :=
  (s.xings.any fun e => !(e.2.rqsOf c).isEmpty) ||
    ([0, 1].any fun x => (s.port x).hostRqs.any fun h => decide (h.rq.own.core? = some c)) ||
    s.dev.peerRqs.any fun q => q.rqs.any fun r => decide (r.own.core? = some c)

/-- A core that carries an index of the plan and has not finished its part of the running step. -/
def State.midStep (s : State) (c l : Nat) : Bool :=
  s.running && decide ((s.core c).seq.phase ≠ .finished) &&
    (match s.dev.plan with
      | some p => decide (l ≤ hdrNcore p.hdr)
      | none => false)

/-- Legs that index i of tile t has completed in the step: the first leg not complete (R381, R383). -/
def State.legsOf (s : State) (l : Nat) : Nat := (nth (s.tile (l / 16)).done (l % 16) 0).toNat

/-- Legs that the plan gives a logical core. -/
def State.planLegs (s : State) (l : Nat) : Nat := match s.dev.plan with
  | some p => ((p.legs.find? fun e => e.1 = l).map fun e => e.2.length).getD 0
  | none => 0

/-- D6 of CORE_REMAPPED: the failed run issued accumulating writes, ADD_INT32 flag writes (R380). -/
def Core.issuedBits (k : Core) : Nat := b2n k.didAcc + 2 * b2n k.didAddFlag

/-- The core has begun a leg that it has not completed: the leg that a spare will repeat (R381, R383). -/
def Core.midLeg (k : Core) : Bool := k.dem.timing && decide (k.seq.phase ≠ .flag)

/-- The leg that a record of a failed core names: the first that is not complete, or none outside a step or after the last (R380). -/
def State.lostLeg (s : State) (l : Nat) (mid : Bool) : Nat := if mid && decide (s.legsOf l < s.planLegs l) then s.legsOf l else noWord

/-- The spare takes over the timers that the ledger keeps of the failed core, and the breaches that its leg has posted (R371,
R381, R383 step 4). The leg timer of a complete leg has stopped. -/
def Core.takeOver (spare failed : Core) (fin : Bool) : Core :=
  { spare with
    valid := [], poison := []
    dem := { spare.dem with
      legTimer := failed.dem.legTimer, stepTimer := failed.dem.stepTimer, timing := failed.midLeg
      legPosted := failed.dem.legPosted, waitPosted := failed.dem.waitPosted }
    seq := { spare.seq with phase := if fin then .finished else .idle, coreHdr := failed.seq.coreHdr } }

/-- A core is lost and runs nothing any more. -/
def dropCore (s : State) (c : Nat) : State :=
  s.updCore c fun k => { k.stopLeg with lost := true, inbox := [] }

/-- The remap of logical core l from core c onto the tile's spare (R383): the index moves, its leg waits to be repeated
where a step runs, CORE_REMAPPED is posted, and the failed core's crossings half-reset with that record as cause. -/
def remapCore (s : State) (c l spare reason : Nat) : State :=
  let t := tileOfCore c
  let i := l % 16
  let mid := s.midStep c l
  let k := s.core c
  let run := mid && k.midLeg
  let d4 := if run then s.cycles (.fabric t) - nth (s.tile t).legStart i 0 else if s.dev.state = .boot then 0 else noWord
  let words := [t, c, l, s.lostLeg l mid, d4, spare, if run then k.issuedBits else 0]
  let s := dropCore s c
  let s := s.updCore spare fun x => x.takeOver k (decide (k.seq.phase = .finished))
  let s := s.updDev fun d => { d with
    holder := tput d.holder l (some spare)
    remaps := if mid then d.remaps ++ [{ tile := t, index := i, failed := c, spare := spare }] else d.remaps }
  let s := s.updTile t fun x => { x with remaps := x.remaps.set i (satAdd (nth x.remaps i 0) 1) }
  let q := s.dev.faultSeq
  let s := postFault s 0x01 reason words 0
  forEach (coreXings c) s fun s x => halfReset s x q

/-- A core is lost for good (R385, R395): its index stays uncarried and a running step halts; a spare that held none
changes no state. -/
def loseCore (s : State) (c reason : Nat) : State :=
  let t := tileOfCore c
  let l := s.logicalOf c
  let leg := match l with
    | some l => s.lostLeg l (s.midStep c l)
    | none => noWord
  let s := dropCore s c
  let s := match l with
    | some l => s.updDev fun d => { d with holder := tput d.holder l none }
    | none => s
  let words := [t, c, l.getD noWord, leg, (s.usableCores t).length]
  let q := s.dev.faultSeq
  let s := if l.isSome then postLoss s 0x02 reason words 0 true else postFault (noteLoss s 0x02) 0x02 reason words 0
  forEach (coreXings c) s fun s x => halfReset s x q

/-- CORE_FAILED (R382 to R386, R395): a remap where the core carries an index and the tile's spare is free, with no other
remap of the tile under way; otherwise the core is lost. A core that fails in BOOT is left to the start (R386). -/
def execCoreFailed (c reason : Nat) (s : State) : Answer :=
  .next (
    let t := tileOfCore c
    if s.clocked && decide (s.dev.state ≠ .boot) && decide (c < 17 * s.fuses.part.tiles) && s.coreUsable c &&
        decide (1 ≤ reason ∧ reason ≤ 3) then
      match s.logicalOf c, s.freeSpare t, s.dev.remaps.any fun r => r.tile = t with
      | some l, some spare, false => remapCore s c l spare reason
      | _, _, _ => loseCore s c reason
    else s)

/-- SPARE_BEGIN_LEG: with every request of the failed core resolved, the spare begins the first leg that is not complete,
or has nothing left to run (R383 steps 5 and 6, R384). -/
def execSpareBeginLeg (c : Nat) (s : State) : Answer :=
  .next (match s.dev.remaps.find? fun r => r.spare = c with
    | none => s
    | some r =>
      let l := 16 * r.tile + r.index
      if s.clocked && s.running && !s.underWay r.failed && !s.underWay c then
        let s := s.updDev fun d => { d with remaps := d.remaps.filter fun x => decide (x.spare ≠ c) }
        if s.legsOf l < s.planLegs l then beginLeg s c (s.legsOf l) true
        else s.updSeq c fun q => { q with phase := .finished }
      else s)

/-! ## Tiles (R390 to R392) -/

/-- Photonic engines of the part. -/
def engineList : List Nat := [0, 1, 2, 3, 4, 5]

/-- Populated links of the engines attached to a tile (R16, R390). -/
def State.tileLinks (s : State) (t : Nat) : List Nat :=
  s.linkList.filter fun n => decide (engineTile s.fuses.part (n / 4) = t)

/-- Crossings into and out of a tile's fabric, cores, vaults with their bank buses, bridges, link-port blocks, and those of its
bridges at their other sides: the neighbours' fabrics and the hub (R192, R211, R212). -/
def State.tileXings (s : State) (t : Nat) : List Nat :=
  (List.range 17).flatMap (fun p => coreXings (coreAt t p)) ++ (List.range 64).flatMap (fun v => vaultXings t v) ++
    ([0, 1, 2, 3].filter fun b => s.portPresent t b).flatMap (fun b => [xkey t (192 + b), xkey t (200 + b)]) ++
    [0, 1, 2].flatMap (fun b => match s.neighbour t b with
      | some u => let back := if b = 2 then 2 else 1 - b; [xkey u (192 + back), xkey u (200 + back)]
      | none => []) ++
    (if t < 2 then [xkey 8 (192 + t), xkey 8 (200 + t)] else []) ++
    (engineList.filter fun e => engineTile s.fuses.part e = t).flatMap fun e =>
      [xkey t (208 + engineBlock s.fuses.part e), xkey t (216 + engineBlock s.fuses.part e)]

/-- A tile's cores and vaults go with it. -/
def dropTile (s : State) (t : Nat) : State :=
  let s := forEach (List.range 64) s fun s v => if (s.vault t v).lost then s else dropVault s t v
  let s := forEach (List.range 17) s fun s p => dropCore s (coreAt t p)
  let s := s.updTile t fun x => { x with lost := true }
  s.updDev fun d => { d with
    holder := (List.range 16).foldl (fun h i => tput h (16 * t + i) none) d.holder
    remaps := d.remaps.filter fun r => decide (r.tile ≠ t) }

/-- With tiles 0 and 1 both lost no tile is usable any more (R199, R392). -/
def State.cutOff (s : State) : State :=
  if (s.tile 0).lost && (s.tile 1).lost then
    forEach s.tileList s fun s t => if (s.tile t).lost then s else dropTile s t
  else s

/-- TILE_LOST (R390 to R392): the tile's cores and vaults are gone, TILE_LOST is posted and a running step halts; its
crossings half-reset and the links of its engines go down with that record as cause. -/
def execTileLost (t reason : Nat) (s : State) : Answer :=
  .next (
    if s.clocked && s.tileUsable t && decide (1 ≤ reason ∧ reason ≤ 3) then
      let links := s.tileLinks t
      let words := [t, s.windowsOn t, ofBits links]
      let s := (dropTile s t).cutOff
      let q := s.dev.faultSeq
      let s := postLoss s 0x03 reason words 0 true
      let s := forEach (s.tileXings t) s fun s k => halfReset s k q
      forEach links s fun s n => if s.linkUp n then linkDown s n 0x6 q else linkLoss s n 0x6 q
    else s)

end Sys2Proof.Machine
end

