-- ==== Sys2Proof/Machine/Startup.lean ====
section
/-!
DEFINITION. Start-up (R420 to R431, R440): the flash's slots and records, what verifies an image, reset release, the end
of a start, fuses, Grey mode; the FREEZE_N ball (R441, R453).
-/
namespace Sys2Proof.Machine

/-! ## Flash and images (R424 to R426) -/

/-- Bytes and numbers of an image at an offset (R425). -/
def imgBytes (l : List Byte) (off n : Nat) : List Byte := (l.drop off).take n
def imgNat (l : List Byte) (off n : Nat) : Nat := ofBytes (imgBytes l off n)

def imgVersion (l : List Byte) : Nat := imgNat l 0x008 4
def imgKeyset (l : List Byte) : Nat := imgNat l 0x006 2
def imgSvn (l : List Byte) : Nat := imgNat l 0x00C 1
def imgMinsvn (l : List Byte) : Nat := imgNat l 0x00D 1
def imgRevoke (l : List Byte) : Nat := imgNat l 0x00E 1
def imgBody (l : List Byte) : List Byte := imgBytes l 0x8000 (imgNat l 0x018 4)

/-- Bit of the part mask (R425). -/
def Part.maskBit : Part → Nat
  | .rn802 => 0 | .rn804 => 1 | .rn808 => 2

/-- Every check of R426 but the last. -/
def imageSigned (f : Fuses) (l : List Byte) : Bool :=
  let key := imgBytes l 0x080 384 ++ imgBytes l 0x200 4
  let slh := imgBytes l 0x240 64
  let hdr := imgBytes l 0 0x400
  let k := nth f.keyHashes (imgKeyset l) (0, 0)
  decide (imgBytes l 0 4 = [0x4B, 0x52, 0x4E, 0x46]) && decide (imgNat l 4 2 = 1) &&
    (imgNat l 0x010 8).testBit f.part.maskBit && decide (imgNat l 0x018 4 ≤ 24 * 2 ^ 20 - 32768) &&
    decide (0x8000 + imgNat l 0x018 4 ≤ l.length) && decide (imgKeyset l < 4) && !f.revoked.getLsbD (imgKeyset l) &&
    decide (Config.sha384 key = k.1) && decide (Config.sha384 slh = k.2) &&
    Config.rsaVerify key (imgBytes l 0x400 384) (Config.sha384 hdr) && Config.slhVerify slh (imgBytes l 0x580 29792) hdr &&
    decide ((Config.sha384 (imgBody l)).toNat = imgNat l 0x040 48)

/-- Reason code of R428 for an image: 0 where it is verified, else IMAGE_AUTH or ROLLBACK (R426). -/
def imageWhy (f : Fuses) (l : List Byte) : Nat :=
  if imageSigned f l then (if f.svn ≤ imgSvn l then 0 else 2) else 1

/-- The reason code of a slot: one marked invalid, or read while the flash is held from outside, does not verify (R427,
R464). -/
def State.slotWhy (s : State) (b : Bool) : Nat :=
  let w := s.sec.flash.slot b
  if w.invalid || !s.flashFree then 1 else imageWhy s.fuses w.bytes

/-! ## The start-attempt record (R428) -/

/-- REASON of attempt entry k. -/
def Attempts.reason (a : Attempts) (k : Nat) : Nat := fld (nth a.entries (k % 8) 0) 7 0

/-- The reason codes of the newest three attempts, newest first (R429). -/
def Attempts.newest3 (a : Attempts) : List Nat := [a.reason a.newest, a.reason (a.newest + 7), a.reason (a.newest + 6)]

/-- The previous attempt is looked at: begun and not succeeded, and the reset no freeze, it failed with reason UNFINISHED
unless it holds a reason, and is counted (R428). DEDUCED (log 168): an attempt that holds the reason of a failed start has been
counted when it failed (R24, R429); one that a shutdown ended (THERMAL) has not. -/
def Attempts.examine (a : Attempts) (cause : Nat) : Attempts :=
  let e := nth a.entries a.newest 0
  if tst e 13 && !tst e 14 && decide (cause ≠ 3) && [0x00, 0x09].contains (fld e 7 0) then
    { (if fld e 7 0 = 0 then a.setReason 0x08 else a) with fails := min 3 (a.fails + 1) }
  else a

/-- A new attempt entry. -/
def Attempts.begin (a : Attempts) (version slot cause reason : Nat) (begun : Bool) : Attempts :=
  let k := (a.newest + 1) % 8
  { a with
    newest := k, thermal := false
    entries := a.entries.set k (packW 64 [(16, version), (13, b2n begun), (12, slot), (8, cause), (0, reason)]) }

/-- HP0 in GREY: a PCIe endpoint at x4 and at most 16.0 GT/s (R281). -/
def Port.grey (p : Port) : Port :=
  { p with width := min 4 p.width, rate := min 4 p.rate, cxlCache := false, cxlMem := false, cache := [], filter := [] }

/-- The device enters GREY: nothing but the control cluster, HP0, SMBus, JTAG and QSPI is powered; BOOT_FALLBACK is posted
with the count and the newest reasons (R429, R430). -/
def enterGrey (s : State) (count : Nat) (reasons : List Nat) : State :=
  let prev := s.dev.state
  let s := { s with
    tiles := [], cores := [], vaults := [], units := [], xings := [], links := [], mem := [], scratch := []
    ports := tset Port.reset (tset Port.reset s.ports 1 { Port.reset with perst := (s.port 1).perst }) 0 (s.port 0).grey }
  let s := s.updSec fun x => { x with version := 0, keyset := 0, slotB := false, keyId := none }
  let s := s.enter .grey
  postChange (postFault s 0x38 0 (count :: reasons) 0) prev 0

/-- Step 3 of R421: the active slot while the count is even, the other while it is odd, and then the other of the two; the
slot tried last and its reason code (R429). -/
def State.chooseSlot (s : State) (fails : Nat) : Bool × Nat :=
  let pref := s.sec.flash.activeB != decide (fails % 2 = 1)
  if s.slotWhy pref = 0 then (pref, 0) else (!pref, s.slotWhy (!pref))

/-- Step 4 of R421 for a verified image: the key engine holds the Alias keys of the image's identifier, unsealed or derived; newly
derived key pairs are sealed in the flash (R435). -/
def deriveKeys (s : State) (img : List Byte) : State :=
  let id := Config.cdi s.fuses.serial (Config.sha384 img) (imgSvn img) (imgKeyset img)
  s.updSec fun x => { x with
    keyId := some id
    flash := if x.flash.sealedKeys.contains id then x.flash else { x.flash with sealedKeys := id :: x.flash.sealedKeys } }

/-- The ROM's steps 2 to 4 (R421, R426, R428, R429, R435), with the record that governs. DEDUCED (log 169): where the attempt that
step 2 records as UNFINISHED is the third failure in a row, the attempt begun here still runs, as R431 has one attempt follow every
reset while the count is at 3; only a start that fails then ends in GREY (R24, R429). -/
def romStart (s : State) (a : Attempts) : State :=
  let cause := if a.thermal then 6 else s.sec.cause.toNat
  let s := s.updSec fun x => { x with cause := BitVec.ofNat 4 cause }
  if tst s.dev.straps 0 then
    let why := a.reason a.newest
    let a := a.begin 0 0 cause 0x0B false
    enterGrey (s.updSec fun x => { x with flash := x.flash.writeAttempts a, lastWhy := BitVec.ofNat 8 why }) a.fails a.newest3
  else
    let a := a.examine cause
    let why := a.reason a.newest
    let c := s.chooseSlot a.fails
    let img := (s.sec.flash.slot c.1).bytes
    let ver := if c.2 = 0 then imgVersion img else 0
    let s := s.updSec fun x => { x with
      flash := x.flash.writeAttempts (a.begin ver (b2n c.1) cause 0 true)
      lastWhy := BitVec.ofNat 8 why, imageWhy := BitVec.ofNat 8 c.2, version := BitVec.ofNat 32 ver, slotB := c.1
      keyset := if c.2 = 0 then BitVec.ofNat 2 (imgKeyset img) else 0
      minsvn := if c.2 = 0 then imgMinsvn img else 0
      revoke := if c.2 = 0 then BitVec.ofNat 8 (imgRevoke img) else 0 }
    if c.2 = 0 then deriveKeys s img else s

/-- Reset may be released: the supplies are valid, the input stage not latched (R24, R398, R416). -/
def State.mayRelease (s : State) : Bool :=
  s.power.valid && !s.power.latchedOff && (decide (s.dev.state = .off) || s.dev.inReset)

/-- RESET_RELEASE: straps are latched, the owner port is the one they name, and the ROM begins (R24, R310, R420, R421,
R453, R454). -/
def execResetRelease (env : ResetEnv) (s : State) : Answer :=
  .next (
    if s.mayRelease then
      let s := s.updDev fun d => { d with
        state := .boot, inReset := false, straps := env.straps, owner := b2n (tst env.straps 2) }
      let s := s.updSec fun x => { x with freezeLow := env.freezeHeld }
      let s := (s.updPort 0 fun p => { p with perst := env.perst0 }).updPort 1 fun p => { p with perst := env.perst1 }
      match s.sec.flash.governing with
      | some a => if s.flashFree then romStart s a else enterGrey s 0 [0x0A, noWord, noWord]
      | none => enterGrey s 0 [0x0A, noWord, noWord]
    else s)

/-! ## The end of a start (R421 to R423, R428, R429) -/

/-- A start is under way. -/
def State.starting (s : State) : Bool := decide (s.dev.state = .boot) && !s.dev.inReset

/-- A start fails (R24, R429): the reason stands in its entry, the count rises, and the device resets itself, or enters GREY
at the third failure and with reason FLASH. -/
def failStart (s : State) (why : Nat) : State :=
  match s.sec.flash.governing with
  | none => enterGrey s 0 [0x0A, noWord, noWord]
  | some a =>
    let a := { a.setReason why with fails := min 3 (a.fails + 1) }
    let s := if s.flashFree then s.updSec fun x => { x with flash := x.flash.writeAttempts a } else s
    if 3 ≤ a.fails ∨ why = 0x0A then enterGrey s a.fails a.newest3 else resetAll s 4

/-- BOOT_FAIL with a reason code: no verified image, the hub, the tiles, a calibration, the record area (R428). -/
def execBootFail (why : Nat) (s : State) : Answer :=
  .next (
    if s.starting && ((decide (why = 1 ∨ why = 2) && decide (s.sec.imageWhy.toNat = why)) || [3, 4, 5, 0x0A].contains why) then
      failStart s why
    else s)

/-- BOOT_WATCHDOG: a control core made no progress for 2 s (R428). -/
def execBootWatchdog (s : State) : Answer := .next (if s.starting then failStart s 0x06 else s)

/-- BOOT_TIMEOUT: not succeeded 10 s after reset release (R421). -/
def execBootTimeout (s : State) : Answer := .next (if s.starting then failStart s 0x07 else s)

/-- The slots of a bank's 32 spare rows, lowest first, that no repair latch holds and whose retest passes (R278). -/
def BankUnit.freeSpares (u : BankUnit) (r : BankResult) : List Nat :=
  (List.range 32).filter fun i => !tst (tget 0 u.repair (32 * (r.bank % 2) + i)) 14 && !r.badSpares.contains i

/-- Row sparing of one physical bank (R278): its failing rows are counted, and each takes the lowest free slot whose retest
passes; where those do not suffice its layer is marked erased, and a second such layer loses the vault. -/
def spareRows (s : State) (r : BankResult) : State :=
  let k := unitKey r.tile r.vault r.layer (r.bank / 2)
  let slots := (s.unit k).freeSpares r
  let s := s.updVault r.tile r.vault fun x => { x with
    badRows := min 0x3FF (x.badRows + r.rows.length), kstop := satAdd x.kstop r.stopped }
  if r.rows.length ≤ slots.length then
    let s := s.updUnit k fun u => { u with
      repair := (r.rows.zip slots).foldl (fun m e => tset 0 m (32 * (r.bank % 2) + e.2) (packW 15 [(14, 1), (0, e.1 % 2 ^ 14)])) u.repair }
    s.updVault r.tile r.vault fun x => { x with usedSpares := s.sparesUsed r.tile r.vault }
  else match (s.vault r.tile r.vault).erased with
    | none => markErased s r.tile r.vault r.layer 2
    | some l => if l = r.layer ∨ (s.vault r.tile r.vault).lost then s
      else loseVault s r.tile r.vault 1 (s.vault r.tile r.vault).lastErase

/-- Start-up jobs on every vault (R277): sparing, and every row left as the zero code word. DESIGN CHOICE (log 164): what the
jobs' programs, of which the manual gives no word, leave in the units and in the activate tables is not shown. -/
def startupJobs (s : State) (res : StartResult) : State :=
  let s := forEach res.banks s fun s r => if s.vaultUsable r.tile r.vault then spareRows s r else s
  let s := forEach (s.vaults.map Prod.fst) s fun s i => s.updVault (i / 64) (i % 64) fun x => { x with rawRows := [] }
  let s := forEach s.tileList s fun s t => s.updTile t fun x => { x with granules := [], filling := [] }
  { s with mem := [] }

/-- Cores that failed their self-test (R423): the spare takes the index, or the core is lost. -/
def startupCores (s : State) (bad : List Nat) : State :=
  let s := forEach bad s fun s c => dropCore s c
  forEach bad s fun s c => match s.logicalOf c, s.freeSpare (tileOfCore c) with
    | some l, some spare => remapCore s c l spare 1
    | _, _ => loseCore s c 1

/-- Links begin to train (R327, R420, R421 step 9). -/
def startLinks (s : State) : State :=
  forEach s.linkList s fun s n => if s.engineOk (n / 4) then s.updLink n fun l => { l with state := .training } else s

/-- The attempt is marked succeeded, the count becomes 0, a start from the other slot makes it active, and BOOT_FALLBACK
follows earlier failures (R428, R429). -/
def startSucceeds (s : State) : State :=
  match s.sec.flash.governing with
  | none => s
  | some a =>
    let e := nth a.entries a.newest 0
    let done := { a with fails := 0, entries := a.entries.set a.newest (setFld (setFld e 7 0 0) 14 14 1) }
    let s := if s.flashFree then s.updSec fun x => { x with
        flash := (if x.flash.activeB = x.slotB then x.flash else x.flash.setActive x.slotB).writeAttempts done } else s
    if 0 < a.fails then postFault s 0x38 0 (a.fails :: done.newest3) 0 else s

/-- The windows of tiles that start-up found unusable are disabled (R220). -/
def disableWindows (s : State) : State :=
  let off := fun (l : List (BitVec 64)) => l.zipIdx.map fun (w, t) =>
    if s.tilePresent t && !s.tileUsable t then w &&& (BitVec.allOnes 64 >>> 1) else w
  s.updDev fun d => { d with staged := off d.staged, active := off d.active }

/-- BOOT_SUCCESS: the tiles are brought up and the start succeeds (R23, R421, R423, R427). -/
def execBootSuccess (res : StartResult) (s : State) : Answer :=
  .next (
    if s.starting && decide (s.sec.imageWhy = 0) && (s.tileUsable 0 || s.tileUsable 1) then
      let s := forEach (res.badVaults.filter fun e => s.vaultUsable e.1 e.2) s fun s e => loseVault s e.1 e.2 3 0
      let s := startupJobs s res
      let s := startupCores s ((res.badCores.filter fun e => decide (e.2 < 17) && s.coreUsable (coreAt e.1 e.2)).map fun e =>
        coreAt e.1 e.2)
      let s := startSucceeds (startLinks (disableWindows s))
      let s := s.updSec fun x => { x with
        fuseDue := decide (s.fuses.svn < x.minsvn) ||
          decide (x.revoke.toNat % 16 &&& (15 - 2 ^ x.keyset.toNat) &&& (15 - s.fuses.revoked.toNat) ≠ 0) }
      postChange (s.enter s.idleState) .boot 0
    else s)

/-- FUSE_ADVANCE: SVN fuses up to MINSVN and the revocation fuses of other key sets are blown; a slot whose image then
fails R426 is marked invalid (R427). -/
def execFuseAdvance (s : State) : Answer :=
  .next (
    if s.awake && s.sec.fuseDue && !s.starting then
      let x := s.sec
      let f := { s.fuses with
        svn := max s.fuses.svn (min 64 x.minsvn)
        revoked := s.fuses.revoked ||| BitVec.ofNat 4 (x.revoke.toNat % 16 &&& (15 - 2 ^ x.keyset.toNat)) }
      let mark := fun (w : FwSlot) => { w with invalid := w.invalid || decide (imageWhy f w.bytes ≠ 0) }
      let s := { s with fuses := f }
      s.updSec fun x => { x with
        fuseDue := false
        flash := if s.flashFree then { x.flash with slotA := mark x.flash.slotA, slotB := mark x.flash.slotB } else x.flash }
    else s)

/-- FUSE_SHADOW_CHECK: shadows that differ from the array are reloaded and counted (R440). -/
def execFuseShadowCheck (differ : Nat) (s : State) : Answer :=
  .next (if s.awake then s.updSec fun x => { x with fusemis := satAdd x.fusemis differ } else s)

/-! ## FREEZE_N (R441, R453) -/

/-- The device can freeze: any state but OFF and FROZEN, out of reset. -/
def State.mayFreeze (s : State) : Bool := s.awake

/-- FREEZE_N_ASSERT: the ball goes from released to asserted for a time in ns. At least 1 µs freezes; less than 0.25 µs is
ignored; between, either (R453). -/
def execFreezeNAssert (ns : Nat) (s : State) : Answer :=
  .next (
    if s.sec.freezeLow then s
    else
      let acts := decide (1000 ≤ ns) || (decide (250 ≤ ns) && Config.freeBool s.free 0)
      let s := s.drawn
      if acts && s.mayFreeze then freezeAll s
      else if 1000 ≤ ns then s.updSec fun x => { x with freezeLow := true } else s)

/-- FREEZE_N_RELEASE: no other device holds the net any more; it is released unless this device asserts it. -/
def execFreezeNRelease (s : State) : Answer :=
  .next (s.updSec fun x => { x with freezeLow := x.freezeOut })

end Sys2Proof.Machine
end

