-- ==== Sys2Proof/Machine/Sideband.lean ====
section
/-!
DEFINITION. SMBus, MCTP, PLDM and SPDM (R435 to R437, R443, R460 to R462), JTAG (R445, R465) but for DBGACC and POSTCARD, the QSPI_EXT
ball (R464). Channels of `Out.bytes`: 0 SMBus, 1 JTAG_TDO, 20 MCTP, 21 PLDM.
-/
namespace Sys2Proof.Machine

/-! ## SMBus in FROZEN (R443, R460, R461) -/

/-- The device is frozen and out of reset. -/
def State.frozen (s : State) : Bool := decide (s.dev.state = .frozen) && !s.dev.inReset

/-- A transaction that the device does not acknowledge; an unpowered device does nothing (R443, R460). -/
def smbusNak (s : State) : State := if s.dev.state = .off then s else s.emit .nak

/-- SMBUS_SET_ADDRESS (R443). -/
def execSmbusSetAddress (addr : BitVec 32) (s : State) : Answer :=
  .next (if s.frozen then s.updSec fun x => { x with postAddr := addr } else smbusNak s)

/-- SMBUS_RESET: write byte 0xF2 with 0xA5 (R443, R444). -/
def execSmbusReset (data : BitVec 8) (s : State) : Answer :=
  .next (if s.frozen && decide (data = 0xA5) then resetAll s 3 else smbusNak s)

/-- SMBUS_CLOCK_TIMEOUT: the bus is released and the transaction discarded (R461). -/
def execSmbusClockTimeout (s : State) : Answer := .next (smbusNak s)

/-! ## MCTP and PLDM (R460, R462) -/

/-- MCTP answers: powered, past step 2 of the start, not frozen (R460). -/
def State.mctpUp (s : State) : Bool := s.awake

/-- SET_ENDPOINT_ID (R462). -/
def execSetEndpointId (eid : BitVec 8) (s : State) : Answer :=
  .next (
    if s.mctpUp then (s.updSec fun x => { x with eid := eid }).emit (.bytes 20 (Config.stdBytes 1 [eid.toNat])) else smbusNak s)

/-- MCTP_CONTROL_REQUEST: answered as the MCTP base standard lays down (R462). -/
def execMctpControlRequest (cmd : BitVec 8) (s : State) : Answer :=
  .next (if s.mctpUp then s.emit (.bytes 20 (Config.stdBytes 2 [cmd.toNat, s.sec.eid.toNat])) else smbusNak s)

/-- The sensors of the table PLDM sensors: present, and the reading, none where unavailable (R462). -/
def State.pldmSensor (s : State) (id : Nat) : Option (Option Int) :=
  let u := s.power.shown
  if id = 1 then some (some s.power.inputPower)
  else if id = 2 then some (some (10 * u.vin : Nat))
  else if id = 3 then some (some u.vaux)
  else if id = 4 then some (some u.vio)
  else if 16 ≤ id ∧ id < 24 then some (if s.tileUsable (id - 16) then some (s.tile (id - 16)).hot else none)
  else if id = 32 then some (some s.dev.state.code)
  else none

/-- PLDM_REQUEST (R462): base commands, GetPDR and unknown sensors as the standard lays down. -/
def execPldmRequest (req : PldmReq) (s : State) : Answer :=
  .next (
    if s.mctpUp then match req with
      | .base c => s.emit (.bytes 21 (Config.stdBytes 3 [c.toNat]))
      | .getPdr h => s.emit (.bytes 21 (Config.stdBytes 4 [h]))
      | .getSensor id => match s.pldmSensor id with
        | some v => s.emit (.sensor id v)
        | none => s.emit (.bytes 21 (Config.stdBytes 5 [id]))
    else smbusNak s)

/-! ## SPDM (R436, R437) -/

/-- Responder r: 0 and 1 the DOE mailboxes of the host ports, 2 over MCTP. -/
def State.spdmOf (s : State) (r : Nat) : Spdm := nth s.sec.spdm r Spdm.reset
def State.setSpdm (s : State) (r : Nat) (x : Spdm) : State := s.updSec fun c => { c with spdm := c.spdm.set r x }

/-- The responder can be reached. -/
def State.spdmUp (s : State) (r : Nat) : Bool := s.awake && decide (r < 3) && (decide (r = 2) || s.portUp r)

/-- SPDM error codes: InvalidRequest, UnexpectedRequest, LargeResponse. -/
def spdmInvalid : Byte := 0x01
def spdmUnexpected : Byte := 0x04
def spdmLarge : Byte := 0x0F

/-- An ERROR response. -/
def spdmError (s : State) (r : Nat) (code : Byte) (more : List Byte) : State := s.emit (.spdm r false (code :: more))

/-- A request that the transcript takes in, answered: refused before GET_VERSION. -/
def spdmAnswer (s : State) (r : Nat) (msg : List Nat) (body : List Byte) (f : Spdm → Spdm) : State :=
  let x := s.spdmOf r
  if x.version = 0 then spdmError s r spdmUnexpected []
  else (s.setSpdm r (f { x with transcript := x.transcript ++ msg })).emit (.spdm r true body)

/-- The identifier of the Alias keys in the key engine; 0 where it holds none (R435). -/
def State.aliasKeys (s : State) : BitVec 384 := s.sec.keyId.getD 0

/-- Digest of the running image, header and body (R436). -/
def State.layer (s : State) : BitVec 384 :=
  if s.sec.version = 0 then 0 else Config.sha384 (s.sec.flash.slot s.sec.slotB).bytes

/-- The message a signature covers, as bytes. -/
def signedBytes (m : List Nat) : List Byte := Config.stdBytes 0x11 m

/-- GET_VERSION: the transcript starts afresh; 1.2 and 1.3 (R436, R437). -/
def execGetVersion (r : Nat) (s : State) : Answer :=
  .next (
    if s.spdmUp r then
      (s.setSpdm r { Spdm.reset with version := 1, transcript := [0x84] }).emit (.spdm r true [0x12, 0x13])
    else s)

/-- GET_CAPABILITIES (R436). -/
def execGetCapabilities (r : Nat) (s : State) : Answer :=
  .next (if s.spdmUp r then spdmAnswer s r [0xE1] (Config.stdBytes 0x61 []) id else s)

/-- NEGOTIATE_ALGORITHMS: RSA-PSS 3072, SHA-384 (R436). -/
def execNegotiateAlgorithms (r : Nat) (s : State) : Answer :=
  .next (if s.spdmUp r then spdmAnswer s r [0xE3] (Config.stdBytes 0x63 []) id else s)

/-- The certificate chain of slot 0: DeviceID and Alias RSA (R436). -/
def State.chain (s : State) : List Byte := Config.certChain s.fuses.serial s.aliasKeys 0

/-- GET_DIGESTS (R436). -/
def execGetDigests (r : Nat) (s : State) : Answer :=
  .next (if s.spdmUp r then spdmAnswer s r [0x81] (bytesOf 48 (Config.sha384 s.chain).toNat) id else s)

/-- GET_CERTIFICATE: part of the slot 0 chain; other slots hold none (R436). -/
def execGetCertificate (r : Nat) (slot : BitVec 8) (off len : Nat) (s : State) : Answer :=
  .next (
    if s.spdmUp r then
      if slot = 0 then spdmAnswer s r [0x82, off, len] ((s.chain.drop off).take len) id else spdmError s r spdmInvalid []
    else s)

/-- CHALLENGE: signed with the Alias RSA key over the transcript, which the signature closes (R436, R437). -/
def execChallenge (r : Nat) (slot : BitVec 8) (nonce : BitVec 256) (s : State) : Answer :=
  .next (
    if s.spdmUp r then
      if slot ≠ 0 then spdmError s r spdmInvalid []
      else
        let m := (s.spdmOf r).transcript ++ [0x83, nonce.toNat]
        spdmAnswer s r [] (Config.stdBytes 0x03 m ++ Config.rsaSign s.fuses.serial s.aliasKeys (signedBytes m)) fun x =>
          { x with transcript := [], signed := some m }
    else s)

/-- DBG_STATUS (R446). -/
def State.dbgStatus (s : State) : Nat :=
  pack [(16, s.sec.fusemis.toNat), (1, b2n s.sec.dbgUsed), (0, b2n s.fuses.debugW)]

/-- MINLIM of the part in W (R417). -/
def Part.minLim : Part → Nat
  | .rn802 => 650
  | .rn804 => 1250
  | .rn808 => 2400

/-- PM_LIMITS (R419). -/
def State.pmLimits (s : State) : Nat :=
  pack [(32, s.fuses.floorLim), (16, s.fuses.part.maxLim), (0, s.fuses.part.minLim)]

/-- Measurement block k (R436). -/
def State.measurement (s : State) (k : Nat) : List Byte :=
  match k with
  | 1 => bytesOf 48 Config.romDigest.toNat
  | 2 => bytesOf 48 s.layer.toNat
  | 3 => [BitVec.ofNat 8 (imgSvn (s.sec.flash.slot s.sec.slotB).bytes), BitVec.ofNat 8 s.fuses.svn, BitVec.ofNat 8 s.fuses.revoked.toNat]
  | 4 => bytesOf 4 s.dev.straps.toNat
  | 5 => bytesOf 4 s.dbgStatus
  | 6 => bytesOf 2 s.fuses.part.deviceId ++ bytesOf 4 s.fuses.floorStep ++ bytesOf 4 s.fuses.floorClk ++ bytesOf 8 s.pmLimits
  | _ => []

/-- GET_MEASUREMENTS: block `index`, or all for 0xFF; signed when asked (R436, R437). -/
def execGetMeasurements (r : Nat) (sign : Bool) (index : Nat) (nonce : BitVec 256) (s : State) : Answer :=
  .next (
    if s.spdmUp r then
      if 6 < index ∧ index ≠ 0xFF then spdmError s r spdmInvalid []
      else
        let blocks := if index = 0 then [6] else
          (if index = 0xFF then [1, 2, 3, 4, 5, 6] else [index]).flatMap s.measurement
        let m := (s.spdmOf r).transcript ++ [0xE0, index, nonce.toNat]
        if sign then
          spdmAnswer s r [] (blocks ++ Config.rsaSign s.fuses.serial s.aliasKeys (signedBytes m)) fun x =>
            { x with transcript := [], signed := some m }
        else spdmAnswer s r [0xE0, index] blocks id
    else s)

/-- CHUNK_SEND: one chunk of a large request, in order, up to 65,536 bytes (R436). -/
def execChunkSend (r handle seq : Nat) (last : Bool) (chunk : List Byte) (s : State) : Answer :=
  .next (
    if s.spdmUp r then
      let x := s.spdmOf r
      let cur := if seq = 0 then some (handle, 0, ([] : List Byte)) else x.chunkIn
      match cur with
      | some (h, n, got) =>
        if h = handle ∧ n = seq ∧ chunk.length ≤ 4096 ∧ got.length + chunk.length ≤ 65536 then
          (s.setSpdm r { x with chunkIn := if last then none else some (h, n + 1, got ++ chunk) }).emit
            (.spdm r true (Config.stdBytes 0x05 [handle, seq, b2n last]))
        else spdmError (s.setSpdm r { x with chunkIn := none }) r spdmInvalid []
      | none => spdmError s r spdmUnexpected []
    else s)

/-- Bytes of one chunk: DataTransferSize is 4,096 (R436). -/
def chunkSize : Nat := 4096

/-- CHUNK_GET: the next chunk of a large response (R436). -/
def execChunkGet (r handle seq : Nat) (s : State) : Answer :=
  .next (
    if s.spdmUp r then
      let x := s.spdmOf r
      match x.chunkOut with
      | some (h, n, left) =>
        if h = handle ∧ n = seq then
          let more := left.drop chunkSize
          (s.setSpdm r { x with chunkOut := if more.isEmpty then none else some (h, n + 1, more) }).emit
            (.spdm r true (left.take chunkSize))
        else spdmError s r spdmInvalid []
      | none => spdmError s r spdmUnexpected []
    else s)

/-- A large response: it is announced with a handle and fetched in chunks (R437). -/
def spdmLargeAnswer (s : State) (r : Nat) (body : List Byte) : State :=
  let h := Config.freeNat s.free % 256
  let x := s.spdmOf r
  spdmError (s.drawn.setSpdm r { x with chunkOut := some (h, 0, body) }) r spdmLarge [BitVec.ofNat 8 h]

/-- VENDOR_GET_SLHDSA_CERTS: request byte 0x01 (R437). -/
def execVendorGetSlhdsaCerts (r : Nat) (s : State) : Answer :=
  .next (if s.spdmUp r then spdmLargeAnswer s r (Config.certChain s.fuses.serial s.aliasKeys 1) else s)

/-- VENDOR_GET_SLHDSA_SIGNATURE: request byte 0x02, over exactly the message that the last RSA signature covered (R437). -/
def execVendorGetSlhdsaSignature (r : Nat) (s : State) : Answer :=
  .next (
    if s.spdmUp r then match (s.spdmOf r).signed with
      | some m => spdmLargeAnswer s r (Config.slhSign s.fuses.serial s.aliasKeys (signedBytes m))
      | none => spdmError s r spdmUnexpected []
    else s)

/-! ## JTAG (R445, R465) -/

/-- The TAP works while all supplies are valid (R445). -/
def State.tapUp (s : State) : Bool := s.power.valid

/-- EXTEST: the balls are driven in FROZEN or GREY; otherwise as SAMPLE/PRELOAD (R445). -/
def execExtest (balls : List Bool) (s : State) : Answer :=
  .next (
    if s.tapUp then s.updSec fun x => { x with
      ir := 0x00, bsr := balls, extest := decide (s.dev.state = .frozen) || decide (s.dev.state = .grey) }
    else s)

/-- SAMPLE_PRELOAD (R445). -/
def execSamplePreload (balls : List Bool) (s : State) : Answer :=
  .next (if s.tapUp then s.updSec fun x => { x with ir := 0x01, bsr := balls, extest := false } else s)

/-- The identification code (R445). -/
def State.idcode (s : State) : Nat :=
  pack [(28, s.fuses.revision.toNat % 16), (12, s.fuses.part.deviceId), (1, Config.jedec.toNat), (0, 1)]

/-- IDCODE (R445). -/
def execIdcode (s : State) : Answer :=
  .next (
    if s.tapUp then (s.updSec fun x => { x with ir := 0x02, extest := false }).emit (.bytes 1 (bytesOf 4 s.idcode)) else s)

/-- JTAG_FREEZE (R441, R445). -/
def execJtagFreeze (s : State) : Answer :=
  .next (
    if s.tapUp then
      let s := s.updSec fun x => { x with ir := 0x12, extest := false }
      if s.mayFreeze then freezeAll s else s
    else s)

/-- DEVRESET: cause FREEZE out of FROZEN, else DEVRESET (R444 to R446). -/
def execDevreset (s : State) : Answer :=
  .next (
    if s.tapUp && decide (s.dev.state ≠ .off) then
      (resetAll s (if s.dev.state = .frozen then 3 else 5)).updSec fun x => { x with ir := 0x13 }
    else s)

/-- BYPASS, or any code that is not listed (R445). -/
def execBypass (code : BitVec 8) (s : State) : Answer :=
  .next (if s.tapUp then s.updSec fun x => { x with ir := code, extest := false } else s)

/-- TAP_RESET: Test-Logic-Reset, which selects IDCODE, and nothing else (R445, R465). -/
def execTapReset (s : State) : Answer := .next (s.updSec fun x => { x with ir := 0x02, extest := false })

/-! ## QSPI_EXT_N (R464) -/

/-- QSPI_EXT_ASSERT: the flash bus is released; an FW_STAGE in progress ends with BUSY and leaves its slot invalid (R432,
R464). -/
def execQspiExtAssert (s : State) : Answer :=
  .next (
    let s := s.updSec fun x => { x with qspiExt := true }
    match s.dev.long with
    | some l =>
      if pktOpc l.pkt = 0x40 ∧ s.awake then
        let s := (stageBroken s).updDev fun d => { d with long := none }
        postStatus s 0x01 0x40 (fld l.pkt 31 16) 2 0 (Src.code l.src) []
      else s
    | none => s)

/-- QSPI_EXT_RELEASE (R464). -/
def execQspiExtRelease (s : State) : Answer := .next (s.updSec fun x => { x with qspiExt := false })

end Sys2Proof.Machine
end

