-- ==== Sys2Proof/Machine/Commands.lean ====
section
/-!
DEFINITION. The command protocol (R302 to R319): packets and their checks, rings, deferred commands, and what the commands
do but for their long work, which is in LongOps.
-/
namespace Sys2Proof.Machine

/-! ## Packets and statuses (R305, R306, R311, R313, R316) -/

def pktTag (p : BitVec 512) : Nat := fld p 31 16
def pktGen (p : BitVec 512) : Nat := fld p 63 32
def pktSeq (p : BitVec 512) : Nat := fld p 15 8
def pktForce (p : BitVec 512) : Bool := tst p 64

/-- The CRC of a packet matches (R305). -/
def pktCrcOk (p : BitVec 512) : Bool := decide (fld p 511 480 = (crc32c (bytesOf 60 p.toNat)).toNat)

/-- Status codes (R316). -/
def stOk : Nat := 0x00
def stAccepted : Nat := 0x01
def stBusy : Nat := 0x02
def stResource : Nat := 0x04
def stPlanActive : Nat := 0x05
def stChanged : Nat := 0x06
def stNotOwner : Nat := 0x07
def stBad : Nat := 0x08
def stEarly : Nat := 0x09
def stUnsupported : Nat := 0x0A
def stAuth : Nat := 0x0B
def stDegraded : Nat := 0x0C
def stFault : Nat := 0x0D

/-- Post a status of a command (R315). -/
def reply (s : State) (src : Src) (pkt : BitVec 512) (status : Nat) (ws : List Nat) : State :=
  postStatus s 0x01 (pktOpc pkt) (pktTag pkt) status 0 (Src.code src) ws

/-- Opcodes by class (R311). -/
def fastOps : List Nat := [0x00, 0x01, 0x02, 0x0B, 0x38, 0x39, 0x21]
def shortOps : List Nat := [0x09, 0x0A, 0x19, 0x20, 0x30, 0x31, 0x48, 0x4F]
def longOps : List Nat := [0x08, 0x10, 0x11, 0x12, 0x13, 0x18, 0x1A, 0x22, 0x23, 0x28, 0x29, 0x40, 0x41]

/-- Commands that GREY accepts (R430). -/
def greyOps : List Nat := [0x00, 0x01, 0x02, 0x38, 0x39, 0x40, 0x41, 0x4F, 0x48]

/-- The command is checked against the generation (R309). -/
def isChecked (p : BitVec 512) : Bool :=
  !([0x00, 0x01, 0x02, 0x38, 0x39, 0x21].contains (pktOpc p)) &&
    !([0x48, 0x4F].contains (pktOpc p) && pktForce p)

/-- A long command is in progress, or a deferred one is about to start (R312, R313). -/
def State.longBusy (s : State) : Bool := s.dev.long.isSome || (s.dev.deferred.isSome && !s.planBooked)

/-- The table Commands by state (R314) with that of R347: `none` accepted, `some 0` no effect, else the refusal. -/
def stateGate (d : DevState) (opc : Nat) : Option Nat :=
  let by' := fun (ready booked running halted bank : Option Nat) => match d with
    | .ready => ready
    | .degraded => ready
    | .booked => booked
    | .running => running
    | .halted => halted
    | .bank => bank
    | _ => some stUnsupported
  let pa := some stPlanActive
  match opc with
  | 0x08 => by' none pa pa pa pa
  | 0x09 => by' (some 0) none pa none (some 0)
  | 0x0A => by' (some stUnsupported) none (some stBusy) none pa
  | 0x0B => by' (some 0) (some 0) none (some 0) none
  | 0x10 => by' none none pa none none
  | 0x11 => by' none none pa none none
  | 0x12 => by' none none pa none none
  | 0x13 => by' none pa pa pa none
  | 0x18 => by' none pa pa pa none
  | 0x19 => by' (some stBad) (some stBad) (some stBad) (some stBad) none
  | 0x1A => by' pa pa pa pa none
  | 0x20 => by' none pa pa pa none
  | 0x23 => by' none none pa none none
  | 0x28 => by' none pa pa pa (some stBusy)
  | 0x29 => by' none pa pa pa (some stBusy)
  | 0x31 => by' none pa pa pa none
  | 0x41 => by' none pa pa pa (some stBusy)
  | _ => none

/-- Checks 1 to 6 of R308, in order: `none` passed, `some 0` no effect, else the refusal. -/
def State.gate (s : State) (src : Src) (p : BitVec 512) : Option Nat :=
  let o := pktOpc p
  if !(fastOps ++ shortOps ++ longOps).contains o then some stUnsupported
  else if decide (src = .partner) && !([0x20, 0x21, 0x22, 0x23].contains o) then some stNotOwner
  else if decide (src ≠ .partner) && [0x08, 0x0A, 0x30].contains o && decide (Src.code src ≠ s.dev.owner) then some stNotOwner
  else if isChecked p && decide (pktGen p ≠ s.dev.gen.toNat) then some stChanged
  else if s.longBusy && (longOps.contains o || (shortOps.contains o && !([0x48, 0x4F].contains o))) then some stBusy
  else if s.dev.state = .grey then (if greyOps.contains o then none else some stUnsupported)
  else stateGate s.dev.state o

/-- SELFTEST and CALIBRATE with DEFER are deferred where the state's refusal is PLAN_ACTIVE (R313). -/
def deferrable (p : BitVec 512) : Bool := (decide (pktOpc p = 0x28) || decide (pktOpc p = 0x29)) && (pktFl p).testBit 0

/-- A long command is accepted: ACCEPTED is posted and it is the one in progress (R311, R312). -/
def accept (s : State) (src : Src) (pkt : BitVec 512) : State :=
  (reply s src pkt stAccepted []).updDev fun d => { d with
    long := some { src := src, pkt := pkt, w0 := 0, w1 := 0 }, hubOp := d.hubNext, hubNext := d.hubNext + 1, hubGot := [], hubAsk := [], hubLeft := none, jobStop := false }

/-- The long command in progress with opcode o. -/
def State.longOf (s : State) (o : Nat) : Option Long := s.dev.long.filter fun l => pktOpc l.pkt = o

/-- The final status of the long command in progress (R311). -/
def finishLong (s : State) (l : Long) (status : Nat) (ws : List Nat) : State :=
  reply (s.updDev fun d => { d with long := none, hubGot := [], hubAsk := [], hubLeft := none }) l.src l.pkt status ws

/-! ## What long commands read (R269, R318, R432) -/

/-- Ask for lines, each once; their data is kept as it comes. -/
def fetchLines (s : State) (ls : List Nat) : State :=
  let new := ls.filter fun l => !s.dev.hubAsk.contains l && !(s.dev.hubGot.any fun e => e.1 = l)
  forEach new (s.updDev fun d => { d with hubAsk := d.hubAsk ++ new }) fun s l =>
    issue s (.hub s.dev.hubOp false) .read l fullMask 0 false 0

/-- Every line asked for has come. -/
def State.allCome (s : State) : Bool := s.dev.hubAsk.isEmpty

/-- A line that has come, with its poison. -/
def State.takeLine (s : State) (l : Nat) : Line × Bool :=
  match s.dev.hubGot.find? fun e => e.1 = l with
  | some e => e.2
  | none => (poisonData, true)

/-- The bytes from a DA on, each with the poison of its line; and how many of their lines read as poison. -/
def takeBytes (s : State) (da n : Nat) : List (Byte × Bool) × Nat :=
  let ls := (lineDas da n).map s.takeLine
  (((ls.flatMap fun x => (bytesOf 64 x.1.toNat).map fun b => (b, x.2)).drop (da % 64)).take n, (ls.filter (·.2)).length)

/-- Statuses whose result blocks have been acknowledged are posted (R316). -/
def postDone (s : State) : State :=
  let due := s.dev.posts.filter fun p => decide (p.left = 0)
  forEach due (s.updDev fun d => { d with posts := d.posts.filter fun p => decide (p.left ≠ 0) }) fun s p =>
    reply s p.src p.pkt stOk p.words

/-- A result block is written at a DA, and OK posted once its writes are acknowledged (R316). -/
def replyAfter (s : State) (src : Src) (pkt : BitVec 512) (da : Nat) (bytes : List Byte) (ws : List Nat) : State :=
  let op := s.dev.hubNext
  let n := s.hubCount da bytes.length
  let s := s.updDev fun d => { d with
    hubNext := op + 1, posts := d.posts ++ [{ op := op, left := n, src := src, pkt := pkt, words := ws }] }
  postDone (hubPutBytes s op da bytes)

/-! ## Fast commands (R313, R317, R319) -/

/-- NOP. -/
def cmdNop (s : State) (src : Src) (pkt : BitVec 512) : State := reply s src pkt stOk []

/-- Usable tiles as IDENTIFY reports them: none in GREY (R430). -/
def State.tileMaskNow (s : State) : Nat := if s.dev.state = .grey then 0 else s.usableTileMask

/-- Vaults that are lost, with those of lost tiles. -/
def State.lostVaults (s : State) : List Nat := s.vaultList.filter fun i => !s.vaultUsable (i / 64) (i % 64)

/-- The spare physical core of a tile, or 31 (R317). -/
def State.spareOf (s : State) (t : Nat) : Nat := ((s.freeSpare t).map coreWithin).getD 31

/-- The identity block as (offset, bytes, value) (R317). -/
def State.identity (s : State) : List (Nat × Nat × Nat) :=
  let grey := decide (s.dev.state = .grey)
  [(0x000, 2, s.fuses.part.deviceId), (0x002, 2, s.fuses.revision.toNat), (0x004, 4, s.sec.version.toNat),
    (0x008, 8, s.fuses.serial.toNat), (0x010, 1, s.tileMaskNow), (0x011, 1, 2 ^ s.fuses.part.tiles - 1),
    (0x014, 4, s.power.limit), (0x018, 4, s.fuses.floorStep), (0x01C, 4, ofBits s.linkList),
    (0x020, 4, if grey then 0 else ofBits (s.linkList.filter fun n => s.tileUsable (engineTile s.fuses.part (n / 4)))),
    (0x100, 64, if grey then 0 else ofBits s.lostVaults)] ++
  (s.tileList.map fun t => (0x040 + 8 * t, 8, if grey then 31 * 2 ^ 17 else ofBits (s.usableCores t) + s.spareOf t * 2 ^ 17)) ++
  ((List.range (16 * s.fuses.part.tiles)).map fun l => (0x080 + l, 1, match s.holderOf l with
    | some c => if grey || !s.coreUsable c then 0x1F else coreWithin c
    | none => 0x1F)) ++
  (s.vaultList.filterMap fun i => ((s.vault (i / 64) (i % 64)).erased).map fun l => (0x140 + i / 2, 1, (l + 1) * 16 ^ (i % 2)))

/-- The 1 KiB of the identity block; unlisted bytes read 0. -/
def State.identityBytes (s : State) : List Byte :=
  bytesOf 1024 ((s.identity.map fun e => e.2.2 % 256 ^ e.2.1 * 256 ^ e.1).foldl (· + ·) 0)

/-- IDENTIFY (R317). -/
def cmdIdentify (s : State) (src : Src) (pkt : BitVec 512) : State :=
  let da := pktP0 pkt
  if da % 64 ≠ 0 then reply s src pkt stBad []
  else
    let cores := if s.dev.state = .grey then 0 else s.usableLogical.length
    replyAfter s src pkt da (if da = 0 then [] else s.identityBytes) [s.fuses.part.deviceId + 2 ^ 16 * s.tileMaskNow, cores,
      if s.dev.state = .grey then 0 else s.lostVaults.length, s.sec.version.toNat]

/-- READ_STATE (R313). -/
def cmdReadState (s : State) (src : Src) (pkt : BitVec 512) : State :=
  reply s src pkt stOk [s.dev.state.code + 16 * s.dev.owner, s.dev.gen.toNat, s.dev.step.toNat, s.dev.lastFault.toNat]

/-- HALT (R24, R269, R312): stops a running step, or a bank job once its kernels in progress have ended. -/
def cmdHalt (s : State) (src : Src) (pkt : BitVec 512) : State :=
  if s.running then reply (postHalted (haltStep s) 0) src pkt stOk []
  else if (s.longOf 0x1A).isSome then reply (s.updDev fun d => { d with jobStop := true }) src pkt stOk []
  else reply s src pkt stOk []

/-- MIRROR_STATUS (R313, R339). -/
def cmdMirrorStatus (s : State) (src : Src) (pkt : BitVec 512) : State :=
  reply s src pkt stOk [s.mirror.pair.code, s.mirror.partner.toNat, s.mirror.committed.toNat, s.dev.gen.toNat]

/-- Sequence number of a held record. -/
def heldSeq (f : FaultRec) : BitVec 32 := BitVec.ofNat 32 (fld f.bits 159 128)

/-- FAULT_READ (R319). -/
def cmdFaultRead (s : State) (src : Src) (pkt : BitVec 512) : State :=
  let n := nfld (pktP4 pkt) 6 0
  if pktP0 pkt % 64 ≠ 0 ∨ n = 0 ∨ 64 < n then reply s src pkt stBad []
  else
    let recs := (s.dev.faults.filter fun f => serialGe (heldSeq f) (BitVec.ofNat 32 (pktP3 pkt))).take n
    let seqs := s.dev.faults.map fun f => (heldSeq f).toNat
    replyAfter s src pkt (pktP0 pkt) (recs.flatMap fun f => bytesOf 64 f.bits.toNat) [recs.length, seqs.headD 0, seqs.getLastD 0]

/-- FAULT_CLEAR (R319). -/
def cmdFaultClear (s : State) (src : Src) (pkt : BitVec 512) : State :=
  let upTo : BitVec 32 := BitVec.ofNat 32 (pktP3 pkt)
  let s := s.updDev fun d => { d with
    faults := d.faults.map fun f => if serialGe upTo (heldSeq f) then { f with cleared := true } else f }
  reply s src pkt stOk [(s.dev.faults.filter fun f => !f.cleared).length]

/-! ## Short commands -/

/-- UNBOOK (R370). -/
def cmdUnbook (s : State) (src : Src) (pkt : BitVec 512) : State := tellMove (reply (unbookPlan s) src pkt stOk []) s.dev.state

/-- START (R24, R285, R369, R389, R414): refused while its translations cannot be locked again; where they are missing it
waits for them, and no packet is taken in the meantime (R285, R308). -/
def cmdStart (s : State) (src : Src) (pkt : BitVec 512) : State :=
  match s.dev.plan with
  | none => reply s src pkt stDegraded []
  | some p =>
    if !s.stillAdmissible p || !s.canTranslate p then reply s src pkt stDegraded []
    else if s.belowFloor then reply s src pkt stBusy []
    else if !s.translated p then
      (askPages s p).updDev fun d => { d with starting := some { src := src, pkt := pkt, w0 := 0, w1 := 0 } }
    else
      let w1 := s.pendingTime
      let prev := s.dev.state
      let s := startStep s p
      tellMove (reply s src pkt stOk [s.dev.step.toNat, w1]) prev

/-- A START that waits for its translations goes on once they are there, or ends where one is refused (R285). -/
def pumpStart (s : State) : State :=
  match s.dev.starting, s.dev.plan with
  | some l, some _ =>
    let s := s.updDev fun d => { d with starting := none }
    if l.w0 = 1 then reply s l.src l.pkt stDegraded [] else cmdStart s l.src l.pkt
  | some l, none => reply (s.updDev fun d => { d with starting := none }) l.src l.pkt stDegraded []
  | none, _ => s

/-- The slot of a range entered exactly as (base, length) (R274). -/
def State.slotOf (s : State) (base n : Nat) : Option Nat := s.dev.ranges.findIdx? fun r => r = some (base, n)

/-- BANK_EXIT (R274). -/
def cmdBankExit (s : State) (src : Src) (pkt : BitVec 512) : State :=
  match s.slotOf (pktP0 pkt) (pktP1 pkt) with
  | none => reply s src pkt stBad []
  | some i =>
    let prev := s.dev.state
    let s := s.updDev fun d => { d with ranges := d.ranges.set i none }
    tellMove (reply (if s.dev.ranges.all (·.isNone) then s.enter s.idleState else s) src pkt stOk []) prev

/-- MIRROR_SET (R336, R339, R346, R393). -/
def cmdMirrorSet (s : State) (src : Src) (pkt : BitVec 512) : State :=
  let partner := nfld (pktP3 pkt) 11 0
  let mask := nfld (pktP4 pkt) 23 0
  let links := onBits 24 mask
  if 8 < links.length ∨ !links.all s.populated ∨ partner = 0xFFF ∨ partner = s.dev.devid.toNat then reply s src pkt stBad []
  else
    let m := { s.mirror.discard with
      partner := BitVec.ofNat 12 partner, links := BitVec.ofNat 24 mask, linksDefault := decide (mask = 0), refuse := false
      commit := none, storeCommit := none, bad := false, resync := false, hstep := 0, silence := 0, aliveRx := []
      counts := List.replicate 8 0, recv := List.replicate 8 0, restoreTo := none }
    let m := if (pktFl pkt).testBit 0 then { m with en := true, pair := .forming, committed := 0, expect := 1, p := m.allGranules, w := [], copied := [] }
      else { m with en := false, pair := .off }
    reply { s with mirror := m } src pkt stOk []

/-- POWER_LIMIT (R310, R417). -/
def cmdPowerLimit (s : State) (src : Src) (pkt : BitVec 512) : State :=
  let w := pktP3 pkt
  if w ≠ 0 ∧ (w < s.fuses.part.minLim ∨ s.fuses.part.maxLim < w) then reply s src pkt stBad []
  else if w ≠ 0 ∧ w < s.fuses.floorLim ∧ s.planBooked then reply s src pkt stPlanActive []
  else
    let s := if w = 0 then s else s.updPower fun p => { p with limit := w }
    let s := if (pktFl pkt).testBit 1 then s.updDev fun d => { d with owner := 1 - d.owner } else s
    reply s src pkt stOk [s.power.limit]

/-- THERMAL_CFG (R418). -/
def cmdThermalCfg (s : State) (src : Src) (pkt : BitVec 512) : State :=
  let f := pktFl pkt
  let target := nfld (pktP3 pkt) 7 0
  let rise := nfld (pktP3 pkt) 15 8
  let cool := nfld (pktP4 pkt) 15 0
  let rplate := nfld (pktP4 pkt) 31 16
  let ok := (!f.testBit 0 || (decide (70 ≤ target ∧ target ≤ 93) && decide (5 ≤ rise ∧ rise ≤ 100))) &&
    (!f.testBit 1 || decide (0x0050 ≤ cool ∧ cool ≤ 0x0230)) && (!f.testBit 2 || decide (50 ≤ rplate ∧ rplate ≤ 2000))
  if !ok then reply s src pkt stBad []
  else
    let s := s.updPower fun p => { p with
      target := if f.testBit 0 then BitVec.ofNat 8 target else p.target
      riseLim := if f.testBit 0 then BitVec.ofNat 8 rise else p.riseLim
      cool := if f.testBit 1 then BitVec.ofNat 16 cool else p.cool
      rplate := if f.testBit 2 then BitVec.ofNat 16 rplate else p.rplate }
    reply s src pkt stOk []

/-- FREEZE: OK, and then the freeze (R441). -/
def cmdFreeze (s : State) (src : Src) (pkt : BitVec 512) : State := freezeAll (reply s src pkt stOk [])

/-- RESET_DEVICE: OK, and then the reset (R434). -/
def cmdResetDevice (s : State) (src : Src) (pkt : BitVec 512) : State := resetAll (reply s src pkt stOk []) 1

end Sys2Proof.Machine
end

