-- ==== Sys2Proof/Machine/LongOps.lean ====
section
/-!
DEFINITION. The long commands (R247, R269 to R275, R318, R346, R348, R367, R432, R433, R438, R439): what their acceptance
begins, what moves them on, and their completion; carrying out any command; taking slots and partner commands.
-/
namespace Sys2Proof.Machine

/-! ## BOOK (R367) -/

def cmdBook (s : State) (src : Src) (pkt : BitVec 512) : State := bookAdvance (accept s src pkt)

/-- BOOK_COMPLETE: the plan is admitted, or refused with everything undone; nothing while an answer is awaited (R367,
R368). -/
def execBookComplete (s : State) : Answer :=
  .next (
    let s := bookAdvance s
    match s.longOf 0x08 with
    | none => s
    | some l =>
      if !s.awake then s
      else match s.bookRefusal l with
        | some f => finishLong (bookUndo s) l (bookStatus f.w3) [f.w0, f.w1, f.w2, f.w3]
        | none => match l.w1, s.dev.plan with
          | 4, some p =>
            let q := (s.admission p).2
            if !s.fillReady q then s
            else tellMove (finishLong (enterBooked (fillWritten s q) q) l stOk [noWord, noWord, q.stepBound, 0]) s.dev.state
          | _, _ => s)

/-! ## DISCARD (R247, R369) -/

/-- A DISCARD of the range is refused by R369: it overlaps a stacked region of the booked plan. -/
def State.discardHitsPlan (s : State) (base n : Nat) : Bool :=
  s.planBooked && (match s.dev.plan with
    | some p => p.regions.any fun r => r.stacked && overlaps base n r.base r.len
    | none => false)

def cmdDiscard (s : State) (src : Src) (pkt : BitVec 512) : State :=
  let base := pktP0 pkt
  let n := pktP1 pkt
  if !s.inStacked base n then reply s src pkt stBad []
  else if s.discardHitsPlan base n then reply s src pkt stPlanActive []
  else recallRange (accept s src pkt) base n

/-- The granules with a line in a DA range: tile and granule, once each. -/
def State.granulesOf (s : State) (a n : Nat) : List (Nat × Nat) :=
  ((lineDas a n).filterMap s.place).foldl (fun l p =>
    let g := (p.tile, s.granuleOf p)
    if l.contains g then l else l ++ [g]) []

/-- One granule is discarded, and with it every write to it accepted before: its bit is cleared; in bank mode its lines are
zeroed and the bit stays (R247). -/
def discardGranule (s : State) (da : Nat) (g : Nat × Nat) : State :=
  let ls := s.granuleLines g.1 g.2
  let s := forEach ls s settleLine
  if s.inBankMode da then forEach (ls.filter fun p => s.vaultUsable p.tile p.vault) s zeroLine
  else
    let s := s.updTile g.1 fun x => { x with granules := dropNat g.2 x.granules, filling := dropNat g.2 x.filling }
    forEach ls s fun s p => noteChange s p 0 false

/-- What a range meets in one window (R247): the DAs of the granule spans that lie inside it whole, and base and length of
the parts that lie in spans only partly inside. -/
def Win.discardParts (w : Win) (base n : Nat) : List Nat × List (Nat × Nat) :=
  let wb := 2 ^ 30 * w.base
  let lo := max base wb
  let hi := min (base + n) (wb + 2 ^ 30 * w.size)
  let k0 := (lo - wb + w.span - 1) / w.span
  let k1 := (hi - wb) / w.span
  if hi ≤ lo then ([], [])
  else if k0 < k1 then
    ((List.range (k1 - k0)).map fun i => wb + (k0 + i) * w.span,
      [(lo, wb + k0 * w.span - lo), (wb + k1 * w.span, hi - (wb + k1 * w.span))])
  else ([], [(lo, hi - lo)])

/-- The granules that a DISCARD takes whole, each with a DA of its span. -/
def State.discarded (s : State) (base n : Nat) : List (Nat × Nat × Nat) :=
  s.windows.flatMap fun e => (e.2.discardParts base n).1.flatMap fun a => (s.granulesOf a e.2.span).map fun g => (a, g)

/-- Step 2 of R247, and step 3 issued: zeros to the rest of the range, as ordinary writes. -/
def discardRange (s : State) (base n : Nat) : State :=
  let parts := s.windows.flatMap fun e => (e.2.discardParts base n).2
  let s := forEach (s.discarded base n) s fun s e => discardGranule s e.1 e.2
  hubWriteLines s ((parts.flatMap fun p => rangeLines p.1 p.2).map fun e => (e.1, e.2, 0, false))

/-- The zero code words that DISCARD writes in bank mode can be written now. -/
def State.discardReady (s : State) (base n : Nat) : Bool :=
  (s.discarded base n).all fun e => !s.inBankMode e.1 || s.granuleFree e.2.1 e.2.2

/-- The long command in progress does its work once, when it may; what it writes is acknowledged later. -/
def onceReady (s : State) (ready : Bool) (work : State → State) : State :=
  if s.dev.hubLeft.isNone && ready then work s else s

/-- The long command in progress ends with OK once everything it wrote is acknowledged (R311, R318). -/
def finishDone (s : State) (l : Long) (ws : List Nat) : State := if s.hubDone then finishLong s l stOk ws else s

/-- DISCARD_COMPLETE (R247). -/
def execDiscardComplete (s : State) : Answer :=
  .next (match s.longOf 0x10 with
    | some l =>
      let a := pktP0 l.pkt
      let n := pktP1 l.pkt
      if s.clocked then
        let r := recallAgain s [(a, n)]
        finishDone (onceReady r.1 (r.2 && s.discardReady a n) fun s => discardRange s a n) l []
      else s
    | none => s)

/-! ## FILL and COPY (R318) -/

def cmdFill (s : State) (src : Src) (pkt : BitVec 512) : State :=
  let base := pktP0 pkt
  let n := pktP1 pkt
  if base % 4 ≠ 0 ∨ n % 4 ≠ 0 ∨ !s.inStacked base n then reply s src pkt stBad []
  else accept s src pkt

/-- A line that repeats a 32-bit pattern. -/
def patternLine (w : Nat) : Line := packW 512 ((List.range 16).map fun i => (32 * i, w % 2 ^ 32))

/-- The pattern written in every word of a range. -/
def fillRange (s : State) (a n w : Nat) : State :=
  hubWriteLines s ((rangeLines a n).map fun e => (e.1, e.2, patternLine w, false))

/-- FILL_COMPLETE: the pattern in every word of the range, as ordinary writes (R318). -/
def execFillComplete (s : State) : Answer :=
  .next (match s.longOf 0x11 with
    | some l =>
      let a := pktP0 l.pkt
      let n := pktP1 l.pkt
      if s.clocked then finishDone (onceReady s true fun s => fillRange s a n (pktP3 l.pkt)) l [] else s
    | none => s)

/-- The kinds of DA that COPY takes: 1 stacked memory, 2 the host window, 3 the peer window; 0 any other. -/
def State.copyKind (s : State) (da : Nat) : Nat :=
  match s.kind da with
  | .stacked => 1
  | .host _ _ => 2
  | .peer _ _ => 3
  | _ => 0

/-- A range lies in one kind of DA that COPY takes (R318). -/
def State.copyRange (s : State) (da n : Nat) : Bool :=
  let last := da + (n - 1)
  decide (s.copyKind da ≠ 0) && decide (last < 2 ^ 48) && decide (s.copyKind da = s.copyKind last) &&
    (decide (s.copyKind da ≠ 1) || s.inStacked da n)

/-- Once every source line is there, the destination is written; W0 counts the source lines
that read as poison. -/
def copyPump (s : State) (l : Long) : State :=
  let a := pktP0 l.pkt
  let b := pktP1 l.pkt
  let n := pktP2 l.pkt
  onceReady s s.allCome fun s =>
    let r := takeBytes s a n
    let part := fun (e : Nat) => (r.1.drop (e - b)).take (64 - (b - e))
    hubWriteLines (s.updDev fun d => { d with long := d.long.map fun l => { l with w0 := r.2 } })
      ((rangeLines b n).map fun e => (e.1, e.2, lineAt b e.1 (r.1.map Prod.fst), (part e.1).any Prod.snd))

def cmdCopy (s : State) (src : Src) (pkt : BitVec 512) : State :=
  let a := pktP0 pkt
  let b := pktP1 pkt
  let n := pktP2 pkt
  if !(s.copyRange a n && s.copyRange b n) then reply s src pkt stBad []
  else fetchLines (accept s src pkt) (lineDas a n)

/-- COPY_COMPLETE (R318). -/
def execCopyComplete (s : State) : Answer :=
  .next (match s.longOf 0x12 with
    | some l =>
      if s.clocked then
        let s := copyPump s l
        match s.dev.long with
        | some l => finishDone s l [l.w0]
        | none => s
      else s
    | none => s)

/-! ## ENCODE (R275) -/

def cmdEncode (s : State) (src : Src) (pkt : BitVec 512) : State :=
  let base := pktP0 pkt
  let n := pktP1 pkt
  if !s.inStacked base n then reply s src pkt stBad [] else recallRange (accept s src pkt) base n

/-- The row's raw-row bit is set. -/
def State.rawRow (s : State) (p : Place) : Bool := (s.vault p.tile p.vault).rawRows.contains (p.bs * 16384 + p.row)

/-- One line of a row that may hold raw lines is read; a raw one is re-encoded from its data symbols; in a vault with an
erased layer it is written poisoned and counted as uncorrectable. Lines re-encoded, lines poisoned. -/
def encodeOne (a : State × Nat × Nat) (p : Place) : State × Nat × Nat :=
  let s := a.1
  if s.vaultUsable p.tile p.vault && s.rawRow p then
    let s := columnTransfer s p 0
    if s.peek p = .raw then
      let d := lineOf ((s.stored p).take 64)
      let s := columnTransfer s p 0
      if (s.vault p.tile p.vault).erased.isSome then
        ((writeLine s p d true).updVault p.tile p.vault fun v => { v with ue := satAdd v.ue 1 }, a.2.1, a.2.2 + 1)
      else (writeLine s p d false, a.2.1 + 1, a.2.2)
    else (s, a.2)
  else a

/-- The stacked lines of a range. -/
def State.rangePlaces (s : State) (a n : Nat) : List Place := (lineDas a n).filterMap s.place

/-- Rows all of whose columns are among the places visited lose their raw-row bit. -/
def clearRawRows (s : State) (ps : List Place) : State :=
  forEach (ps.filter fun p => decide (p.col = 0) && s.rawRow p) s fun s p =>
    if (ps.filter fun q => q.tile = p.tile ∧ q.vault = p.vault ∧ q.bs = p.bs ∧ q.row = p.row).length = 256 then
      s.updVault p.tile p.vault fun v => { v with rawRows := dropNat (p.bs * 16384 + p.row) v.rawRows }
    else s

/-- ENCODE_COMPLETE, once no request to a line of the range is under way (R275). -/
def execEncodeComplete (s : State) : Answer :=
  .next (match s.longOf 0x13 with
    | some l =>
      let ps := s.rangePlaces (pktP0 l.pkt) (pktP1 l.pkt)
      let h := recallAgain s [(pktP0 l.pkt, pktP1 l.pkt)]
      if !s.clocked then s
      else if h.2 && ps.all s.lineQuiet then
        let r := ps.foldl encodeOne (s, 0, 0)
        finishLong (clearRawRows r.1 ps) l stOk [r.2.1, r.2.2]
      else h.1
    | none => s)

/-! ## BANK_ENTER and BANK_RUN (R269 to R272) -/

/-- Why BANK_ENTER refuses a range; `none`: it does not (R272). -/
def State.enterRefusal (s : State) (base n : Nat) : Option Nat :=
  match s.windowOf base with
  | none => some stBad
  | some w =>
    let wb := 2 ^ 30 * w.base
    if n = 0 ∨ n % w.span ≠ 0 ∨ (base - wb) % w.span ≠ 0 ∨ wb + 2 ^ 30 * w.size < base + n then some stBad
    else if (s.granulesOf base n).any fun g => (s.tile g.1).clotu then some stUnsupported
    else if s.touchesBank base n || s.dev.ranges.all (·.isSome) then some stResource
    else none

def cmdBankEnter (s : State) (src : Src) (pkt : BitVec 512) : State :=
  match s.enterRefusal (pktP0 pkt) (pktP1 pkt) with
  | some st => reply s src pkt st []
  | none => recallRange (accept s src pkt) (pktP0 pkt) (pktP1 pkt)

/-- BANK_ENTER_COMPLETE: the range is filled, fenced and recorded; requests held meet the fence (R272). -/
def execBankEnterComplete (s : State) : Answer :=
  .next (match s.longOf 0x18 with
    | some l =>
      let base := pktP0 l.pkt
      let n := pktP1 l.pkt
      let gs := (s.granulesOf base n).filter fun g => !s.granuleValid g.1 g.2
      let h := recallAgain s [(base, n)]
      if !s.clocked then s
      else if h.2 && gs.all fun g => s.granuleFree g.1 g.2 then
        let prev := s.dev.state
        let i := (s.dev.ranges.findIdx? (·.isNone)).getD 0
        let s := forEach gs s fun s g => fillGranule s g.1 g.2
        let s := (s.updDev fun d => { d with ranges := d.ranges.set i (some (base, n)) }).enter .bank
        retryHeld (retryHeld (tellMove (finishLong s l stOk [i]) prev) 0) 1
      else h.1
    | none => s)

/-- Block size and result table of a BANK_RUN fit its range (R269). -/
def State.jobFits (s : State) (p : BitVec 512) (base n : Nat) : Bool :=
  let b := jobB p
  decide (b = 0) || (decide (((s.windowOf base).map Win.span).getD 4096 ≤ b) && decide (n % b = 0) &&
    !s.touchesBank (pktP2 p) (16 * (n / b)))

/-- Instructions of a BANK_RUN program. -/
def jobLen (p : BitVec 512) : Nat := nfld (pktP3 p) 5 0 + 1

/-- Once its program has come, the job starts; a program that reads as poison ends it (R269, R316). -/
def bankPump (s : State) (l : Long) : State :=
  if s.dev.job.isSome || s.dev.jobStop || !s.allCome then s
  else
    let r := takeBytes s (pktP1 l.pkt) (4 * jobLen l.pkt)
    if 0 < r.2 then finishLong s l stFault []
    else startJob s l (r.1.map Prod.fst)

def cmdBankRun (s : State) (src : Src) (pkt : BitVec 512) : State :=
  match s.rangeAt (pktP0 pkt) with
  | none => reply s src pkt stBad []
  | some (base, n) =>
    if !s.jobFits pkt base n then reply s src pkt stBad []
    else
      let s := fetchLines (accept s src pkt) (lineDas (pktP1 pkt) (4 * jobLen pkt))
      match s.dev.long with
      | some l => bankPump s l
      | none => s

/-- BANK_RUN_COMPLETE: the last kernel has ended; the result table is written, and the status follows its
acknowledgement (R269 to R271). -/
def execBankRunComplete (s : State) : Answer :=
  .next (match s.longOf 0x1A with
    | some l =>
      if !s.clocked then s
      else match s.dev.job with
        | some (j, _) =>
          let s := onceReady s s.jobDone finishJob
          if s.hubDone then
            finishLong (s.updDev fun d => { d with job := none, jobStop := false }) l stOk [j.w0, j.w1]
          else s
        | none => if s.dev.jobStop then finishLong (s.updDev fun d => { d with jobStop := false }) l stOk [0, 0] else s
    | none => s)

/-! ## TAKEOVER and RESTORE_TO (R346, R348) -/

def cmdTakeover (s : State) (src : Src) (pkt : BitVec 512) : State :=
  let m := s.mirror
  if nfld (pktP3 pkt) 11 0 ≠ m.partner.toNat then reply s src pkt stBad []
  else if !m.hvalid then reply s src pkt stResource []
  else
    let s := accept s src pkt
    let s := if m.pair = .lost then s else sendToPartner s m.partner.toNat 0xC 0 0 []
    let s := if m.commit.isSome then endCommit s false else s
    s.updMirror fun m => { m with wb := [], otherValid := [], storeCommit := none, refuse := true, pair := .held }

/-- TAKEOVER_COMPLETE (R346). -/
def execTakeoverComplete (s : State) : Answer :=
  .next (match s.longOf 0x22 with
    | some l => if s.awake then finishLong s l stOk [s.mirror.hstep.toNat] else s
    | none => s)

/-- TAKEOVER_MSG: the partner takes over; where the two cross, the device whose MIRROR_ROLE is 0 completes its own and
ignores the other's (R346). -/
def execTakeoverMsg (n : Nat) (s : State) : Answer :=
  .next (match takeControl s n 0xC with
    | (none, s) => s
    | (some m, s) =>
      if !(s.mirror.en && decide (m.src = s.mirror.partner.toNat)) then s
      else if s.mirror.pair = .held ∧ !strapRole s.dev.straps then s
      else match s.longOf 0x22 with
        | some l => finishLong (takenOver s) l stChanged []
        | none => takenOver s)

/-- RESTORE_TO is refused (R2, R348): a link that the part does not populate, none of its links up, a pair not HELD, or a
destination that is no other device. -/
def State.restoreRefused (s : State) (pkt : BitVec 512) : Bool :=
  let dst := nfld (pktP3 pkt) 11 0
  let mask := nfld (pktP4 pkt) 23 0
  !(onBits 24 mask).all s.populated || (s.restoreLinks mask).isEmpty || decide (s.mirror.pair ≠ .held) ||
    decide (dst = 0xFFF) || decide (s.dev.devid = 0xFFF) || decide (dst = s.dev.devid.toNat)

def cmdRestoreTo (s : State) (src : Src) (pkt : BitVec 512) : State :=
  let dst := nfld (pktP3 pkt) 11 0
  if s.restoreRefused pkt then reply s src pkt stBad []
  else
    let s := (accept s src pkt).updMirror fun m => { m with restoreTo := some (BitVec.ofNat 12 dst, 0), restoreShorts := 0 }
    sendControl s (nth (s.restoreLinks (nfld (pktP4 pkt) 23 0)) 0 0) dst 0xB s.mirror.hstep 0 (mapUnits s.mirror.held)

/-- RESTORE_TO_COMPLETE: D has acknowledged its commit, refused the map, or the restore has failed (R348, R395). -/
def execRestoreToComplete (s : State) : Answer :=
  .next (match s.longOf 0x23 with
    | some l =>
      let done := s.updMirror fun m => { m with restoreTo := none }
      if !s.clocked then s
      else match s.mirror.restoreTo with
        | some (_, 2) => finishLong done l stOk [mib (4096 * s.mirror.heldValid.length)]
        | some (_, 3) => finishLong done l stResource []
        | some (_, 4) => finishLong done l stFault []
        | _ => if (s.restoreLinks (nfld (pktP4 l.pkt) 23 0)).isEmpty then finishLong done l stFault [] else s
    | none => s)

/-! ## SELFTEST and CALIBRATE (R438, R439) -/

/-- Tiles that a CALIBRATE names and that are usable. -/
def State.calTiles (s : State) (p : BitVec 512) : List Nat := (onBits 8 (pktP3 p)).filter s.tileUsable

/-- Every vault of the tiles under calibration, or no longer. -/
def setCalibrating (s : State) (ts : List Nat) (on : Bool) : State :=
  forEach ts s fun s t => forEach (List.range 64) s fun s v =>
    if s.vaultUsable t v then s.updVault t v fun x => { x with calibrating := on } else s

/-- A SELFTEST or CALIBRATE that is the long command in progress begins its work. -/
def beginTest (s : State) (p : BitVec 512) : State := if pktOpc p = 0x29 then setCalibrating s (s.calTiles p) true else s

def cmdSelftest (s : State) (src : Src) (pkt : BitVec 512) : State := accept s src pkt
def cmdCalibrate (s : State) (src : Src) (pkt : BitVec 512) : State := beginTest (accept s src pkt) pkt

/-- DEFERRED_COMMAND_START: once the UNBOOK's status has been posted, it is the long command in progress (R313). -/
def execDeferredCommandStart (s : State) : Answer :=
  .next (match s.dev.deferred with
    | some l =>
      if s.clocked && !s.planBooked && s.dev.long.isNone then
        beginTest (s.updDev fun d => { d with long := some l, deferred := none }) l.pkt
      else s
    | none => s)

/-- Test 0: scratch valid bits are cleared; failing cores are handled as failures outside a step (R386, R438). -/
def testCores (s : State) (bad : List Nat) : State :=
  let s := forEach (s.cores.map Prod.fst) s fun s c => s.updCore c fun k => { k with valid := [] }
  forEach bad s fun s c => match s.logicalOf c, s.freeSpare (tileOfCore c) with
    | some l, some spare => remapCore s c l spare 1
    | _, _ => loseCore s c 1

/-- Test 1: every valid line is read as a scrub read, corrections written back; an uncorrectable line fails the test
(R257, R438). -/
def testLines (s : State) : State × Bool :=
  let ps := s.tileList.flatMap fun t => (s.tile t).granules.flatMap fun g => s.granuleLines t g
  (ps.filter fun p => s.vaultUsable p.tile p.vault).foldl (fun (a : State × Bool) p => match readLine (columnTransfer a.1 p 2) p 2 with
    | (.corrected d _ _, s) => (putLine (columnTransfer s p 2) p d false, a.2)
    | (.bad _, s) => (columnTransfer s p 2, true)
    | (_, s) => (s, a.2)) (s, false)

/-- Test 3 has failed: a record as reason HUB gives it, and no tile is usable any more (R428, R438). -/
def hubFailed (s : State) : State :=
  let a := s.sec.flash.governing.getD Attempts.reset
  let s := forEach s.tileList s fun s t => if (s.tile t).lost then s else dropTile s t
  let prev := s.dev.state
  let s := postFaultRec (s.enter s.idleState) 0x38 0 [a.fails, 0x03, a.reason a.newest, a.reason (a.newest + 7)] 0 false false
    (decide (prev ≠ s.idleState))
  if prev = s.dev.state then s else postChange s prev s.dev.lastFault

/-- SELFTEST_COMPLETE (R438). -/
def execSelftestComplete (res : SelftestResult) (s : State) : Answer :=
  .next (match s.longOf 0x28 with
    | some l =>
      if s.clocked then
        let m := pktP3 l.pkt
        let bad := if m.testBit 0 then res.badCores.filter s.coreUsable else []
        let s := if m.testBit 0 then testCores s bad else s
        let t1 := if m.testBit 1 then testLines s else (s, false)
        let links := if m.testBit 2 then res.badLinks.filter fun n => s.populated n && !s.linkUp n else []
        let s := forEach links t1.1 fun s n => linkDown s n 0x4 0
        let hub := m.testBit 3 && res.badHub
        let s := if hub then hubFailed s else s
        finishLong s l stOk [b2n (!bad.isEmpty) + 2 * b2n t1.2 + 4 * b2n (!links.isEmpty) + 8 * b2n hub]
      else s
    | none => s)

/-- CALIBRATE_COMPLETE: vaults that failed are lost, their tiles' bits clear in W0 (R439). -/
def execCalibrateComplete (failed : List (Nat × Nat)) (s : State) : Answer :=
  .next (match s.longOf 0x29 with
    | some l =>
      if s.clocked then
        let ts := s.calTiles l.pkt
        let bad := failed.filter fun e => ts.contains e.1 && s.vaultUsable e.1 e.2
        let s := setCalibrating s ts false
        let s := forEach bad s fun s e => loseVault s e.1 e.2 3 0
        finishLong s l stOk [ofBits (ts.filter fun t => s.tileUsable t && !bad.any fun e => e.1 = t)]
      else s
    | none => s)

/-! ## Firmware (R432, R433, R464) -/

/-- Longest image (R425, R432). -/
def maxImage : Nat := 24 * 2 ^ 20

def cmdFwStage (s : State) (src : Src) (pkt : BitVec 512) : State :=
  let grey := decide (s.dev.state = .grey)
  let hp0 := match s.kind (pktP0 pkt) with
    | .host x _ => decide (x = 0)
    | _ => false
  if maxImage < pktP2 pkt ∨ (grey && !hp0) then reply s src pkt stBad []
  else if s.sec.qspiExt then reply s src pkt stBusy []
  else fetchLines (accept s src pkt) (lineDas (pktP0 pkt) (pktP2 pkt))

/-- FW_STAGE_COMPLETE: a verified image is written to the slot that is not active and verified again; vector 6 reports each
tenth of it (R432). -/
def execFwStageComplete (s : State) : Answer :=
  .next (match s.longOf 0x40 with
    | some l =>
      if s.awake && s.allCome then
        let r := takeBytes s (pktP0 l.pkt) (pktP2 l.pkt)
        let img := r.1.map Prod.fst
        if 0 < r.2 ∨ imageWhy s.fuses img ≠ 0 ∨ !s.sec.flash.readable then finishLong s l stAuth []
        else
          let s := s.updSec fun x => { x with flash := x.flash.setSlot (!x.flash.activeB) { bytes := img, invalid := false } }
          finishLong (forEach (List.range 10) s fun s _ => sendMsixBoth s 6) l stOk [imgVersion img]
      else s
    | none => s)

/-- FW_ACTIVATE: the marker is rewritten, OK posted, and the device resets as RESET_DEVICE does, with its own cause (R433,
R446). -/
def cmdFwActivate (s : State) (src : Src) (pkt : BitVec 512) : State :=
  let b := !s.sec.flash.activeB
  if s.sec.qspiExt then reply s src pkt stBusy []
  else if s.slotWhy b ≠ 0 then reply s src pkt stBad []
  else
    let s := accept s src pkt
    let s := s.updSec fun x => { x with flash := x.flash.setActive b }
    resetAll (reply (s.updDev fun d => { d with long := none }) src pkt stOk []) 2

/-! ## Carrying out a command (R308, R313) -/

/-- The command's own rules, once checks 1 to 6 have passed. -/
def carryOut (s : State) (src : Src) (p : BitVec 512) : State :=
  match pktOpc p with
  | 0x00 => cmdNop s src p
  | 0x01 => cmdIdentify s src p
  | 0x02 => cmdReadState s src p
  | 0x08 => cmdBook s src p
  | 0x09 => cmdUnbook s src p
  | 0x0A => cmdStart s src p
  | 0x0B => cmdHalt s src p
  | 0x10 => cmdDiscard s src p
  | 0x11 => cmdFill s src p
  | 0x12 => cmdCopy s src p
  | 0x13 => cmdEncode s src p
  | 0x18 => cmdBankEnter s src p
  | 0x19 => cmdBankExit s src p
  | 0x1A => cmdBankRun s src p
  | 0x20 => cmdMirrorSet s src p
  | 0x21 => cmdMirrorStatus s src p
  | 0x22 => cmdTakeover s src p
  | 0x23 => cmdRestoreTo s src p
  | 0x28 => cmdSelftest s src p
  | 0x29 => cmdCalibrate s src p
  | 0x30 => cmdPowerLimit s src p
  | 0x31 => cmdThermalCfg s src p
  | 0x38 => cmdFaultRead s src p
  | 0x39 => cmdFaultClear s src p
  | 0x40 => cmdFwStage s src p
  | 0x41 => cmdFwActivate s src p
  | 0x48 => cmdFreeze s src p
  | 0x4F => cmdResetDevice s src p
  | _ => reply s src p stUnsupported []

/-- Result words of a command that checks 1 to 6 refuse: of BOOK no core, leg or worst case applies (R368). -/
def refusalWords (p : BitVec 512) : List Nat := if pktOpc p = 0x08 then [noWord, noWord, noWord] else []

/-- A packet that has passed R307 is checked and carried out, refused, deferred, or has no effect (R308, R313, R314). -/
def command (s : State) (src : Src) (p : BitVec 512) : State :=
  match s.gate src p with
  | none => carryOut s src p
  | some st =>
    if st = stPlanActive && deferrable p then
      if s.dev.deferred.isSome then reply s src p stBusy []
      else (reply s src p stAccepted []).updDev fun d => { d with deferred := some { src := src, pkt := p, w0 := 0, w1 := 0 } }
    else reply s src p st (refusalWords p)

/-- Buaman takes commands: not in OFF, BOOT or FROZEN; in GREY only from HP0; from the partner of an enabled pair (R314,
R336, R430). -/
def State.takes (s : State) (src : Src) : Bool :=
  s.awake && decide (s.dev.state ≠ .boot) && (match src with
    | .hp0 => true
    | .hp1 => decide (s.dev.state ≠ .grey)
    | .partner => decide (s.dev.state ≠ .grey) && s.mirror.en)

/-- One command of the table, taken with its own opcode. -/
def take (s : State) (src : Src) (p : BitVec 512) (opc : Nat) : Answer :=
  .next (if s.takes src then command s src (setFld p 7 0 opc) else s)

def execNop (src : Src) (pkt : BitVec 512) (s : State) : Answer := take s src pkt 0x00
def execIdentify (src : Src) (pkt : BitVec 512) (s : State) : Answer := take s src pkt 0x01
def execReadState (src : Src) (pkt : BitVec 512) (s : State) : Answer := take s src pkt 0x02
def execBook (src : Src) (pkt : BitVec 512) (s : State) : Answer := take s src pkt 0x08
def execUnbook (src : Src) (pkt : BitVec 512) (s : State) : Answer := take s src pkt 0x09
def execStartCmd (src : Src) (pkt : BitVec 512) (s : State) : Answer := take s src pkt 0x0A
def execHalt (src : Src) (pkt : BitVec 512) (s : State) : Answer := take s src pkt 0x0B
def execDiscard (src : Src) (pkt : BitVec 512) (s : State) : Answer := take s src pkt 0x10
def execFill (src : Src) (pkt : BitVec 512) (s : State) : Answer := take s src pkt 0x11
def execCopyCmd (src : Src) (pkt : BitVec 512) (s : State) : Answer := take s src pkt 0x12
def execEncode (src : Src) (pkt : BitVec 512) (s : State) : Answer := take s src pkt 0x13
def execBankEnter (src : Src) (pkt : BitVec 512) (s : State) : Answer := take s src pkt 0x18
def execBankExit (src : Src) (pkt : BitVec 512) (s : State) : Answer := take s src pkt 0x19
def execBankRun (src : Src) (pkt : BitVec 512) (s : State) : Answer := take s src pkt 0x1A
def execMirrorSet (src : Src) (pkt : BitVec 512) (s : State) : Answer := take s src pkt 0x20
def execMirrorStatus (src : Src) (pkt : BitVec 512) (s : State) : Answer := take s src pkt 0x21
def execTakeover (src : Src) (pkt : BitVec 512) (s : State) : Answer := take s src pkt 0x22
def execRestoreTo (src : Src) (pkt : BitVec 512) (s : State) : Answer := take s src pkt 0x23
def execSelftest (src : Src) (pkt : BitVec 512) (s : State) : Answer := take s src pkt 0x28
def execCalibrate (src : Src) (pkt : BitVec 512) (s : State) : Answer := take s src pkt 0x29
def execPowerLimit (src : Src) (pkt : BitVec 512) (s : State) : Answer := take s src pkt 0x30
def execThermalCfg (src : Src) (pkt : BitVec 512) (s : State) : Answer := take s src pkt 0x31
def execFaultRead (src : Src) (pkt : BitVec 512) (s : State) : Answer := take s src pkt 0x38
def execFaultClear (src : Src) (pkt : BitVec 512) (s : State) : Answer := take s src pkt 0x39
def execFwStage (src : Src) (pkt : BitVec 512) (s : State) : Answer := take s src pkt 0x40
def execFwActivate (src : Src) (pkt : BitVec 512) (s : State) : Answer := take s src pkt 0x41
def execFreeze (src : Src) (pkt : BitVec 512) (s : State) : Answer := take s src pkt 0x48
def execResetDevice (src : Src) (pkt : BitVec 512) (s : State) : Answer := take s src pkt 0x4F

/-! ## Slots (R302, R303, R307) -/

/-- Source of a port. -/
def portSrc (x : Nat) : Src := if x = 0 then .hp0 else .hp1

/-- Expected sequence byte of the slot at HEAD (R303). -/
def Port.expected (p : Port) : BitVec 8 := tget 1 p.cmd.slots p.cmd.head

/-- SEQ, and CRC, of a slot's content fails (R307). -/
def Port.slotFails (p : Port) (slot : BitVec 512) : Bool × Bool :=
  (decide (pktSeq slot ≠ p.expected.toNat), !pktCrcOk slot)

/-- A packet that has arrived can be taken now: its port carries traffic and its source is served (R302, R314). -/
def State.takeable (s : State) : Arrival → Bool
  | .slot x => s.takes (portSrc x) && (s.port x).live && (s.port x).cmd.en
  | .msg _ => s.takes .partner

/-- The packet whose turn it is, one at a time and in arrival order (R308). -/
def State.nextArrival (s : State) : Option Arrival :=
  if s.dev.starting.isSome then none else s.dev.arrivals.find? s.takeable

/-- The slot at HEAD of port x's command ring is a candidate that Buaman can read, and its turn has come (R302, R307, R308,
R314). -/
def State.candidate (s : State) (x : Nat) : Bool :=
  let p := s.port x
  decide (x < 2) && s.takes (portSrc x) && p.live && p.cmd.en && !p.stopped && decide (p.cmd.head ≠ p.cmd.tail) &&
    decide (s.nextArrival = some (.slot x))

/-- The partner's packets whose turn has come are carried out, before the next slot (R308). -/
def drainMsgs : Nat → State → State
  | 0, s => s
  | k + 1, s => match s.nextArrival with
    | some (.msg p) =>
      drainMsgs k (command (s.updDev fun d => { d with arrivals := d.arrivals.erase (.msg p) }) .partner p)
    | _ => s

/-- Everything that waits for no slot is carried out. -/
def drainArrivals (s : State) : State := drainMsgs s.dev.arrivals.length s

/-- The slot is consumed, its expected byte moves on, and the command is taken (R302, R303, R308). -/
def consume (s : State) (x : Nat) (slot : BitVec 512) : State :=
  let s := s.updPort x fun p => { p with
    failing := none
    cmd := { p.cmd with
      head := (p.cmd.head + 1) % p.cmd.size, slots := tset 1 p.cmd.slots p.cmd.head (nextLap p.expected) } }
  let s := s.updDev fun d => { d with arrivals := d.arrivals.erase (.slot x) }
  drainArrivals (command s (portSrc x) slot)

/-- The host physical address of the slot at HEAD (R283, R301). -/
def State.slotPhys (s : State) (x : Nat) : Nat := s.hostPhys x ((s.port x).cmd.base.toNat + 64 * (s.port x).cmd.head)

/-- What a read of the slot at HEAD finds: the line that the port holds, else what the host returns (R286, R307). -/
def State.slotLine (s : State) (x : Nat) (slot : BitVec 512) : BitVec 512 :=
  if (s.port x).holds (s.slotPhys x) then memLine s.hostMem (hostKey x (s.slotPhys x)) else slot

/-- A read of the slot at HEAD: a line that the port does not hold is asked of the host, and under CXL.cache held as Shared
(R281, R286). -/
def fetchSlot (s : State) (x : Nat) (slot : BitVec 512) : State :=
  let p := s.port x
  let h := s.slotPhys x
  if p.holds h then s
  else
    let s := s.emit (.hostReq x (p.readReq h true) h)
    let s := { s with hostMem := memWrite s.hostMem (hostKey x h) (bytesOf 64 slot.toNat) }
    if p.cxlCache && !p.peerAt h then cacheLine s x h false else s

/-- A read of the slot at HEAD: consumed where both checks pass, else kept as failing (R307). -/
def readSlot (s : State) (x : Nat) (slot : BitVec 512) : State :=
  let v := s.slotLine x slot
  let s := fetchSlot s x slot
  let f := (s.port x).slotFails v
  if f.1 || f.2 then s.updPort x fun p => { p with failing := some f } else consume s x v

/-- COMMAND_SLOT_CONSUME: the first read of a candidate slot (R302, R307, R308). -/
def execCommandSlotConsume (x : Nat) (slot : BitVec 512) (s : State) : Answer :=
  .next (if s.candidate x && (s.port x).failing.isNone then readSlot s x slot else s)

/-- COMMAND_SLOT_REREAD of a slot that has failed (R307). -/
def execCommandSlotReread (x : Nat) (slot : BitVec 512) (s : State) : Answer :=
  .next (if s.candidate x && (s.port x).failing.isSome then readSlot s x slot else s)

/-- DOORBELL_EARLY: the last read within 2 µs; a slot that still fails stops the ring, and no slot of it is a candidate until
the next doorbell (R307). -/
def execDoorbellEarly (x : Nat) (slot : BitVec 512) (s : State) : Answer :=
  .next (
    if s.candidate x && (s.port x).failing.isSome then
      let v := s.slotLine x slot
      let s := fetchSlot s x slot
      let f := (s.port x).slotFails v
      if f.1 || f.2 then
        let i := (s.port x).cmd.head
        let s := s.updPort x fun p => { p with failing := none, stopped := true, early := satAdd p.early 1 }
        drainArrivals (postStatus (dropArrivals s x) 0x01 0xFF 0 stEarly 0 x [i, b2n f.1 + 2 * b2n f.2])
      else consume s x v
    else s)

/-- COMMAND_MSG: the partner's packet is checked as a slot's is, but for SEQ, and carried out in its turn (R308, R336). -/
def execCommandMsg (n : Nat) (s : State) : Answer :=
  .next (match takeControl s n 0xD with
    | (none, s) => s
    | (some m, s) =>
      let p := unitsLine m.body
      if decide (m.src = s.mirror.partner.toNat) && s.takes .partner && pktCrcOk p then
        drainArrivals (s.updDev fun d => { d with arrivals := d.arrivals ++ [.msg p] })
      else s)

/-! ## Time (R367, R318) -/

/-- A START that waits, and the packets that wait behind it, go on where they can (R285, R308). -/
def pumpArrivals (s : State) : State :=
  if s.awake && s.dev.starting.isSome then drainArrivals (pumpStart s) else s

/-- The long command in progress goes on as far as it can without an event of its own. -/
def pumpLong (s : State) : State :=
  match s.dev.long with
  | some l =>
    if !s.awake then s
    else match pktOpc l.pkt with
      | 0x08 => bookAdvance s
      | 0x12 => copyPump s l
      | 0x1A => bankPump s l
      | _ => s
  | none => s

end Sys2Proof.Machine
end

