-- ==== Sys2Proof/Machine/Clock.lean ====
section
/-!
DEFINITION. The passing of time: one tick of the model's clock, which is what a step does on an empty queue. Island
cycle counters (R188), the two timers of each core (R371) and the partner's silence (R345) move on by free amounts; the long
command in progress goes on; a thermal shutdown reaches its end (R416).
-/
namespace Sys2Proof.Machine

/-- The sequencer is stopped at a WAITF that a wait entry declares (R371). -/
def State.atDeclaredWait (s : State) (c : Nat) : Bool :=
  match (s.core c).seq.wait with
  | .waitf _ _ _ _ o => s.dev.plan.isSome && s.declaredWait c o
  | _ => false

/-- Timer ticks of a core's oscillator in one tick of the model's clock. -/
def State.oscillator (s : State) (c : Nat) : Nat := Config.cycleRate (500 + c) s.epoch s.ticks

/-- The leg timer and the step timer of a running core move on (R371, R376). -/
def coreTick (s : State) (c : Nat) : State :=
  if s.coreRuns c || (s.running && decide ((s.core c).seq.phase = .finished)) then
    let d := s.oscillator c
    let stopped := s.atDeclaredWait c
    s.updCore c fun k => { k with dem := { k.dem with
      stepTimer := satAdd k.dem.stepTimer d
      legTimer := if k.dem.timing && !stopped then satAdd k.dem.legTimer d else k.dem.legTimer } }
  else s

/-- Time since the last valid roll call while the pair is enabled (R345, R349). -/
def silenceTick (s : State) : State :=
  if s.mirror.en then
    s.updMirror fun m => { m with silence := satAdd m.silence (Config.cycleRate 600 s.epoch s.ticks) }
  else s

/-- One tick of the model's clock; without clocks nothing moves (R398, R441). -/
def tick (s : State) : State :=
  match s.dev.state with
  | .off => s
  | .frozen => if s.power.shuttingDown then shutOff s else s
  | _ =>
    if s.power.shuttingDown then shutOff s
    else if s.dev.inReset then s
    else
    let s := postDone (pumpLong (pumpArrivals s))
    let s := forEach (s.cores.map Prod.fst) s coreTick
    let s := silenceTick s
    { s with ticks := s.ticks + 1 }

end Sys2Proof.Machine
end

