-- ==== Sys2Proof/Machine/Check.lean ====
section
/-!
DEFINITION. The check-value unit (R182 to R184).
-/
namespace Sys2Proof.Machine

/-- One bit of a reflected 32-bit register. -/
def crcBitR (poly c : Nat) : Nat := if c % 2 = 1 then c / 2 ^^^ poly else c / 2

/-- One bit of the CRC-64 register, most significant bit first. -/
def crcBit64 (c : Nat) : Nat := if 2 ^ 63 ≤ c then (2 * c % 2 ^ 64) ^^^ 0x42F0E1EBA9EA3693 else 2 * c

/-- f applied n times. -/
def iterate {α : Type} (f : α → α) : Nat → α → α
  | 0, x => x
  | n + 1, x => iterate f n (f x)

/-- The check is CRC-64 (R182). -/
def isCrc64 (poly : BitVec 2) : Bool := poly = 2

/-- One byte fed into the running value (R182, R183). -/
def ckByte (poly : BitVec 2) (run : Nat) (b : Byte) : Nat :=
  if isCrc64 poly then iterate crcBit64 8 (run ^^^ b.toNat * 2 ^ 56)
  else iterate (crcBitR (if poly = 1 then 0xEDB88320 else 0x82F63B78)) 8 (run ^^^ b.toNat)

/-- Bytes fed in order. -/
def ckFeed (poly : BitVec 2) (run : BitVec 64) (bs : List Byte) : BitVec 64 :=
  BitVec.ofNat 64 (bs.foldl (ckByte poly) run.toNat)

/-- Initial value of a CK_INIT (R182, R183). -/
def ckStart (w : EngCmd) : BitVec 64 :=
  if tst w 31 then BitVec.ofNat 64 (fld w 63 32) else if fld w 121 120 = 2 then 0 else 0xFFFFFFFF

/-- The running value that a CK_INIT leaves, folds included (R183). -/
def ckInitRun (w : EngCmd) (step : BitVec 32) : BitVec 64 :=
  let p := BitVec.ofNat 2 (fld w 121 120)
  let r := ckStart w
  let r := if tst w 119 then ckFeed p r (bytesOf 6 (fld w 111 64)) else r
  if tst w 118 then ckFeed p r (bytesOf 4 step.toNat) else r

/-- The unit after a CK_INIT (R183). -/
def Ck.initialise (k : Ck) (w : EngCmd) (step : BitVec 32) : Ck :=
  { k with
    init := w
    poly := BitVec.ofNat 2 (fld w 121 120)
    fold := tst w 119
    stepf := tst w 118
    alive := tst w 117
    acstep := tst w 116
    run := ckInitRun w step
    ac := BitVec.ofNat 4 (fld w 115 112) + (if tst w 116 then BitVec.ofNat 4 step.toNat else 0) }

/-- Bytes of a write of width code W (R183). -/
def ckWidth (n : Nat) : Nat := if n = 0 then 1 else if n = 1 then 2 else 4

/-- The unit is busy for n core cycles (R185, R375). DESIGN CHOICE (log 171): CK_STORE takes the whole of its bound. -/
def ckBusy (s : State) (c n : Nat) : State :=
  meterCycles s c fun d => { d with ckCycles := d.ckCycles + n }

/-- A check command done: it leaves its queue, has its effect, completes. -/
def ckRun (s : State) (c : Nat) (q : QCmd) (f : State → State) : State := complete (f (popHead s c 4)) c q.word

/-- CK_NOP (R183). -/
def execCkNop (c : Nat) (s : State) : Answer :=
  .next (match s.headOp c 4 (· = 0) with
    | some q => ckRun s c q id
    | none => s)

/-- CK_INIT (R183). -/
def execCkInit (c : Nat) (s : State) : Answer :=
  .next (match s.headOp c 4 (· = 1) with
    | some q => ckRun s c q fun s => ckBusy (s.updCk c fun k => k.initialise q.word s.dev.step) c
      (1 + (if tst q.word 119 then 6 else 0) + (if tst q.word 118 then 4 else 0))
    | none => s)

/-- CK_FEED: elements of scratch, from BASE on, byte by byte (R183). -/
def execCkFeed (c : Nat) (s : State) : Answer :=
  .next (match s.headOp c 4 (· = 2) with
    | some q => ckRun s c q fun s =>
      let w := q.word
      let n := (fld w 119 100 + 1) * ckWidth (fld w 121 120)
      let bs := s.engBytes c (fld w 63 41) n
      consumeIf (ckBusy (s.updCk c fun k => { k with run := ckFeed k.poly k.run bs }) c (2 + n)) c 5 (s.scrPoison c (fld w 63 41) n)
    | none => s)

/-- CK_PUT (R183). -/
def execCkPut (c : Nat) (s : State) : Answer :=
  .next (match s.headOp c 4 (· = 3) with
    | some q => ckRun s c q fun s => ckBusy (s.updCk c fun k =>
        { k with run := ckFeed k.poly k.run (bytesOf (ckWidth (fld q.word 121 120)) (fld q.word 63 32)) }) c
        (ckWidth (fld q.word 121 120))
    | none => s)

/-- What CK_STORE writes (R184). -/
def Ck.result (k : Ck) : List Byte :=
  let r := if k.alive then ckFeed k.poly k.run [BitVec.ofNat 8 k.ac.toNat] else k.run
  let v := if isCrc64 k.poly then r.toNat else (r.toNat % 2 ^ 32) ^^^ 0xFFFFFFFF
  let n := if isCrc64 k.poly then 8 else 4
  bytesOf n v ++ if k.alive then bytesOf n k.ac.toNat else []

/-- CK_STORE (R184): the result at BASE; the alive counter advances; with KEEP = 0 the unit starts again as the last
CK_INIT left it, alive counter included. -/
def execCkStore (c : Nat) (s : State) : Answer :=
  .next (match s.headOp c 4 (· = 4) with
    | some q => ckRun s c q fun s =>
      let s := scrPut s c (fld q.word 63 41) (s.core c).ck.result
      let s := ckBusy s c (6 + b2n (s.core c).ck.alive)
      s.updCk c fun k => if tst q.word 121 then { k with ac := k.ac + 1 } else k.initialise k.init s.dev.step
    | none => s)

/-- A reserved opcode: as CK_NOP, counted in SEQ_MISUSE (R183). -/
def execReservedCkOpcode (c : Nat) (s : State) : Answer :=
  .next (match s.headOp c 4 (5 ≤ ·) with
    | some q => ckRun s c q fun s => s.updSeq c fun k => { k with badop := satAdd k.badop 1 }
    | none => s)

end Sys2Proof.Machine
end

