-- ==== Sys2Proof/Machine/Matrix.lean ====
section
/-!
DEFINITION. The matrix engine (R51 to R53, R55 to R85): operand layouts, exact group sums, accumulator banks, drains and
the basket. An MMA begins with MX_MMA, which takes the command from its queue, and makes its last accumulator update with
MX_MMA_COMPLETE.
-/
namespace Sys2Proof.Machine

/-! ## Operands (R58, R59, R66 to R69) -/

/-- Element type code of a layout, reserved codes as FP32 (R30). -/
def Layout.code (l : Layout) : Nat := normTy l.typ.toNat

/-- Width of one element's own bits. -/
def Layout.width (l : Layout) : Nat := tyWidth l.code

/-- Scratch addresses of the bytes that an element (r, k) takes: its own bytes first, lowest first; then the scale byte
of an MX element. Of a PSB element: exponent, sign byte, a byte of each magnitude plane read (R58, R66). -/
def Layout.elemBytes (l : Layout) (base r k : Nat) : List Nat :=
  let row := base + r * (l.rowp.toNat * 64)
  let st := l.pstr.toNat * 64
  let j := k / 32
  if isPsb l.code then
    (row + j) :: (List.range (l.planes.toNat + 1)).map fun q => row + (q + 1) * st + 4 * j + k % 32 / 8
  else
    let w := l.width
    let own := (List.range ((k * w % 8 + w + 7) / 8)).map fun i => row + k * w / 8 + i
    if isMx l.code then own ++ [row + st + j] else own

/-- The value of element (r, k) from its bytes, with the flags of its conversion (R35, R38 to R40, R67 to R69). -/
def Layout.elem (l : Layout) (cmp : Bool) (rd : Nat → Byte) (base r k : Nat) : Val × Flags :=
  let bytes := (l.elemBytes base r k).map rd
  let c := l.code
  if isPsb c then
    let bit := fun (i : Nat) => (nth bytes i 0).getLsbD (k % 8)
    let mag := sumTo (fun i => b2n (decide (i < l.planes.toNat) && bit (2 + i)) * 2 ^ (6 - i)) 7
    (psbValue (nth bytes 0 0).toNat (bit 1) mag l.planes.toNat (cmp && decide (l.planes ≠ 0)), 0)
  else
    let w := l.width
    let n := (k * w % 8 + w + 7) / 8
    let code := ofBytes (bytes.take n) / 2 ^ (k * w % 8) % 2 ^ w
    if isMx c then (mxValue c (nth bytes n 0).toNat code, 0)
    else
      let v := (etyOf c).decode code
      if c = 0x08 then
        let d := toF32 .rne false 0 v
        (f32 d.1, d.2 &&& fInexact)
      else (v, 0)

/-- Class rate of a layout (R62). -/
def Layout.rate (l : Layout) : Nat :=
  let c := l.code
  if isPsb c then (if l.planes.toNat ≤ 1 then 32768 else if l.planes.toNat ≤ 3 then 16384 else 8192)
  else if c = 0x0B ∨ c = 0x0C then 32768
  else if c = 0x07 ∨ c = 0x0A ∨ c = 0x14 then 16384
  else if c = 0x01 ∨ c = 0x02 then 4096
  else if c = 0x00 ∨ c = 0x08 ∨ c = 0x0D then 1024
  else 8192

/-- Bytes of one full group on a port (R64). -/
def Layout.groupBytes (l : Layout) : Nat :=
  if isPsb l.code then 128 * (5 + 4 * l.planes.toNat) else 64 * (8 * l.width + if isMx l.code then 2 else 0)

/-- The rate of a pair (R63). -/
def pairRate (ra rb : Nat) : Nat := if 8192 ≤ ra ∧ 8192 ≤ rb then max ra rb else min ra rb

/-- Core cycles per group (R64). -/
def groupCycles (a b : Layout) : Nat :=
  max (262144 / pairRate a.rate b.rate) (max ((a.groupBytes + 511) / 512) ((b.groupBytes + 511) / 512))

/-! ## Group sums (R51, R70) -/

/-- The exact sum of one group's products with the flags of the products and the sum: NaN where an operand is NaN, a
product is 0 × ∞, or infinities of both signs meet; −0 only where every product is −0. -/
def groupSum (ps : List (Val × Val)) : Val × Flags :=
  let prods := ps.map fun p => mulVal p.1 p.2
  let fl := prods.foldl (fun f p => f ||| p.2) 0
  let pinf := prods.any fun p => p.1 = .inf false
  let ninf := prods.any fun p => p.1 = .inf true
  let fl := fl ||| flagIf (pinf && ninf) fInvalid
  if prods.any (fun p => p.1.isNan) || (pinf && ninf) then (.nan false, fl)
  else if pinf then (.inf false, fl)
  else if ninf then (.inf true, fl)
  else
    let q := prods.foldl (fun q p => match p.1 with
      | .fin _ m e => if m = 0 then q else min q e
      | _ => q) (0 : Int)
    let t := prods.foldl (fun t p => match p.1 with
      | .fin n m e => if m = 0 then t else t + unitsAt n m e q
      | _ => t) (0 : Int)
    if t = 0 then (.fin (prods.all fun p => p.1.isZero && p.1.isNeg) 0 0, fl)
    else (.fin (decide (t < 0)) t.natAbs q, fl)

/-- One group into an accumulator: the group sum rounded once to FP32 under RNE, then added under RNE (R51). -/
def accumulate (acc : BitVec 32) (ps : List (Val × Val)) : BitVec 32 × Flags :=
  let g := groupSum ps
  let r := deliverF32 .rne false 0 g
  let a := deliverF32 .rne false 0 (addVal .rne (f32 acc) (f32 r.1))
  (a.1, r.2 ||| a.2)

/-- Groups of 64 of a row. -/
def groupsOf {α : Type} : Nat → List α → List (List α)
  | 0, _ => []
  | n + 1, l => l.take 64 :: groupsOf n (l.drop 64)

/-- All groups of one output element, in order of K. -/
def accumulateAll (groups : Nat) (acc : BitVec 32) (a b : List Val) : BitVec 32 × Flags :=
  ((groupsOf groups a).zip (groupsOf groups b)).foldl (fun st g =>
    let r := accumulate st.1 (g.1.zip g.2)
    (r.1, st.2 ||| r.2)) (acc, 0)

/-! ## Banks -/

/-- Bank n of a core. -/
def Mx.bankAt (x : Mx) (n : Nat) : AccBank := nth x.banks n AccBank.reset

/-- Bank n replaced. -/
def Mx.setBank (x : Mx) (n : Nat) (b : AccBank) : Mx := { x with banks := x.banks.set n b }

/-- BANK field of a matrix command (R75, R77, R78). -/
def mxBank (w : EngCmd) : Nat := fld w 121 120

/-- An MMA with DRAIN = 1 (R75). -/
def mmaDrains (w : EngCmd) : Bool := tst w 118

/-- A bank is under drain until its last quadrant has been read (R73). -/
def Mx.underDrain (x : Mx) (n : Nat) : Bool :=
  (x.drains.any fun d => decide (d.bank = n) && d.last.isNone) || x.mmas.any fun m => mmaDrains m.cmd.word && decide (mxBank m.cmd.word = n)

/-- An earlier MMA is still accumulating into the bank (R73). -/
def Mx.accumulating (x : Mx) (n : Nat) : Bool := x.mmas.any fun m => mxBank m.cmd.word = n

/-- An MX_DRAIN or MX_LOADACC of the bank may start (R73). -/
def Mx.bankFree (x : Mx) (n : Nat) : Bool := !x.underDrain n && !x.accumulating n

/-! ## MX_MMA (R75, R80) -/

def mmaRows (w : EngCmd) : Nat := fld w 109 104 + 1
def mmaCols (w : EngCmd) : Nat := fld w 103 98 + 1
def mmaGroups (w : EngCmd) : Nat := fld w 91 82 + 1
def mmaK (w : EngCmd) : Nat := 64 * fld w 91 82 + fld w 97 92 + 1
def mmaABase (w : EngCmd) : Nat := fld w 63 47 * 64
def mmaBBase (w : EngCmd) : Nat := fld w 46 30 * 64

/-- The MMA at the head of the queue begins to read its operands: it keeps what scratch holds, for R61. -/
def startMma (s : State) (c : Nat) (q : QCmd) : State :=
  let k := s.core c
  let m : Mma := {
    cmd := q, scratch := s.scratch.filter fun a => a.1 / 2 ^ 23 = c, valid := k.valid, poison := k.poison, writes := [],
    layA := nth k.mx.layouts (fld q.word 115 113) Layout.reset, layB := nth k.mx.layouts (fld q.word 112 110) Layout.reset }
  (popHead s c 0).updMx c fun x => { x with mmas := x.mmas ++ [m] }

/-- MX_MMA: starts unless its bank is under drain (R73). -/
def execMxMma (c : Nat) (s : State) : Answer :=
  .next (match s.headOp c 0 (· = 1) with
    | some q => if (s.core c).mx.underDrain (mxBank q.word) then s else startMma s c q
    | none => s)

/-! ## MX_MMA_COMPLETE -/

/-- The writes of other engines to a byte during the window (R61). -/
def Mma.over (m : Mma) (a : Nat) : List WinWr :=
  m.writes.filter fun v => decide (v.line = a % 2 ^ 23 / 64) && v.mask.getLsbD (a % 64)

/-- Which of the values a byte had during the window the MMA uses, free: the one it began with, 0, or that of the n-th
write to it (R61). -/
def mmaPick (s : State) (m : Mma) (a : Nat) : Nat :=
  if (m.over a).isEmpty then 0 else (Config.freeWord s.free a).toNat % ((m.over a).length + 1)

/-- A byte of an operand as the MMA reads it (R61, R255). -/
def mmaByte (s : State) (c : Nat) (m : Mma) (a : Nat) : Byte :=
  match mmaPick s m a, m.over a with
  | n + 1, ws => match ws[n]? with
    | some v => byteAt v.data (a % 64)
    | none => engByte m.scratch m.valid m.poison c a
  | 0, _ => engByte m.scratch m.valid m.poison c a

/-- The poisoned line a byte of an operand is read from, if it is. -/
def mmaPoison (s : State) (m : Mma) (a : Nat) : Option Nat :=
  let l := a % 2 ^ 23 / 64
  let p := match mmaPick s m a with
    | n + 1 => match (m.over a)[n]? with
      | some v => v.poison
      | none => m.poison.contains l
    | 0 => m.poison.contains l
  if p then some l else none

/-- Rows of an operand: values and flags (R59). -/
def operandRows (l : Layout) (cmp : Bool) (rd : Nat → Byte) (base rows kn : Nat) : List (List Val) × Flags :=
  let vs := (List.range rows).map fun r => (List.range kn).map fun k => l.elem cmp rd base r k
  (vs.map fun row => row.map Prod.fst, vs.foldl (fun f row => row.foldl (fun f v => f ||| v.2) f) 0)

/-- Every byte address an operand reads, in row order. -/
def operandBytes (l : Layout) (base rows kn : Nat) : List Nat :=
  (List.range rows).flatMap fun r => (List.range kn).flatMap fun k => l.elemBytes base r k

/-- The bank after an MMA of the given rows of values (R51, R56, R60, R71), and the flags the MMA raises. -/
def AccBank.mma (b : AccBank) (zero : Bool) (groups : Nat) (va vb : List (List Val)) (fl : Flags) : AccBank × Flags :=
  let rows := va.length
  let cols := vb.length
  let b := if zero then { AccBank.reset with er := rows, ec := cols }
    else { b with er := max b.er rows, ec := max b.ec cols }
  let r := va.zipIdx.foldl (fun st a => vb.zipIdx.foldl (fun (st : Tab (BitVec 32) × Flags) v =>
    let i := 64 * a.2 + v.2
    let x := accumulateAll groups (tget 0 b.acc i) a.1 v.1
    (tset 0 st.1 i x.1, st.2 ||| x.2)) st) (b.acc, fl)
  ({ b with acc := r.1, flags := b.flags ||| r.2 }, r.2)

/-- Cycles in which the MMA's operand groups are read (R64). -/
def Mma.cycles (m : Mma) : Nat := mmaGroups m.cmd.word * groupCycles m.layA m.layB

/-- The last accumulator update of the oldest MMA: completion where DRAIN is 0, else its drain begins (R73, R80). -/
def finishMma (s : State) (c : Nat) (m : Mma) : State :=
  let w := m.cmd.word
  let n := mxBank w
  let rd := mmaByte s c m
  let a := operandRows m.layA (tst w 117) rd (mmaABase w) (mmaRows w) (mmaK w)
  let b := operandRows m.layB (tst w 116) rd (mmaBBase w) (mmaCols w) (mmaK w)
  let p := (operandBytes m.layA (mmaABase w) (mmaRows w) (mmaK w) ++
    operandBytes m.layB (mmaBBase w) (mmaCols w) (mmaK w)).findSome? (mmaPoison s m)
  let r := ((s.core c).mx.bankAt n).mma (tst w 119) (mmaGroups w) a.1 b.1 (a.2 ||| b.2)
  let s := meterCycles (s.updMx c fun x => { (x.setBank n r.1) with mmas := x.mmas.tail, busy := wrapAdd x.busy m.cycles }) c
    fun d => { d with mxCycles := d.mxCycles + m.cycles }
  let s := consumeIf (raiseMx s.drawn c r.2) c 3 p
  if mmaDrains w then
    s.updMx c fun x => { x with drains := x.drains ++ [{ cmd := m.cmd, bank := n, tag := BitVec.ofNat 16 (fld w 79 64), quad := 0, last := none }] }
  else complete s c w

/-- MX_MMA_COMPLETE: MMAs update their banks in queue order (R73). -/
def execMxMmaComplete (c : Nat) (s : State) : Answer :=
  .next (if s.coreRuns c then match (s.core c).mx.mmas with
    | m :: _ => finishMma s c m
    | [] => s
  else s)

/-! ## The other commands (R74, R76 to R79) -/

/-- MX_NOP (R79). -/
def execMxNop (c : Nat) (s : State) : Answer :=
  .next (match s.headOp c 0 (· = 0) with
    | some q => complete (popHead s c 0) c q.word
    | none => s)

/-- The layout that an MX_SETL writes (R76). -/
def setlLayout (w : EngCmd) : Layout :=
  { typ := BitVec.ofNat 5 (fld w 118 114), planes := BitVec.ofNat 3 (fld w 113 111), rowp := BitVec.ofNat 16 (fld w 110 95),
    pstr := BitVec.ofNat 17 (fld w 63 47) }

/-- MX_SETL: one layout entry, for every later command (R76). -/
def execMxSetl (c : Nat) (s : State) : Answer :=
  .next (match s.headOp c 0 (· = 2) with
    | some q =>
      complete ((popHead s c 0).updMx c fun x => { x with layouts := x.layouts.set (fld q.word 121 119) (setlLayout q.word) })
        c q.word
    | none => s)

/-- Scratch address of row i of MX_LOADACC, or of MX_DRAIN with DEST = 1 (R77, R78). -/
def bankRowAt (base rowp i : Nat) : Nat := base * 64 + i * rowp * 64

/-- A row of 64 FP32 values as scratch holds it. -/
def State.bankRow (s : State) (c at' : Nat) : List (BitVec 32) :=
  let bs := s.engBytes c at' 256
  (List.range 64).map fun j => BitVec.ofNat 32 (ofBytes ((bs.drop (4 * j)).take 4))

/-- A list of values as a sparse table from an index on, zeros unlisted. -/
def valTab (from' : Nat) : List (BitVec 32) → Tab (BitVec 32)
  | [] => []
  | v :: vs => if v = 0 then valTab (from' + 1) vs else (from', v) :: valTab (from' + 1) vs

/-- MX_LOADACC: 64 × 64 values, extent 64 × 64, flag set cleared (R77); it waits for a drain and for earlier MMAs (R73). -/
def execMxLoadacc (c : Nat) (s : State) : Answer :=
  .next (match s.headOp c 0 (· = 3) with
    | some q =>
      let w := q.word
      if (s.core c).mx.bankFree (mxBank w) then
        let rows := (List.range 64).map fun i => bankRowAt (fld w 63 47) (fld w 119 104) i
        let acc := valTab 0 (rows.flatMap fun a => s.bankRow c a)
        let p := rows.findSome? fun a => s.scrPoison c a 256
        let s := (popHead s c 0).updMx c fun x => x.setBank (mxBank w) { acc := acc, er := 64, ec := 64, flags := 0 }
        complete (consumeIf s c 3 p) c w
      else s
    | none => s)

/-- Row i of a bank as bytes. -/
def AccBank.rowBytes (b : AccBank) (i : Nat) : List Byte :=
  (List.range 64).flatMap fun j => bytesOf 4 (tget 0 b.acc (64 * i + j)).toNat

/-- MX_DRAIN: into the basket over four slots, or into scratch in row order (R78); it waits as R73 says. -/
def execMxDrain (c : Nat) (s : State) : Answer :=
  .next (match s.headOp c 0 (· = 4) with
    | some q =>
      let w := q.word
      let n := mxBank w
      if (s.core c).mx.bankFree n then
        if tst w 119 then
          let b := (s.core c).mx.bankAt n
          complete (forEach (List.range 64) (popHead s c 0) fun s i =>
            scrWrite s c (bankRowAt (fld w 63 47) (fld w 118 103) i % 2 ^ 23) (b.rowBytes i)) c w
        else (popHead s c 0).updMx c fun x =>
          { x with drains := x.drains ++ [{ cmd := q, bank := n, tag := BitVec.ofNat 16 (fld w 95 80), quad := 0, last := none }] }
      else s
    | none => s)

/-- A reserved opcode: as MX_NOP, counted (R74). -/
def execReservedMxOpcode (c : Nat) (s : State) : Answer :=
  .next (match s.headOp c 0 (5 ≤ ·) with
    | some q => complete ((popHead s c 0).updMx c fun x => { x with badop := satAdd x.badop 1 }) c q.word
    | none => s)

/-! ## The basket (R81 to R83) -/

/-- A slot header (R82). -/
def slotHeader (b : AccBank) (tag bank q : Nat) : BitVec 64 :=
  packW 64 [(48, tag), (46, bank), (44, q), (38, min 32 (b.er - 32 * (q / 2))), (32, min 32 (b.ec - 32 * (q % 2))),
    (8, b.flags.toNat), (0, b2n (decide (q = 3)))]

/-- Quadrant q of a bank (R81). -/
def AccBank.quadrant (b : AccBank) (q : Nat) : Tab (BitVec 32) :=
  valTab 0 ((List.range 1024).map fun i => tget 0 b.acc (64 * (32 * (q / 2) + i / 32) + 32 * (q % 2) + i % 32))

/-- The slot of quadrant q of a bank, as a drain reads it (R81, R82). -/
def AccBank.slot (b : AccBank) (tag bank q : Nat) : Slot := { hdr := slotHeader b tag bank q, vals := b.quadrant q }

/-- While the basket has room, a drain whose last quadrant is next has read it: from then on its bank is free (R73,
R83). -/
def Mx.readLast (x : Mx) : Mx :=
  if 16 ≤ x.basket.length then x
  else { x with drains := x.drains.map fun d =>
    if d.quad = 3 ∧ d.last = none then { d with last := some ((x.bankAt d.bank).slot d.tag.toNat d.bank 3) } else d }

/-- The first drain of the bank gives way to d, or goes. -/
def putDrain (bank : Nat) (d : Option Drain) : List Drain → List Drain
  | [] => []
  | e :: es => if e.bank = bank then d.toList ++ es else e :: putDrain bank d es

/-- DRAIN_SLOT_PLACE: the drain of the bank places its next slot while the basket has room; with slot 3 it is complete
(R80 to R83). -/
def execDrainSlotPlace (c bank : Nat) (s : State) : Answer :=
  .next (if s.coreRuns c then match (s.core c).mx.drains.find? fun d => d.bank = bank with
    | some d =>
      if (s.core c).mx.basket.length < 16 then
        let slot := d.last.getD (((s.core c).mx.bankAt bank).slot d.tag.toNat bank d.quad)
        let s := s.updMx c fun x => Mx.readLast { x with
          basket := x.basket ++ [slot]
          drains := putDrain bank (if d.quad = 3 then none else some { d with quad := d.quad + 1 }) x.drains }
        if d.quad = 3 then complete s c d.cmd.word else s
      else s
    | none => s
  else s)

end Sys2Proof.Machine
end

