-- ==== Sys2Proof/Machine/VecFn.lean ====
section
/-!
DEFINITION. Functions of the vector engine on one element (R93, R94), with the bounds of the transcendental functions: a
result that R94 leaves to the part is any FP32 value within the bound.
-/
namespace Sys2Proof.Machine

/-! ## Approximations for the bounds of R94, exact to far below an ulp -/

/-- floor of the square root of n, for roots below 2^k. -/
def isqrt : Nat → Nat → Nat
  | 0, _ => 0
  | k + 1, n => go k 0 n
where
  go : Nat → Nat → Nat → Nat
    | 0, r, n => if (r + 1) * (r + 1) ≤ n then r + 1 else r
    | i + 1, r, n => let t := r + 2 ^ (i + 1); go i (if t * t ≤ n then t else r) n

/-- 2^f for f = x / 2^80, in units of 2^−100: `root` is 2^(2^−i), bits of x from the highest. -/
def pow2Frac : Nat → Nat → Nat → Nat → Nat
  | 0, _, _, acc => acc
  | i + 1, root, x, acc =>
    let root := isqrt 102 (2 ^ 100 * root)
    pow2Frac i root x (if x.testBit i then acc * root / 2 ^ 100 else acc)

/-- log2 of x / 2^100 in [1, 2), n bits behind the point. -/
def log2Frac : Nat → Nat → Nat → Nat
  | 0, _, acc => acc
  | n + 1, x, acc =>
    let y := x * x / 2 ^ 100
    if 2 ^ 101 ≤ y then log2Frac n (y / 2) (2 * acc + 1) else log2Frac n y (2 * acc)

/-- num / den × 2^k as a value precise to 64 bits and more, a remainder marked in its last bit. -/
def ratVal (neg : Bool) (num den : Nat) (k : Int) : Val :=
  let s := 64 + Nat.log2 den
  let q := num * 2 ^ s / den
  .fin neg (2 * q + b2n (decide (num * 2 ^ s % den ≠ 0))) (k - s - 1)

/-- One unit in the last place of FP32 at a value's binade, times k, and a hair. -/
def ulps (k : Nat) (v : Val) : Val :=
  match v with
  | .fin _ m e => .fin false (2 ^ 30 * k + 1) (max (magExp m e) (-126) - 53)
  | _ => .fin false 0 0

/-- The value is finite and no further from v than the bound. -/
def within (y v bound : Val) : Bool :=
  match y with
  | .fin _ _ _ => !ltVal bound (addVal .rne y v.neg).1.abs
  | _ => false

/-- A result that R94 bounds: the free word where it lies within the bound, else the rounded value. -/
def pick (free : BitVec 32) (v bound : Val) (anySign : Bool) : BitVec 32 :=
  if within (f32 free) v bound && (anySign || (f32 free).isNeg == v.isNeg) then free else (toF32 .rne false 0 v).1

/-- 2^d in units of 2^−100, for −100 ≤ d = x × 2^w ≤ 100; 0 below. -/
def pow2Near (d w : Int) : Nat :=
  let u : Nat := 2 ^ (-w).toNat
  let x := d * 2 ^ w.toNat
  let n := x / (u : Int)
  if n < -100 then 0
  else pow2Frac 80 (2 ^ 101) (2 ^ 80 * (x % (u : Int)).toNat / u) (2 ^ 100) * 2 ^ (n + 100).toNat / 2 ^ 100

/-- The exact base-2 soft maximum of x among the entries, precise to far below the bound of R105; `none` where an entry
lies so far above x that it is no normal number. -/
def softmax (entries : List Val) (x : Val) : Option Val :=
  let diff := fun (v : Val) => (addVal .rne v x.neg).1
  if entries.any fun v => ltVal (.fin false 200 0) (diff v) then none
  else
    let t := entries.foldl (fun t v => match diff v with
      | .fin n m e => let w := min e 0; t + (if ltVal (diff v) (.fin true 100 0) then 0 else pow2Near (unitsAt n m e w) w)
      | _ => t) 0
    if t = 0 then none else some (ratVal false 1 t 100)

/-- A NORM output that is a normal number, held to a relative error of (a + 12) × 2^−23 against the exact soft maximum
(R105): one beyond the bound gives way to a free word within it. -/
def holdNorm (free : BitVec 32) (entries : List Val) (a : Nat) (x : Val) (y : BitVec 32) : BitVec 32 :=
  match softmax entries x with
  | some v =>
    let bound := (mulVal v (.fin false (2 ^ 37 * (a + 12) + 1) (-60))).1
    if y.toNat % 2 ^ 31 < 2 ^ 23 ∨ y.toNat % 2 ^ 31 ≥ 0x7F800000 ∨ within (f32 y) v bound then y else pick free v bound false
  | none => y

/-- INEXACT, and UNDERFLOW where the delivered result is tiny (R44). -/
def inexactFlags (r : BitVec 32) : Flags := fInexact ||| flagIf (decide (r.toNat % 2 ^ 31 < 2 ^ 23)) fUnderflow

/-- ±∞, ±0 and 1 in FP32. -/
def pInf32 : BitVec 32 := 0x7F800000
def nInf32 : BitVec 32 := 0xFF800000
def one32 : BitVec 32 := 0x3F800000

/-- A NaN operand: the canonical NaN, INVALID for a signalling one (R42). -/
def nanResult (v : Val) : BitVec 32 × Flags := (canonNaN, flagIf v.isSig fInvalid)

/-- EXP2 (R94). -/
def exp2F (free a : BitVec 32) : BitVec 32 × Flags :=
  match f32 a with
  | .nan s => nanResult (.nan s)
  | .inf neg => (if neg then 0 else pInf32, 0)
  | .fin neg m e =>
    if m = 0 then (one32, 0)
    else
      let w := min e 0
      let x := unitsAt neg m e w
      let d : Nat := 2 ^ (-w).toNat
      let n := x / (d : Int)
      let f := (x % (d : Int)).toNat
      if 128 ≤ n then (pInf32, fOverflow ||| fInexact)
      else if n < -150 ∨ (n = -150 ∧ f = 0) then (0, fUnderflow ||| fInexact)
      else if f = 0 then ((toF32 .rne false 0 (.fin false 1 n)).1, 0)
      else if n = -151 then (0, fUnderflow ||| fInexact)
      else
        let v : Val := .fin false (pow2Frac 80 (2 ^ 101) (2 ^ 80 * f / d) (2 ^ 100)) (n - 100)
        let r := pick free v (ulps 2 v) false
        (r, inexactFlags r)

/-- LOG2 (R94). -/
def log2F (free a : BitVec 32) : BitVec 32 × Flags :=
  match f32 a with
  | .nan s => nanResult (.nan s)
  | .inf neg => if neg then (canonNaN, fInvalid) else (pInf32, 0)
  | .fin neg m e =>
    if m = 0 then (nInf32, fDivzero)
    else if neg then (canonNaN, fInvalid)
    else
      let l := Nat.log2 m
      let k := (l : Int) + e
      if m = 2 ^ l then ((toF32 .rne false 0 (ofInt k)).1, 0)
      else
        let t : Int := k * (2 : Int) ^ 70 + (log2Frac 70 (2 ^ 100 * m / 2 ^ l) 0 : Nat)
        let v : Val := .fin (decide (t < 0)) t.natAbs (-70)
        let near := decide (k = 0) || decide (k = -1)
        (pick free v (if near then .fin false (2 ^ 38 + 1) (-60) else ulps 2 v) near, fInexact)

/-- RCP (R94). DESIGN CHOICE (log 156): the reciprocal of a power of two of 2^−128 and below, which FP32 cannot hold, is ±∞
with OVERFLOW and INEXACT, as R46 rounds it. -/
def rcpF (free a : BitVec 32) : BitVec 32 × Flags :=
  match f32 a with
  | .nan s => nanResult (.nan s)
  | .inf neg => (if neg then 0x80000000 else 0, 0)
  | .fin neg m e =>
    if m = 0 then (if neg then nInf32 else pInf32, fDivzero)
    else if m = 2 ^ Nat.log2 m then
      let r := toF32 .rne false 0 (.fin neg 1 (-(Nat.log2 m : Int) - e))
      (r.1, r.2)
    else
      let v := ratVal neg 1 m (-e)
      let top := toF32 .rne false 0 v
      if top.1 &&& 0x7FFFFFFF = pInf32 then (top.1, fOverflow ||| fInexact)
      else
        let r := pick free v (ulps 1 v) false
        (r, inexactFlags r)

/-- RSQRT (R94). -/
def rsqrtF (free a : BitVec 32) : BitVec 32 × Flags :=
  match f32 a with
  | .nan s => nanResult (.nan s)
  | .inf neg => if neg then (canonNaN, fInvalid) else (0, 0)
  | .fin neg m e =>
    if m = 0 then (if neg then nInf32 else pInf32, fDivzero)
    else if neg then (canonNaN, fInvalid)
    else
      let odd := decide (e % 2 ≠ 0)
      let m := if odd then 2 * m else m
      let e := if odd then e - 1 else e
      let l := Nat.log2 m
      if m = 2 ^ l ∧ l % 2 = 0 then ((toF32 .rne false 0 (.fin false 1 (-((l : Int) + e) / 2))).1, 0)
      else
        let v : Val := .fin false (2 * isqrt 100 (2 ^ 196 / m) + 1) (-99 - e / 2)
        (pick free v (ulps 1 v) false, fInexact)

/-! ## Element functions (R93) -/

/-- What a function code writes: a register, a mask from elements, a mask from masks; or nothing. -/
inductive FnKind where
  | reg | cmp | msk | bad
  deriving DecidableEq, Repr

/-- The function codes (R93). -/
def fnKind (fn : Nat) : FnKind :=
  if fn ≤ 0x0E ∨ (0x20 ≤ fn ∧ fn ≤ 0x2B) ∨ (0x38 ≤ fn ∧ fn ≤ 0x3A) then .reg
  else if fn = 0x10 ∨ fn = 0x11 ∨ (0x30 ≤ fn ∧ fn ≤ 0x33) then .cmp
  else if 0x40 ≤ fn ∧ fn ≤ 0x43 then .msk
  else .bad

/-- The functions that never draw (R89, R94). -/
def isTransc (fn : Nat) : Bool := decide (0x28 ≤ fn) && decide (fn ≤ 0x2B)

/-- A command or stage with this function and mode draws at every position (R89). -/
def fnDraws (fn : Nat) (rm : Rm) : Bool := decide (rm = .sr) && !isTransc fn

/-- An integer result, saturated (R93). -/
def satInt (v : Int) : BitVec 32 × Flags :=
  if 2 ^ 31 ≤ v then (0x7FFFFFFF, fSaturate) else if v < -(2 ^ 31) then (0x80000000, fSaturate) else (BitVec.ofInt 32 v, 0)

/-- A bit as an element. -/
def bit32 (b : Bool) : BitVec 32 := BitVec.ofNat 32 (b2n b)

/-- CVTR to a type that stands alone (R46, R93, R468): the value kept as FP32. -/
def cvtr (code : Nat) (rm : Rm) (sat : Bool) (u : Nat) (a : BitVec 32) : BitVec 32 × Flags :=
  let r := (etyOf code).encode rm sat u (f32 a)
  (if code = 8 ∧ r.1 = 0x7FFFFFFF then 0x4EFFFFFF else (toF32 .rne false 0 ((etyOf code).decode r.1)).1,
    r.2 ||| flagIf (f32 a).isSig fInvalid)

/-- One element of a function that computes from elements (R93); compares give 0 or 1. `tc`: the type code of CVTR. -/
def elemFn (fn : Nat) (rm : Rm) (sat : Bool) (tc u : Nat) (free a b c : BitVec 32) : BitVec 32 × Flags :=
  let va := f32 a
  let vb := f32 b
  let sig := flagIf (va.isSig || vb.isSig) fInvalid
  match fn with
  | 0x00 => (a, 0)
  | 0x01 => satInt (a.toInt + b.toInt)
  | 0x02 => satInt (a.toInt - b.toInt)
  | 0x03 => satInt (a.toInt * b.toInt)
  | 0x04 => (if b.toInt < a.toInt then b else a, 0)
  | 0x05 => (if a.toInt < b.toInt then b else a, 0)
  | 0x06 => satInt a.toInt.natAbs
  | 0x07 => satInt (-a.toInt)
  | 0x08 => (a &&& b, 0)
  | 0x09 => (a ||| b, 0)
  | 0x0A => (a ^^^ b, 0)
  | 0x0B => (~~~a, 0)
  | 0x0C => (a <<< (b.toNat % 256), 0)
  | 0x0D => (a >>> (b.toNat % 256), 0)
  | 0x0E => (a.sshiftRight (b.toNat % 256), 0)
  | 0x10 => (bit32 (decide (a = b)), 0)
  | 0x11 => (bit32 (decide (a.toInt < b.toInt)), 0)
  | 0x20 => deliverF32 rm false u (addVal rm va vb)
  | 0x21 => deliverF32 rm false u (addVal rm va vb.neg)
  | 0x22 => deliverF32 rm false u (mulVal va vb)
  | 0x23 =>
    let p := mulVal va vb
    let r := addVal rm p.1 (f32 c)
    deliverF32 rm false u (r.1, p.2 ||| r.2)
  | 0x24 => deliverF32 .rne false 0 (minVal va vb)
  | 0x25 => deliverF32 .rne false 0 (maxVal va vb)
  | 0x26 => if va.isNan then nanResult va else (a &&& 0x7FFFFFFF, 0)
  | 0x27 => if va.isNan then nanResult va else (a ^^^ 0x80000000, 0)
  | 0x28 => exp2F free a
  | 0x29 => log2F free a
  | 0x2A => rcpF free a
  | 0x2B => rsqrtF free a
  | 0x30 => (bit32 (eqVal va vb), sig)
  | 0x31 => (bit32 (ltVal va vb && !eqVal va vb), sig)
  | 0x32 => (bit32 (ltVal va vb || eqVal va vb), sig)
  | 0x33 => (bit32 (va.isNan || vb.isNan), sig)
  | 0x38 => let r := toInt 32 rm u va; (BitVec.ofInt 32 r.1, r.2)
  | 0x39 => toF32 rm false u (ofInt a.toInt)
  | 0x3A => cvtr tc rm sat u a
  | _ => (a, 0)

/-- A row of 32 converted to a block type and back (R41, R93); masked positions enter as +0. -/
def cvtrRow (code : Nat) (rm : Rm) (us : List Nat) (row : List (BitVec 32 × Bool)) : List (BitVec 32) × Flags :=
  let vs := row.map fun p => if p.2 then f32 p.1 else .fin false 0 0
  let r := blockEncode code rm us vs
  let back := r.2.1.map fun w =>
    let v := if isPsb code then psbValue r.1 (w.testBit 7) (w % 128) 7 false else mxValue code r.1 w
    (toF32 .rne false 0 v).1
  (back, if row.any Prod.snd then (r.2.2.foldl (· ||| ·) 0) ||| flagIf (vs.any Val.isSig) fInvalid else 0)

end Sys2Proof.Machine
end

