-- ==== Sys2Proof/Machine/Vector.lean ====
section
/-!
DEFINITION. The vector engine (R86 to R126): element operations, reductions, the soft maximum, scratch loads and stores,
the trail. A VX_TAKE copies its slot and is complete when the slot is released; a trail run begins with VX_TRUN, takes
basket slots as they are released to it, and is complete with TRAIL_RUN_COMPLETE.
-/
namespace Sys2Proof.Machine

/-! ## Registers (R86, R90, R91) -/

/-- Element e of tile register r. -/
def Vx.at (x : Vx) (r e : Nat) : BitVec 32 := tget 0 x.tregs (1024 * r + e)

/-- A tile register's elements. -/
def Vx.reg (x : Vx) (r : Nat) : List (BitVec 32) := (List.range 1024).map (x.at r)

/-- A table of registers with register r replaced. -/
def putReg (t : Tab (BitVec 32)) (r : Nat) (vals : List (BitVec 32)) : Tab (BitVec 32) :=
  t.filter (fun p => decide (p.1 < 1024 * r)) ++ valTab (1024 * r) vals ++ t.filter fun p => decide (1024 * (r + 1) ≤ p.1)

/-- Mask register m: M0 is all ones (R86). -/
def Vx.mask (x : Vx) (m : Nat) : BitVec 1024 := if m = 0 then BitVec.allOnes 1024 else nth x.masks m 0

/-- Mask register m written: a write to M0 is discarded (R86). -/
def Vx.setMask (x : Vx) (m : Nat) (v : BitVec 1024) : Vx := if m = 0 then x else { x with masks := x.masks.set m v }

/-- A mask from a test of each position. -/
def maskFrom (p : Nat → Bool) : BitVec 1024 := BitVec.ofNat 1024 (ofBits ((List.range 1024).filter p))

/-- The B operand at position e (R91), from given registers and scalars. -/
def bOperand (tregs : Tab (BitVec 32)) (sregs : List (BitVec 32)) (bsrc tb sb e : Nat) : BitVec 32 :=
  match bsrc with
  | 0 => tget 0 tregs (1024 * tb + e)
  | 1 => nth sregs sb 0
  | 2 => tget 0 tregs (1024 * tb + e / 32 * 32)
  | _ => tget 0 tregs (1024 * tb + e % 32)

/-! ## Draws (R49, R89) -/

/-- The n-th draw of a lane, from 0. -/
def drawAt : BitVec 32 → Nat → Nat
  | x, 0 => (laneDraw x).1
  | x, n + 1 => drawAt (laneDraw x).2 n

/-- A lane after n draws. -/
def afterDraws : BitVec 32 → Nat → BitVec 32
  | x, 0 => x
  | x, n + 1 => afterDraws (laneDraw x).2 n

/-- Draw k of the n that element e takes, the lanes standing at the start of the tile. DESIGN CHOICE (log 155): a lane takes
every draw of a pass before the first of the next pass; R89 orders only the draws of one element. -/
def Vx.drawOf (x : Vx) (n k e : Nat) : Nat := drawAt (nth x.lanes (e % 256) 1) (e / 256 * n + k)

/-- The lanes after four passes of n draws each. -/
def Vx.drew (x : Vx) (n : Nat) : Vx := { x with lanes := x.lanes.map fun l => afterDraws l (4 * n) }

/-! ## The queue (R110, R116, R119) -/

/-- The head of the vector queue with an opcode test: commands behind a trail run wait for its end. -/
def State.vxHead (s : State) (c : Nat) (p : Nat → Bool) : Option QCmd :=
  if (s.core c).vx.run.isSome then none else s.headOp c 1 p

/-- Passes of a command enter the lanes for n core cycles (R126, R375). -/
def vxBusy (s : State) (c n : Nat) : State :=
  meterCycles (s.updVx c fun x => { x with busy := wrapAdd x.busy n }) c fun d => { d with vxCycles := d.vxCycles + n }

/-- A reserved opcode, function, kind or sub-operation is counted (R126). -/
def vxBad (s : State) (c : Nat) : State := s.updVx c fun x => { x with badop := satAdd x.badop 1 }

/-- A vector command done at once: it leaves its queue, has its effect, completes. -/
def vxRun (s : State) (c : Nat) (q : QCmd) (f : State → State) : State := complete (f (popHead s c 1)) c q.word

/-! ## Fields of the common layout (R121) -/

def vxFn (w : EngCmd) : Nat := fld w 121 114
def vxTd (w : EngCmd) : Nat := fld w 113 109
def vxTa (w : EngCmd) : Nat := fld w 108 104
def vxTb (w : EngCmd) : Nat := fld w 103 99
def vxTc (w : EngCmd) : Nat := fld w 98 94
def vxMsk (w : EngCmd) : Nat := fld w 93 91
def vxMz (w : EngCmd) : Bool := tst w 90
def vxRm (w : EngCmd) : Rm := rmOf (fld w 89 87)
def vxSb (w : EngCmd) : Nat := fld w 83 80
def vxCi (w : EngCmd) : Nat := fld w 76 72
def vxRs (w : EngCmd) : Nat := fld w 71 70

/-! ## Element operations (R90, R93) -/

/-- One function over a tile: results by position, 0 at positions not computed, and the flags raised. `u`: the draw of
each position; `n`: the command's number of free words. -/
def opTile (fn : Nat) (rm : Rm) (sat : Bool) (tc n base : Nat) (live : Nat → Bool) (u : Nat → Nat) (a b c : Nat → BitVec 32) :
    List (BitVec 32) × Flags :=
  let code := normTy tc
  if fn = 0x3A ∧ isBlk code then
    let rows := (List.range 32).map fun r => cvtrRow code rm ((List.range 32).map fun j => u (32 * r + j))
      ((List.range 32).map fun j => (a (32 * r + j), live (32 * r + j)))
    (rows.flatMap Prod.fst, rows.foldl (fun f r => f ||| r.2) 0)
  else
    let es := (List.range 1024).map fun e =>
      if live e then elemFn fn rm sat code (u e) (Config.freeWord n (base + e)) (a e) (b e) (c e) else (0, 0)
    (es.map Prod.fst, es.foldl (fun f r => f ||| r.2) 0)

/-- The destination register after masking (R90). -/
def maskedInto (live : Nat → Bool) (mz : Bool) (old : Nat → BitVec 32) (res : List (BitVec 32)) : List (BitVec 32) :=
  res.zipIdx.map fun (v, e) => if live e then v else if mz then 0 else old e

/-- VX_OP on the engine: registers, masks and lanes after it, and the flags raised (R93). `n` numbers its free words. -/
def Vx.op (x : Vx) (w : EngCmd) (n : Nat) : Vx × Flags :=
  let fn := vxFn w
  let live := fun (e : Nat) => (x.mask (vxMsk w)).getLsbD e
  match fnKind fn with
  | .bad => (x, 0)
  | .msk =>
    let a := x.mask (vxTa w % 8)
    let b := x.mask (vxTb w % 8)
    let f := fun (e : Nat) => match fn with
      | 0x40 => a.getLsbD e && b.getLsbD e
      | 0x41 => a.getLsbD e || b.getLsbD e
      | 0x42 => a.getLsbD e && !b.getLsbD e
      | _ => !a.getLsbD e
    let y := x.setMask (vxTd w % 8) (maskFrom fun e => live e && f e)
    (if fnDraws fn (vxRm w) then y.drew 1 else y, 0)
  | k =>
    let u := if fnDraws fn (vxRm w) then x.drawOf 1 0 else fun _ => 0
    let r := opTile fn (vxRm w) (tst w 86) (vxTc w) n 0 live u (x.at (vxTa w))
      (bOperand x.tregs x.sregs (fld w 85 84) (vxTb w) (vxSb w)) (x.at (vxTc w))
    let y := if k = .cmp then x.setMask (vxTd w % 8) (maskFrom fun e => live e && (nth r.1 e 0).getLsbD 0)
      else { x with tregs := putReg x.tregs (vxTd w) (maskedInto live (vxMz w) (x.at (vxTd w)) r.1) }
    (if fnDraws fn (vxRm w) then y.drew 1 else y, r.2)

/-- VX_OP (R93); a reserved function is counted. -/
def execVxOp (c : Nat) (s : State) : Answer :=
  .next (match s.vxHead c (· = 1) with
    | some q => vxRun s c q fun s =>
      if fnKind (vxFn q.word) = .bad then vxBad s c
      else
        let r := (s.core c).vx.op q.word s.free
        vxBusy (raiseVx (s.drawn.updVx c fun _ => r.1) c r.2) c 4
    | none => s)

/-- VX_NOP (R120). -/
def execVxNop (c : Nat) (s : State) : Answer :=
  .next (match s.vxHead c (· = 0) with
    | some q => vxRun s c q id
    | none => s)

/-- VX_SETS: IMM into S[SB] (R120). -/
def execVxSets (c : Nat) (s : State) : Answer :=
  .next (match s.vxHead c (· = 7) with
    | some q => vxRun s c q fun s =>
      s.updVx c fun x => { x with sregs := x.sregs.set (vxSb q.word) (BitVec.ofNat 32 (fld q.word 63 32)) }
    | none => s)

/-! ## Reductions (R95 to R99) -/

/-- The kinds of VX_RED that are not reserved (R95). -/
def redKind (fn : Nat) : Bool := decide (fn ≤ 5) || (decide (8 ≤ fn) && decide (fn ≤ 0xA))

/-- The empty result (R95). -/
def redEmpty (fn : Nat) : BitVec 32 :=
  match fn with
  | 0 => 0 | 1 => one32 | 2 => nInf32 | 3 => pInf32 | 4 => nInf32 | 5 => pInf32 | 8 => 0 | 9 => 0x80000000 | _ => 0x7FFFFFFF

/-- One level of the pairwise tree (R97). -/
def treeLevel (f : BitVec 32 → BitVec 32 → BitVec 32 × Flags) : List (BitVec 32) → List (BitVec 32) × Flags
  | a :: b :: rest =>
    let r := f a b
    let t := treeLevel f rest
    (r.1 :: t.1, r.2 ||| t.2)
  | l => (l, 0)

/-- The pairwise tree of depth d (R97). -/
def tree (f : BitVec 32 → BitVec 32 → BitVec 32 × Flags) : Nat → List (BitVec 32) → BitVec 32 × Flags
  | 0, l => (l.headD 0, 0)
  | d + 1, l =>
    let t := treeLevel f l
    let r := tree f d t.1
    (r.1, t.2 ||| r.2)

/-- Nodes of the tree: sum, product, saturating integer sum, each under RNE (R97). -/
def fadd32 (a b : BitVec 32) : BitVec 32 × Flags := deliverF32 .rne false 0 (addVal .rne (f32 a) (f32 b))
def fmul32 (a b : BitVec 32) : BitVec 32 × Flags := deliverF32 .rne false 0 (mulVal (f32 a) (f32 b))
def iadd32 (a b : BitVec 32) : BitVec 32 × Flags := satInt (a.toInt + b.toInt)

/-- Two values combined by a kind other than ARGMAX and ARGMIN (R95, R99). -/
def redCombine (fn : Nat) (a b : BitVec 32) : BitVec 32 × Flags :=
  match fn with
  | 0 => fadd32 a b
  | 1 => fmul32 a b
  | 2 => deliverF32 .rne false 0 (maxVal (f32 a) (f32 b))
  | 3 => deliverF32 .rne false 0 (minVal (f32 a) (f32 b))
  | 8 => iadd32 a b
  | 9 => (if a.toInt < b.toInt then b else a, 0)
  | _ => (if b.toInt < a.toInt then b else a, 0)

/-- The new value is strictly better, for ARGMAX or ARGMIN (R98, R99). -/
def argBetter (fn : Nat) (old new : BitVec 32) : Bool :=
  if (f32 new).isNan then !(f32 old).isNan
  else if fn = 4 then ltVal (f32 old) (f32 new) else ltVal (f32 new) (f32 old)

/-- The reduction of a list of elements, masked ones false: value, position of an ARGMAX or ARGMIN, flags (R95 to
R98). -/
def reduce (fn : Nat) (l : List (BitVec 32 × Bool)) : BitVec 32 × Option Nat × Flags :=
  let ins := l.zipIdx.filterMap fun ((v, on), i) => if on then some (v, i) else none
  let sig := flagIf (ins.any fun p => (f32 p.1).isSig) fInvalid
  match ins with
  | [] => (redEmpty fn, none, fEmpty)
  | (v0, i0) :: rest =>
    if fn ≤ 1 ∨ fn = 8 then
      let t := tree (redCombine fn) (Nat.log2 l.length) (l.map fun p => if p.2 then p.1 else redEmpty fn)
      (t.1, none, t.2)
    else if fn = 4 ∨ fn = 5 then
      let b := rest.foldl (fun (b : BitVec 32 × Nat) p => if argBetter fn b.1 p.1 then p else b) (v0, i0)
      (if (f32 b.1).isNan then canonNaN else b.1, some b.2, sig)
    else if fn ≤ 3 then
      let r := rest.foldl (fun (b : BitVec 32) p => (redCombine fn b p.1).1) (if (f32 v0).isNan then canonNaN else v0)
      (r, none, sig)
    else (rest.foldl (fun (b : BitVec 32) p => (redCombine fn b p.1).1) v0, none, 0)

/-- The groups of a reduction (R95): input positions, then where the value and the index go. -/
def redGroups (axis ci : Nat) : List (List Nat × Nat × Nat) :=
  let cj := (ci + 1) % 32
  match axis with
  | 0 => (List.range 32).map fun r => ((List.range 32).map (32 * r + ·), 32 * r + ci, 32 * r + cj)
  | 1 => (List.range 32).map fun x => ((List.range 32).map fun r => 32 * r + x, 32 * ci + x, 32 * cj + x)
  | _ => [(List.range 1024, ci, cj)]

/-- One group of VX_RED into the destination's elements (R95, R96, R99). -/
def redGroup (fn : Nat) (acc : Bool) (sbase : BitVec 32) (a : Nat → BitVec 32) (live : Nat → Bool)
    (st : List (BitVec 32) × Flags) (g : List Nat × Nat × Nat) : List (BitVec 32) × Flags :=
  let arg := decide (fn = 4 ∨ fn = 5)
  let r := reduce fn (g.1.map fun e => (a e, live e))
  let idx : BitVec 32 := match r.2.1 with
    | some i => sbase + BitVec.ofNat 32 i
    | none => BitVec.allOnes 32
  let put := fun (d : List (BitVec 32)) (v i : BitVec 32) => if arg then (d.set g.2.1 v).set g.2.2 i else d.set g.2.1 v
  let old := nth st.1 g.2.1 0
  if !acc then (put st.1 r.1 idx, st.2 ||| r.2.2)
  else if !(g.1.any live) then (st.1, st.2 ||| r.2.2)
  else if arg then
    (if argBetter fn old r.1 then put st.1 r.1 idx else st.1, st.2 ||| r.2.2 ||| flagIf (f32 old).isSig fInvalid)
  else
    let k := redCombine fn old r.1
    (put st.1 k.1 0, st.2 ||| r.2.2 ||| k.2)

/-- VX_RED on the engine (R95). -/
def Vx.red (x : Vx) (w : EngCmd) : Vx × Flags :=
  let r := (redGroups (fld w 79 78) (vxCi w)).foldl
    (redGroup (vxFn w) (tst w 77) (nth x.sregs (vxSb w) 0) (x.at (vxTa w)) (fun e => (x.mask (vxMsk w)).getLsbD e))
    (x.reg (vxTd w), 0)
  ({ x with tregs := putReg x.tregs (vxTd w) r.1 }, r.2)

/-- VX_RED (R95); a reserved kind is counted. -/
def execVxRed (c : Nat) (s : State) : Answer :=
  .next (match s.vxHead c (· = 2) with
    | some q => vxRun s c q fun s =>
      if redKind (vxFn q.word) then
        let r := (s.core c).vx.red q.word
        vxBusy (raiseVx (s.updVx c fun _ => r.1) c r.2) c 4
      else vxBad s c
    | none => s)

/-! ## Soft maximum (R100 to R104) -/

/-- Row r of row-state set n. -/
def Vx.row (x : Vx) (n r : Nat) : RowState := tget RowState.reset x.rows (32 * n + r)

/-- ACCUM on one row: entries in order, −∞ where masked (R102). `free`: the free word of each entry, then of the
rescaling. -/
def RowState.accum (st : RowState) (xs : List (BitVec 32)) (free : Nat → BitVec 32) : RowState × Flags :=
  let vs := xs.map f32
  let nans := vs.any Val.isNan
  let pinfs := (vs.filter fun v => v = .inf false).length
  let live := vs.any fun v => !v.isNan && !decide (v = .inf true)
  let isFin := fun (v : Val) => match v with
    | .fin _ _ _ => true
    | _ => false
  let mt := (xs.filter fun x => isFin (f32 x)).foldl
    (fun (b : BitVec 32) x => if b = nInf32 ∨ ltVal (f32 b) (f32 x) then x else b) nInf32
  let st := { st with
    nan := st.nan || nans, live := st.live || live,
    kinf := satAdd st.kinf pinfs
    entries := st.entries ++ xs.filter fun x => isFin (f32 x)
    accums := st.accums + 1 }
  let up := ltVal (f32 st.m) (f32 mt) && !eqVal (f32 st.m) (f32 mt)
  let sc : RowState × Flags :=
    if up then
      let d := deliverF32 .rne false 0 (addVal .rne (f32 st.m) (f32 mt).neg)
      let e := exp2F (free 32) d.1
      let p := fmul32 st.s e.1
      ({ st with m := mt, s := p.1 }, d.2 ||| e.2 ||| p.2)
    else (st, 0)
  let st := sc.1
  let es := xs.zipIdx.map fun (x, i) =>
    if isFin (f32 x) then
      let d := deliverF32 .rne false 0 (addVal .rne (f32 x) (f32 st.m).neg)
      let e := exp2F (free i) d.1
      (e.1, d.2 ||| e.2)
    else ((0 : BitVec 32), (0 : Flags))
  let t := tree fadd32 5 (es.map Prod.fst)
  let a := fadd32 st.s t.1
  ({ st with s := a.1 }, es.foldl (fun f e => f ||| e.2) sc.2 ||| t.2 ||| a.2)

/-- NORM on one row (R103). DESIGN CHOICE (log 157): x − M is rounded to FP32 under RNE before EXP2, as ACCUM rounds its
adds. An output of an entry that the row has accumulated is held to the bound of R105. -/
def RowState.norm (st : RowState) (xs : List (BitVec 32)) (free : Nat → BitVec 32) : List (BitVec 32) × Flags :=
  if st.nan then (xs.map fun _ => canonNaN, fInvalid)
  else if !st.live then (xs.map fun _ => 0, fEmpty)
  else if st.kinf ≠ 0 then
    let d := toF32 .rne false 0 (ratVal false 1 st.kinf.toNat 0)
    (xs.map fun x => if x = pInf32 then d.1 else 0, fInfshare ||| flagIf (xs.contains pInf32) d.2)
  else
    let r := rcpF (free 32) st.s
    let ys := xs.zipIdx.map fun (x, i) =>
      if x = nInf32 then ((0 : BitVec 32), (0 : Flags))
      else
        let d := deliverF32 .rne false 0 (addVal .rne (f32 x) (f32 st.m).neg)
        let e := exp2F (free i) d.1
        let p := fmul32 e.1 r.1
        (if st.entries.contains x then holdNorm (free (33 + i)) (st.entries.map f32) st.accums (f32 x) p.1 else p.1, d.2 ||| e.2 ||| r.2 ||| p.2)
    (ys.map Prod.fst, ys.foldl (fun f y => f ||| y.2) 0)

/-- The entries of row r of a tile, −∞ where masked (R101). -/
def smaxRow (a : Nat → BitVec 32) (live : Nat → Bool) (r : Nat) : List (BitVec 32) :=
  (List.range 32).map fun j => if live (32 * r + j) then a (32 * r + j) else nInf32

/-- The free words of row r in a soft maximum: 65 for each row. -/
def smaxFree (n base r i : Nat) : BitVec 32 := Config.freeWord n (base + 65 * r + i)

/-- ACCUM of a tile into set n (R102). -/
def Vx.accum (x : Vx) (set : Nat) (a : Nat → BitVec 32) (live : Nat → Bool) (n base : Nat) : Vx × Flags :=
  (List.range 32).foldl (fun (st : Vx × Flags) r =>
    let k := (st.1.row set r).accum (smaxRow a live r) (smaxFree n base r)
    ({ st.1 with rows := tset RowState.reset st.1.rows (32 * set + r) k.1 }, st.2 ||| k.2)) (x, 0)

/-- NORM of a tile against set n: its elements and flags (R103). -/
def Vx.norm (x : Vx) (set : Nat) (a : Nat → BitVec 32) (live : Nat → Bool) (n base : Nat) : List (BitVec 32) × Flags :=
  let rows := (List.range 32).map fun r => (x.row set r).norm (smaxRow a live r) (smaxFree n base r)
  (rows.flatMap Prod.fst, rows.foldl (fun f r => f ||| r.2) 0)

/-- A VX_SMAX with the given sub-operation at the head (R104). -/
def State.smaxHead (s : State) (c fn : Nat) : Option QCmd :=
  match s.vxHead c (· = 3) with
  | some q => if vxFn q.word = fn then some q else none
  | none => none

/-- RESET: every row of RS at its reset value (R104). -/
def execVxSmaxReset (c : Nat) (s : State) : Answer :=
  .next (match s.smaxHead c 0 with
    | some q => vxRun s c q fun s => vxBusy (s.updVx c fun x =>
        { x with rows := x.rows.filter fun p => decide (p.1 / 32 ≠ vxRs q.word) }) c 1
    | none => s)

/-- ACCUM (R102). -/
def execVxSmaxAccum (c : Nat) (s : State) : Answer :=
  .next (match s.smaxHead c 1 with
    | some q => vxRun s c q fun s =>
      let x := (s.core c).vx
      let r := x.accum (vxRs q.word) (x.at (vxTa q.word)) (fun e => (x.mask (vxMsk q.word)).getLsbD e) s.free 0
      vxBusy (raiseVx (s.drawn.updVx c fun _ => r.1) c r.2) c 4
    | none => s)

/-- NORM: every element of TD (R103). -/
def execVxSmaxNorm (c : Nat) (s : State) : Answer :=
  .next (match s.smaxHead c 2 with
    | some q => vxRun s c q fun s =>
      let x := (s.core c).vx
      let r := x.norm (vxRs q.word) (x.at (vxTa q.word)) (fun e => (x.mask (vxMsk q.word)).getLsbD e) s.free 0
      vxBusy (raiseVx (s.drawn.updVx c fun x => { x with tregs := putReg x.tregs (vxTd q.word) r.1 }) c r.2) c 4
    | none => s)

/-- READ: M into TD(r, CI), S into TD(r, CI + 1) (R104). -/
def execVxSmaxRead (c : Nat) (s : State) : Answer :=
  .next (match s.smaxHead c 3 with
    | some q => vxRun s c q fun s => vxBusy (s.updVx c fun x =>
        let d := (List.range 32).foldl (fun (d : List (BitVec 32)) r =>
          let st := x.row (vxRs q.word) r
          (d.set (32 * r + vxCi q.word) st.m).set (32 * r + (vxCi q.word + 1) % 32) st.s) (x.reg (vxTd q.word))
        { x with tregs := putReg x.tregs (vxTd q.word) d }) c 4
    | none => s)

/-- A reserved opcode, or a reserved sub-operation of VX_SMAX: as VX_NOP, counted (R104, R120). -/
def execReservedVxOpcode (c : Nat) (s : State) : Answer :=
  .next (match s.vxHead c (fun o => decide (o = 3) || decide (0xA ≤ o)) with
    | some q => if opcOf q.word = 3 ∧ vxFn q.word ≤ 3 then s else vxRun s c q fun s => vxBad s c
    | none => s)

/-! ## The basket (R92) -/

/-- Element e lies inside the extent that a slot header states (R82, R92). -/
def inExtent (hdr : BitVec 64) (e : Nat) : Bool := decide (e / 32 < fld hdr 43 38) && decide (e % 32 < fld hdr 37 32)

/-- The values of a slot, by position. -/
def Slot.at (k : Slot) (e : Nat) : BitVec 32 := tget 0 k.vals e

/-- VX_TAKE: with a slot in the basket, its values go into TD and its extent into M[MSK]; it completes when the slot is
released (R92, R119). -/
def execVxTake (c : Nat) (s : State) : Answer :=
  .next (match s.vxHead c (· = 4) with
    | some q =>
      match (s.core c).vx.taking, (s.core c).mx.basket with
      | none, k :: _ =>
        vxBusy ((popHead s c 1).updVx c fun x =>
          { x.setMask (vxMsk q.word) (maskFrom (inExtent k.hdr)) with
            tregs := putReg x.tregs (vxTd q.word) ((List.range 1024).map k.at)
            taking := some q }) c 4
      | _, _ => s
    | none => s)

/-! ## Loads and stores (R106 to R108) -/

/-- An MX value widened to FP32 (R45, R107). Where it lies beyond the range of FP32 the word is free, and so is whether
OVERFLOW and INEXACT are raised; `n` and `e` number the free values. -/
def mxToF32 (n e : Nat) (v : Val) : BitVec 32 × Flags :=
  let r := toF32 .rne false 0 v
  if r.2 &&& fOverflow = 0 then r
  else (Config.freeWord n e, if Config.freeBool n e then fOverflow ||| fInexact else 0)

/-- Elements of a row of 32 as packed from an address on (R34, R106), with the flags of their widening (R45); `e` numbers
its first element. -/
def State.loadRow (s : State) (c code planes : Nat) (cmp : Bool) (pstr at' e : Nat) : List (BitVec 32 × Flags) :=
  let rd := fun (o n : Nat) => ofBytes (s.engBytes c (at' + o) n)
  let w := tyWidth code
  if isPsb code then
    let x := rd 0 1
    let sg := rd pstr 4
    let pl := (List.range planes).map fun q => rd ((q + 2) * pstr) 4
    (List.range 32).map fun i =>
      let mag := sumTo (fun q => b2n (decide (q < planes) && (nth pl q 0).testBit i) * 2 ^ (6 - q)) 7
      toF32 .rne false 0 (psbValue x (sg.testBit i) mag planes (cmp && decide (planes ≠ 0)))
  else
    let all := rd 0 (4 * w)
    let el := fun (i : Nat) => all / 2 ^ (i * w) % 2 ^ w
    if isMx code then
      let x := rd pstr 1
      (List.range 32).map fun i => mxToF32 s.free (e + i) (mxValue code x (el i))
    else if code = 0 ∨ code = 8 then (List.range 32).map fun i => (BitVec.ofNat 32 (el i), 0)
    else match etyOf code with
      | .int k => (List.range 32).map fun i => (BitVec.ofInt 32 (sext k (el i)), 0)
      | .int1 => (List.range 32).map fun i => (if (el i).testBit 0 then BitVec.allOnes 32 else 1, 0)
      | t => (List.range 32).map fun i => toF32 .rne false 0 (t.decode (el i))

/-- The first poisoned line a row's load reads. -/
def State.loadPoison (s : State) (c code planes pstr at' : Nat) : Option Nat :=
  if isPsb code then (List.range (planes + 2)).findSome? fun q => s.scrPoison c (at' + q * pstr) (if q = 0 then 1 else 4)
  else match s.scrPoison c at' (4 * tyWidth code) with
    | some l => some l
    | none => if isMx code then s.scrPoison c (at' + pstr) 1 else none

/-- A tile loaded from 32 rows; rows with no live position are not read (R107). -/
def State.loadTile (s : State) (c code planes : Nat) (cmp : Bool) (pstr : Nat) (row : Nat → Nat) (live : Nat → Bool) :
    List (BitVec 32) × Flags × Option Nat :=
  let on := fun (r : Nat) => (List.range 32).any fun j => live (32 * r + j)
  let rows := (List.range 32).map fun r => if on r then s.loadRow c code planes cmp pstr (row r) (32 * r)
    else List.replicate 32 (0, 0)
  let es := rows.flatten
  (es.map Prod.fst, es.zipIdx.foldl (fun f p => if live p.2 then f ||| p.1.2 else f) 0,
    ((List.range 32).filter on).findSome? fun r => s.loadPoison c code planes pstr (row r))

/-- Bytes of a row of a line address, some of them left as they are. -/
def scrWriteSome (s : State) (c at' : Nat) (bs : List (Option Byte)) : State :=
  forEach (List.range ((bs.length + 63) / 64)) s fun s i =>
    let part := (bs.drop (64 * i)).take 64
    scrPutLine s c ((at' / 64 + i) % 131072)
      (BitVec.ofNat 64 (ofBits ((List.range 64).filter fun b => (nth part b none).isSome)))
      (lineOf (part.map fun b => b.getD 0)) false

/-- A row of codes of width w written at a line address; bits of elements not written keep their value (R108). -/
def storeCodes (s : State) (c w at' : Nat) (codes : List (Option Nat)) : State :=
  let val := pack (codes.zipIdx.map fun (v, i) => (w * i, v.getD 0 % 2 ^ w))
  let on := pack (codes.zipIdx.map fun (v, i) => (w * i, if v.isSome then 2 ^ w - 1 else 0))
  scrWriteSome s c at' ((List.range (4 * w)).map fun k =>
    let m : Byte := BitVec.ofNat 8 (on / 2 ^ (8 * k))
    if m = 0 then none
    else some ((scrByte s.scratch (s.core c).valid c (at' + k) &&& ~~~m) ||| (BitVec.ofNat 8 (val / 2 ^ (8 * k)) &&& m)))

/-- One element's code for a store into a plain type, and its flags (R108). -/
def storeCode (code : Nat) (rm : Rm) (sat : Bool) (u : Nat) (v : BitVec 32) : Nat × Flags :=
  if code = 0 ∨ code = 8 then (v.toNat, 0)
  else match etyOf code with
    | .flt f => f.encode rm sat u (f32 v)
    | .e8m0 => toE8M0 rm u (f32 v)
    | t => t.encode rm sat u (ofInt v.toInt)

/-- Bytes that more than one region of a stored block covers: nothing orders them, so each is a free byte. `n` and the row
number the free values. -/
def storeShared (s : State) (c code pstr at' n r : Nat) : State :=
  let parts := if isPsb code then (at', 1) :: (List.range 8).map fun q => (at' + (q + 1) * pstr, 4)
    else [(at', 4 * tyWidth code), (at' + pstr, 1)]
  let bytes := parts.flatMap fun p => (List.range p.2).map fun i => (p.1 + i) % 2 ^ 23
  forEach (bytes.filter fun a => decide (1 < bytes.count a)) s fun s a =>
    scrWriteSome s c (a / 64 * 64)
      (List.replicate (a % 64) none ++ [some ((Config.freeWord n (2 ^ 23 * r + a)).setWidth 8)])

/-- A row of 32 stored at a line address (R106, R108), and the flags raised. -/
def storeRow (s : State) (c code : Nat) (rm : Rm) (sat : Bool) (pstr at' n ri : Nat) (us : List Nat)
    (row : List (BitVec 32 × Bool)) : State × Flags :=
  if !(row.any Prod.snd) then (s, 0)
  else if isBlk code then
    let vs := row.map fun p => if p.2 then f32 p.1 else .fin false 0 0
    let r := blockEncode code rm us vs
    let f := (r.2.2.foldl (· ||| ·) 0) ||| flagIf (vs.any Val.isSig) fInvalid
    let share := fun (s : State) => storeShared s c code pstr at' n ri
    let one := fun (s : State) (a v n : Nat) => scrWriteSome s c (a / 64 * 64)
      (List.replicate (a % 64) none ++ (bytesOf n v).map some)
    if isPsb code then
      let s := one s at' r.1 1
      (share (forEach (List.range 8) s fun s q =>
        one s (at' + (q + 1) * pstr) (ofBits ((List.range 32).filter fun i => (nth r.2.1 i 0).testBit (7 - q))) 4), f)
    else (share (one (storeCodes s c (tyWidth code) at' (r.2.1.map some)) (at' + pstr) r.1 1), f)
  else
    let cs := (row.zip us).map fun (p, u) => if p.2 then some (storeCode code rm sat u p.1) else none
    (storeCodes s c (tyWidth code) at' (cs.map fun k => k.map Prod.fst),
      cs.foldl (fun f k => match k with
        | some k => f ||| k.2
        | none => f) 0)

/-- A tile stored in 32 rows, in order; `n` numbers the free values. -/
def storeTile (s : State) (c code : Nat) (rm : Rm) (sat : Bool) (pstr n : Nat) (row : Nat → Nat) (u : Nat → Nat)
    (v : Nat → BitVec 32) (live : Nat → Bool) : State × Flags :=
  (List.range 32).foldl (fun (st : State × Flags) r =>
    let k := storeRow st.1 c code rm sat pstr (row r) n r ((List.range 32).map fun j => u (32 * r + j))
      ((List.range 32).map fun j => (v (32 * r + j), live (32 * r + j)))
    (k.1, st.2 ||| k.2)) (s, 0)

/-- Row address of VX_LD and VX_ST (R106). -/
def memRow (w : EngCmd) (r : Nat) : Nat := (fld w 63 47 * 64 + r * fld w 100 85 * 64) % 2 ^ 23

/-- VX_LD (R107); a load of an MX type takes a number for its free values. -/
def execVxLd (c : Nat) (s : State) : Answer :=
  .next (match s.vxHead c (· = 5) with
    | some q => vxRun s c q fun s =>
      let w := q.word
      let live := fun (e : Nat) => ((s.core c).vx.mask (fld w 103 101)).getLsbD e
      let r := s.loadTile c (normTy (fld w 116 112)) (fld w 111 109) (tst w 108) (fld w 46 30 * 64) (memRow w) live
      let s := if isMx (normTy (fld w 116 112)) then s.drawn else s
      let s := s.updVx c fun x => { x with
        tregs := putReg x.tregs (fld w 121 117) (maskedInto live false (x.at (fld w 121 117)) r.1) }
      vxBusy (consumeIf (raiseVx s c r.2.1) c 4 r.2.2) c 4
    | none => s)

/-- VX_ST (R108); RM = SR draws whatever the type (R89). -/
def execVxSt (c : Nat) (s : State) : Answer :=
  .next (match s.vxHead c (· = 6) with
    | some q => vxRun s c q fun s =>
      let w := q.word
      let x := (s.core c).vx
      let rm := rmOf (fld w 107 105)
      let u := if rm = .sr then x.drawOf 1 0 else fun _ => 0
      let r := storeTile s c (normTy (fld w 116 112)) rm (tst w 104) (fld w 46 30 * 64) s.free (memRow w) u (x.at (fld w 121 117))
        (fun e => (x.mask (fld w 103 101)).getLsbD e)
      let s := if isBlk (normTy (fld w 116 112)) then r.1.drawn else r.1
      let s := if rm = .sr then s.updVx c fun x => x.drew 1 else s
      vxBusy (raiseVx s c r.2) c 4
    | none => s)

/-! ## Trail mode (R111 to R118) -/

/-- The stage that a VX_TCFG writes (R123). -/
def tcfgStage (w : EngCmd) : Stage :=
  { en := tst w 118, fn := BitVec.ofNat 8 (fld w 117 110), bsrc := BitVec.ofNat 2 (fld w 109 108),
    tb := BitVec.ofNat 5 (fld w 107 103), sb := BitVec.ofNat 4 (fld w 102 99), sc := BitVec.ofNat 4 (fld w 98 95),
    rm := BitVec.ofNat 3 (fld w 94 92), sat := tst w 91 }

/-- VX_TCFG (R111). -/
def execVxTcfg (c : Nat) (s : State) : Answer :=
  .next (match s.vxHead c (· = 8) with
    | some q => vxRun s c q fun s => s.updVx c fun x => { x with stages := x.stages.set (fld q.word 121 119) (tcfgStage q.word) }
    | none => s)

/-- The chain: stages 0 upward to the first that is disabled (R111). -/
def Vx.chain (x : Vx) : List Stage := x.stages.takeWhile fun g => g.en

/-- A stage whose function a trail does not allow is MOV (R112). -/
def Stage.func (g : Stage) : Nat := if fnKind g.fn.toNat = .reg then g.fn.toNat else 0

/-- Some stage of the chain is replaced by MOV (R112). -/
def Vx.trailBad (x : Vx) : Bool := x.chain.any fun g => decide (fnKind g.fn.toNat ≠ .reg)

/-- A stage draws (R89). -/
def Stage.draws (g : Stage) : Bool := fnDraws g.func (rmOf g.rm.toNat)

def runSrc (w : EngCmd) : Nat := fld w 121 120
def runDst (w : EngCmd) : Nat := fld w 119 118
def runTiles (w : EngCmd) : Nat := fld w 107 102 + 1

/-- A scratch type of a trail run: MX, PSB and reserved codes as FP32 (R113). -/
def trailTy (code : Nat) : Nat := if isBlk (normTy code) then 0 else normTy code

/-- Row addresses of tile n, from a base (R113). -/
def runRow (w : EngCmd) (base n r : Nat) : Nat := (base * 64 + n * fld w 29 16 * 64 + r * fld w 77 68 * 64) % 2 ^ 23

/-- The chain on one tile, stage by stage (R112): values and flags. `u k e`: the k-th draw of element e in this tile; the
type code of a CVTR stage, which the manual does not place, is free. -/
def runChain (k : Run) (x : Vx) (n : Nat) (u : Nat → Nat → Nat) (v : List (BitVec 32)) : List (BitVec 32) × Flags :=
  let r := x.chain.zipIdx.foldl (fun (st : List (BitVec 32) × Flags × Nat) p =>
    let g := p.1
    let o := opTile g.func (rmOf g.rm.toNat) g.sat ((Config.freeWord n (p.2 + 1)).toNat % 32) n (8192 + 1024 * p.2) (fun _ => true)
      (if g.draws then u st.2.2 else fun _ => 0) (fun e => nth st.1 e 0)
      (bOperand k.tregs0 k.sregs0 g.bsrc.toNat g.tb.toNat g.sb.toNat) (fun _ => nth k.sregs0 g.sc.toNat 0)
    (o.1, st.2.1 ||| o.2, st.2.2 + b2n g.draws)) (v, 0, 0)
  (r.1, r.2.1)

/-- Whether tile register j was written by an earlier tile of the run. -/
def writtenBefore (w : EngCmd) (n j : Nat) : Bool :=
  decide (runDst w = 0) && (List.range n).any fun i => (fld w 96 92 + i) % 32 = j

/-- A tile's source values, its extent where it is a basket slot, its flags and a poisoned line (R113). A source register
that an earlier tile of the run wrote reads old or new, free. -/
def State.runSource (s : State) (c : Nat) (k : Run) : List (BitVec 32) × Option (BitVec 64) × Flags × Option Nat :=
  let w := k.cmd.word
  let x := (s.core c).vx
  match runSrc w with
  | 0 => match (s.core c).mx.basket with
    | b :: _ => ((List.range 1024).map b.at, some b.hdr, 0, none)
    | [] => (List.replicate 1024 0, none, 0, none)
  | 1 =>
    let j := (fld w 101 97 + k.done) % 32
    let new := if writtenBefore w k.done j then Config.freeBool s.free 0 else true
    ((List.range 1024).map fun e => if new then x.at j e else tget 0 k.tregs0 (1024 * j + e), none, 0, none)
  | _ =>
    let r := s.loadTile c (trailTy (fld w 91 87)) 0 false 0 (runRow w (fld w 63 47) k.done) fun _ => true
    (r.1, none, r.2.1, r.2.2)

/-- The fill of a masked element (R114). -/
def fillValue (mfill : Nat) (v : BitVec 32) : BitVec 32 :=
  match mfill with
  | 0 => v
  | 1 => 0
  | 2 => nInf32
  | _ => pInf32

/-- Core cycles a tile's passes enter the lanes: twice as many where more than two of the chain's stages and its soft
maximum are transcendental (R117). -/
def Vx.tileCycles (x : Vx) (w : EngCmd) : Nat :=
  if 2 < (x.chain.filter fun g => isTransc g.func).length + b2n (decide (fld w 117 116 = 2)) then 8 else 4

/-- One tile of the run: through its source, mask, chain, soft maximum and destination (R113 to R115). -/
def runTile (s : State) (c : Nat) : State :=
  match (s.core c).vx.run with
  | none => s
  | some k =>
    let w := k.cmd.word
    let x := (s.core c).vx
    let n := s.free
    let src := s.runSource c k
    let masked := fun (e : Nat) => !(x.mask (fld w 113 111)).getLsbD e || (match src.2.1 with
      | some h => tst w 110 && !inExtent h e
      | none => false)
    let v0 := src.1.zipIdx.map fun (v, e) => if masked e then fillValue (fld w 109 108) v else v
    let orm := rmOf (fld w 81 79)
    let dstDraws := decide (runDst w = 1) && decide (orm = .sr)
    let nd := (x.chain.filter fun g => g.draws).length + b2n dstDraws
    let u := fun (d e : Nat) => x.drawOf nd d e
    let ch := runChain k x n u v0
    let at' := fun (e : Nat) => nth ch.1 e 0
    let set := match src.2.1 with
      | some h => (fld w 115 114 + fld h 45 44 / 2) % 4
      | none => fld w 115 114
    let sm : Vx × List (BitVec 32) × Flags := match fld w 117 116 with
      | 1 => let a := x.accum set at' (fun e => !masked e) n 65536; (a.1, ch.1, a.2)
      | 2 => let y := x.norm set at' (fun e => !masked e) n 65536; (x, y.1, y.2)
      | _ => (x, ch.1, 0)
    let out := fun (e : Nat) => nth sm.2.1 e 0
    let y := { sm.1 with run := some { k with done := k.done + 1 } }
    let y := y.drew nd
    let s := s.drawn
    let put : State × Flags := match runDst w with
      | 0 => (s.updVx c fun _ => { y with tregs := putReg y.tregs ((fld w 96 92 + k.done) % 32) sm.2.1 }, 0)
      | 1 =>
        let ud := if dstDraws then u (nd - 1) else fun _ => 0
        storeTile (s.updVx c fun _ => y) c (trailTy (fld w 86 82)) orm (tst w 78) 0 n (runRow w (fld w 46 30) k.done) ud out
          fun _ => true
      | _ => (s.updVx c fun _ => y, 0)
    vxBusy (consumeIf (raiseVx put.1 c (src.2.2.1 ||| ch.2 ||| sm.2.2 ||| put.2)) c 4 src.2.2.2) c (x.tileCycles w)

/-- VX_TRUN: the run starts, its B operands and scalars as they stand (R113, R116); a stage that a trail does not allow is
counted (R112). -/
def execVxTrun (c : Nat) (s : State) : Answer :=
  .next (match s.vxHead c (· = 9) with
    | some q =>
      if (s.core c).vx.taking.isSome then s
      else (popHead s c 1).updVx c fun x => { x with
        run := some { cmd := q, done := 0, tregs0 := x.tregs, sregs0 := x.sregs }
        trailop := satAdd x.trailop (b2n x.trailBad) }
    | none => s)

/-- The oldest slot leaves the basket (R81); a drain that waited for room reads on (R83). -/
def dropSlot (s : State) (c : Nat) : State := s.updMx c fun x => Mx.readLast { x with basket := x.basket.tail }

/-- BASKET_SLOT_RELEASE: the slot of a VX_TAKE is released, which completes the command (R92, R119); or the last pass of
the next tile of a trail run enters stage 0 (R113). -/
def execBasketSlotRelease (c : Nat) (s : State) : Answer :=
  .next (if s.coreRuns c then
    match (s.core c).vx.taking, (s.core c).vx.run, (s.core c).mx.basket with
    | some q, _, _ => complete (dropSlot (s.updVx c fun x => { x with taking := none }) c) c q.word
    | none, some k, _ :: _ =>
      if runSrc k.cmd.word = 0 ∧ k.done < runTiles k.cmd.word then dropSlot (runTile s c) c else s
    | _, _, _ => s
  else s)

/-- TRAIL_RUN_COMPLETE: the tiles of a run that does not take from the basket; with the last result written the run is
complete (R118, R119). -/
def execTrailRunComplete (c : Nat) (s : State) : Answer :=
  .next (if s.coreRuns c then match (s.core c).vx.run with
    | some k =>
      if runSrc k.cmd.word = 0 ∧ k.done < runTiles k.cmd.word then s
      else
        let s := forEach (List.range (runTiles k.cmd.word - k.done)) s fun s _ => runTile s c
        complete (s.updVx c fun x => { x with run := none }) c k.cmd.word
    | none => s
  else s)

end Sys2Proof.Machine
end

