-- ==== Sys2Proof/Machine/RegMap.lean ====
section
/-!
DEFINITION. The register map (R7 to R12): every control and status register at its device address, with the value a read
returns, what a read clears, and what a write sets. Each block's registers are those of the "Registers" section of its
chapter.
-/
namespace Sys2Proof.Machine

/-- One register as it stands now: 64 or 32 bits wide, its value, whether it is a counter of R12; what a read of the bits
of a mask clears (RC fields, R8); and what a write by a requester does, given the mask of the bits written and the value
with every other bit 0. -/
structure RegDef where
  wide : Bool
  value : BitVec 64
  counter : Bool := false
  clear : BitVec 64 → State → State := fun _ s => s
  write : Requester → BitVec 64 → BitVec 64 → State → State := fun _ _ _ s => s

/-- A 64-bit register of fields that are read only, a 32-bit one, and a counter of R12. -/
def ro64 (fs : List (Nat × Nat)) : RegDef := { wide := true, value := packW 64 fs }
def ro32 (fs : List (Nat × Nat)) : RegDef := { wide := false, value := packW 64 fs }
def ctr (n : Nat) : RegDef := { wide := true, value := BitVec.ofNat 64 n, counter := true }

/-- An RC field whose lowest bit is lo is among the bits read, and becomes 0. -/
def clearing (m : BitVec 64) (lo : Nat) (f : State → State) (s : State) : State := if tst m lo then f s else s

/-- The register's bits after a write: those of the mask are the value's (R12). -/
def merged (old m v : BitVec 64) : BitVec 64 := (old &&& ~~~m) ||| (v &&& m)

/-- Only the owner port and Buaman may write (R219, R251, R254, R330, R340). -/
def State.mayConfigure (s : State) : Requester → Bool
  | .port x => decide (x = s.dev.owner)
  | .buaman => true
  | .jtag => false

/-- READY or DEGRADED (R219, R251). -/
def State.isIdle (s : State) : Bool := decide (s.dev.state = .ready) || decide (s.dev.state = .degraded)

/-- READY, DEGRADED or BANK (R330, R340). -/
def State.unbooked (s : State) : Bool := s.isIdle || decide (s.dev.state = .bank)

/-- Bits [hi:lo], ones. -/
def bitRange (hi lo : Nat) : Nat := (2 ^ (hi + 1 - lo) - 1) * 2 ^ lo

/-- W1C bits of a value of n bits whose lowest stands at bit lo (R8). -/
def w1c {n : Nat} (old : BitVec n) (lo : Nat) (v : BitVec 64) : BitVec n := old &&& ~~~(BitVec.ofNat n (v.toNat / 2 ^ lo))

/-! ## The core window (R85, R126, R161, R186, R210, R376) -/

/-- Registers of which decoding of a word waits for an LDW (R172). -/
def seqSources (w : BitVec 64) : List Nat :=
  match seqOp w with
  | 1 => (if tst w 47 then [fld w 46 43] else []) ++ (if tst w 42 then [fld w 41 38] else [])
  | 3 => [fld w 53 50]
  | 4 => [fld w 53 50, fld w 49 46]
  | 5 => [fld w 53 50]
  | 6 => [fld w 53 50]
  | 9 => [fld w 55 52]
  | _ => []

/-- SEQ_STATUS.WAITING (R186). A command of an ENG run waits for the line of its second word as for that of its first
(R472); a speculative SEMW, WAITF or FENCE shows its own code. DESIGN CHOICE (log 159): a speculative SEMS, for which the
table has none, shows 3, the register it stands behind. -/
def Core.waiting (k : Core) : Nat :=
  let q := k.seq
  match q.phase with
  | .preload => 6
  | .drain => 5
  | .flag => 7
  | .decode => match q.wait with
    | .semw _ _ _ => 1
    | .waitf _ _ _ _ _ => 2
    | .fence _ => 8
    | .none =>
      if 1024 ≤ k.inFlight then 4
      else if 800 ≤ q.hold.length then 9
      else match q.word q.pc with
        | none => 10
        | some (w, _) =>
          if q.run.isSome then (if q.pc < q.codew ∧ q.word (q.pc + 1) = none then 10 else 0)
          else if (seqSources w).any q.awaits then 3
          else if q.specs.isEmpty then 0
          else match seqOp w with
            | 7 => 3
            | 8 => 1
            | 9 => 2
            | 12 => 8
            | _ => 0
  | _ => 0

/-- A command that stands behind an unresolved prediction is present (R175, R186). -/
def Core.speculative (k : Core) : Bool :=
  ([0, 1, 2, 3, 4].any fun e => (k.queue e).any fun q => decide (q.spec ≠ 0)) || k.seq.hold.any fun h => decide (h.cmd.spec ≠ 0)

/-- Banks with a drain running or waiting: in the basket's way, an MMA that drains, or a drain in the queue (R85). -/
def Mx.draining (x : Mx) : List Nat :=
  (List.range 4).filter fun n => x.underDrain n ||
    x.queue.any fun q => decide (mxBank q.word = n) && (decide (opcOf q.word = 4) || (decide (opcOf q.word = 1) && mmaDrains q.word))

/-- A VX_TAKE or a trail run that takes slots waits on an empty basket (R126): one at the head, or the run in progress. -/
def Core.basketWait (k : Core) : Bool :=
  k.mx.basket.isEmpty && k.vx.taking.isNone &&
    match k.vx.run, k.vx.queue with
    | some r, _ => decide (fld r.cmd.word 121 120 = 0) && decide (r.done < fld r.cmd.word 107 102 + 1)
    | none, q :: _ => q.ready && (decide (opcOf q.word = 4) || (decide (opcOf q.word = 9) && decide (fld q.word 121 120 = 0)))
    | none, [] => false

/-- The registers of the matrix engine (R85). -/
def mxReg (s : State) (c : Nat) (off : Nat) : Option RegDef :=
  let k := s.core c
  let x := k.mx
  match off with
  | 0x3000 => some (ro64 [(32, x.basket.length), (16, k.depth 0), (8, ofBits x.draining),
      (0, ofBits ((List.range 4).filter x.accumulating))])
  | 0x3008 => some { ro32 [(0, x.sticky.toNat)] with
      write := fun _ _ v s => s.updMx c fun x => { x with sticky := w1c x.sticky 0 v } }
  | 0x3010 => some { ro32 [(16, x.leftover.toNat), (0, x.badop.toNat)] with
      clear := fun m s => clearing m 16 (fun s => s.updMx c fun x => { x with leftover := 0 })
        (clearing m 0 (fun s => s.updMx c fun x => { x with badop := 0 }) s) }
  | 0x3018 => some (ctr x.busy.toNat)
  | _ =>
    if 0x3040 ≤ off ∧ off < 0x3080 then
      let l := nth x.layouts ((off - 0x3040) / 8) Layout.reset
      some (ro64 [(47, l.pstr.toNat), (31, l.rowp.toNat), (8, l.planes.toNat), (0, l.typ.toNat)])
    else none

/-- The registers of the vector engine (R126). -/
def vxReg (s : State) (c : Nat) (off : Nat) : Option RegDef :=
  let k := s.core c
  let x := k.vx
  match off with
  | 0x3100 => some (ro64 [(16, k.depth 1), (9, b2n k.basketWait), (8, b2n x.run.isSome), (0, x.chain.length)])
  | 0x3108 => some { ro32 [(0, x.sticky.toNat)] with
      write := fun _ _ v s => s.updVx c fun x => { x with sticky := w1c x.sticky 0 v } }
  | 0x3110 => some { ro32 [(16, x.badop.toNat), (0, x.trailop.toNat)] with
      clear := fun m s => clearing m 16 (fun s => s.updVx c fun x => { x with badop := 0 })
        (clearing m 0 (fun s => s.updVx c fun x => { x with trailop := 0 }) s) }
  | 0x3118 => some (ctr x.busy.toNat)
  | _ =>
    if 0x3140 ≤ off ∧ off < 0x3180 then
      let g := nth x.stages ((off - 0x3140) / 8) Stage.reset
      some (ro64 [(28, b2n g.en), (20, g.fn.toNat), (18, g.bsrc.toNat), (13, g.tb.toNat), (9, g.sb.toNat), (5, g.sc.toNat),
        (2, g.rm.toNat), (1, b2n g.sat)])
    else none

/-- The registers of the stream channels (R161). -/
def stReg (s : State) (c : Nat) (off : Nat) : Option RegDef :=
  let k := s.core c
  let hold := fun (x : Chan) => b2n (x.copies.any fun p => p.runAhead && p.held && !p.got.isEmpty)
  match off with
  | 0x3200 => some (ro64 [(32, k.depth 3), (16, k.depth 2), (9, hold k.ch1), (8, hold k.ch0),
      (1, b2n (k.ch1.copies.any fun x => !x.held)), (0, b2n (k.ch0.copies.any fun x => !x.held))])
  | 0x3208 => some { ro64 [(48, k.stAlign.toNat), (32, k.stAopbad.toNat), (16, k.stBadop.toNat)] with
      clear := fun m s => clearing m 48 (fun s => s.updCore c fun k => { k with stAlign := 0 })
        (clearing m 32 (fun s => s.updCore c fun k => { k with stAopbad := 0 })
        (clearing m 16 (fun s => s.updCore c fun k => { k with stBadop := 0 }) s)) }
  | 0x3210 => some { ro32 [(0, k.stReload.toNat)] with
      clear := fun m s => clearing m 0 (fun s => s.updCore c fun k => { k with stReload := 0 }) s }
  | 0x3218 => some {
      wide := true
      value := k.alignInfo
      write := fun _ _ v s => if tst v 63 then s.updCore c fun k => { k with alignInfo := setFld k.alignInfo 63 63 0 } else s }
  | 0x3220 => some (ctr k.ch0.bytes.toNat)
  | 0x3228 => some (ctr k.ch1.bytes.toNat)
  | _ => none

/-- The registers of the sequencer (R186). -/
def seqReg (s : State) (c : Nat) (off : Nat) : Option RegDef :=
  let k := s.core c
  let q := k.seq
  match off with
  | 0x3300 => some (ro64 [(48, q.leg), (32, k.inFlight), (4, k.waiting), (3, b2n k.speculative), (0, q.loops.length)])
  | 0x3308 => some (ro64 [(0, q.pc % 2 ^ 20)])
  | 0x3310 => some { ro64 [(48, q.badop.toNat), (32, q.loopdepth.toNat), (16, q.sathi.toNat), (0, q.satlo.toNat)] with
      clear := fun m s => clearing m 48 (fun s => s.updSeq c fun q => { q with badop := 0 })
        (clearing m 32 (fun s => s.updSeq c fun q => { q with loopdepth := 0 })
        (clearing m 16 (fun s => s.updSeq c fun q => { q with sathi := 0 })
        (clearing m 0 (fun s => s.updSeq c fun q => { q with satlo := 0 }) s))) }
  | 0x3318 => some { ro32 [(0, q.specmiss.toNat)] with
      clear := fun m s => clearing m 0 (fun s => s.updSeq c fun q => { q with specmiss := 0 }) s }
  | 0x3320 => some { ro64 [(32, q.semHi.toNat), (0, q.semLo.toNat)] with
      write := fun _ _ v s => s.updSeq c fun q => { q with semHi := w1c q.semHi 32 v, semLo := w1c q.semLo 0 v } }
  | _ =>
    if 0x3380 ≤ off ∧ off < 0x3400 ∧ off % 4 = 0 then some (ro32 [(0, (nth q.sems ((off - 0x3380) / 4) 0).toNat)]) else none

/-- The registers of a core's window (R85). -/
def coreReg (s : State) (c : Nat) (off : Nat) : Option RegDef :=
  let k := s.core c
  let d := k.dem
  match off with
  | 0x0010 => some (ctr (s.cycles (.core c)))
  | 0x0040 => some { ro32 [(0, k.sticky.toNat)] with
      write := fun _ _ v s => s.updCore c fun k => { k with sticky := w1c k.sticky 0 v } }
  | 0x0080 => some (ro64 [(62, k.ck.poly.toNat), (61, b2n k.ck.fold), (60, b2n k.ck.stepf), (59, b2n k.ck.alive),
      (55, k.ck.ac.toNat), (0, k.depth 4)])
  | 0x0088 => some (ro32 [(0, k.valid.length)])
  | 0x00C0 => some (ro64 [(32, d.stepTimer.toNat), (0, d.legTimer.toNat)])
  | 0x00C8 => some (ro64 [(63, b2n d.ovr), (62, b2n d.undecl), (61, b2n d.cycles), (60, b2n d.offdev), (59, b2n d.stacked),
      (32, d.overLeg.toNat), (0, d.breach.toNat)])
  | _ => match off / 0x100 with
    | 0x30 => mxReg s c off
    | 0x31 => vxReg s c off
    | 0x32 => stReg s c off
    | 0x33 => seqReg s c off
    | _ => none

/-! ## Crossings and the fabric (R210 to R212, R396) -/

/-- XING_ITEMS and XING_DROP of crossing n of a window (R211): `second` for the latter. -/
def xingReg (s : State) (k : Nat) (second : Bool) : RegDef :=
  let x := s.xing k
  if second then
    { ro32 [(16, x.resets.toNat), (0, x.dropped.toNat)] with
      clear := fun m s => clearing m 0 (fun s => s.updXing k fun x => { x with dropped := 0 }) s }
  else ro64 [(32, x.taken.toNat), (0, x.sent.toNat)]

/-- The crossing registers from an offset on: crossing n at 16 n (R211). -/
def xingRegs (s : State) (w count off : Nat) : Option RegDef :=
  if off / 16 < count ∧ off % 8 = 0 then some (xingReg s (xkey w (off / 16)) (decide (off % 16 = 8))) else none

/-- Cycles of the bridge on port b of tile t; port 3 of tiles 0 and 1 is the hub bridge (R210). -/
def State.bridgeCycles (s : State) (t b : Nat) : Nat :=
  match s.neighbour t b with
  | some u => s.cycles (.bridge (min t u) (max t u))
  | none => if s.portPresent t b then s.cycles (.bridge t 8) else 0

/-- Both hub bridges are unusable (R210). -/
def State.hubCut (s : State) : Bool := !s.tileUsable 0 && !s.tileUsable 1

/-- FAB_PORTS.LOST of tile t (R210). -/
def State.portsLost (s : State) (t : Nat) : List Nat :=
  (List.range 4).filter fun b => match s.neighbour t b with
    | some u => !s.tileUsable u
    | none => s.portPresent t b && s.hubCut

/-- The registers of a tile's fabric window (R210, R211, R396). -/
def fabReg (s : State) (t : Nat) (off : Nat) : Option RegDef :=
  match off with
  | 0x0000 => some (ctr (s.cycles (.fabric t)))
  | 0x0008 => some (ro32 [(8, ofBits (s.portsLost t)), (0, ofBits ((List.range 4).filter (s.portPresent t)))])
  | 0x0010 => some (ro64 ((32, s.routeHub t) :: (List.range 8).map fun d => (4 * d, s.routePort t d)))
  | _ =>
    if 0x0040 ≤ off ∧ off < 0x0060 then some (ctr (s.bridgeCycles t ((off - 0x0040) / 8)))
    else if 0x0100 ≤ off ∧ off < 0x0180 then
      let i := (off - 0x0100) / 8
      let x := s.tile t
      let h := match s.holderOf (16 * t + i) with
        | some c => coreWithin c
        | none => 0x1F
      some (ro64 [(48, (nth x.done i 0).toNat), (35, h), (16, (nth x.remaps i 0).toNat)])
    else if 0x8000 ≤ off then xingRegs s t 256 (off - 0x8000)
    else none

/-- The registers of the hub window (R210, R211). -/
def hubReg (s : State) (off : Nat) : Option RegDef :=
  match off with
  | 0x0000 => some (ctr (s.cycles .hub))
  | 0x0008 => some (ro32 [(8, ofBits ([0, 1].filter fun b => !s.tileUsable b)), (0, 3)])
  | 0x0040 => some (ctr (s.bridgeCycles 0 3))
  | 0x0048 => some (ctr (s.bridgeCycles 1 3))
  | 0x0050 => some (ctr 0)
  | 0x0058 => some (ctr 0)
  | _ => if 0x8000 ≤ off then xingRegs s 8 256 (off - 0x8000) else none

/-! ## Vaults, map, protection, bank units (R236, R259, R279) -/

/-- VC_CALSLOT.NEXT (R232, R236). -/
def State.nextSlot (s : State) (t v : Nat) : Nat :=
  let x := s.vault t v
  if x.calSlot then 0 else x.slotAt v - s.cycles (.vault t v)

/-- The READY line of a pair group (R265). -/
def State.groupReady (s : State) (t v k : Nat) : Bool := s.allReady (groupUnits t v k)

/-- The vault controller's registers (R236). -/
def vcReg (s : State) (t v : Nat) (off : Nat) : Option RegDef :=
  let x := s.vault t v
  match off with
  | 0x000 => some (ctr (s.cycles (.vault t v)))
  | 0x008 => some (ctr (s.cycles (.bankBus t v)))
  | 0x010 => some (ro64 [(32, x.queue.length), (9, b2n x.lost), (8, b2n x.calSlot), (0, x.band)])
  | 0x018 => some (ro32 ((List.range 8).map fun b => (4 * b, (BitVec.ofInt 4 (nth x.refBal b 0)).toNat)))
  | 0x020 => some { ro32 [(0, x.thresh.toNat)] with
      write := fun _ m w s => if s.planBooked then s
        else s.updVault t v fun x => { x with thresh := (merged (x.thresh.setWidth 64) m w).setWidth 16 } }
  | 0x028 => some (ro64 [(32, x.nrStep.toNat), (0, x.nrTotal.toNat)])
  | 0x030 => some (ctr x.refCount.toNat)
  | 0x038 => some { ro64 [(48, x.misalign.toNat), (32, x.accPoison.toNat)] with
      clear := fun m s => clearing m 48 (fun s => s.updVault t v fun x => { x with misalign := 0 })
        (clearing m 32 (fun s => s.updVault t v fun x => { x with accPoison := 0 }) s) }
  | 0x040 => some (ro64 [(32, x.slots.toNat), (0, s.nextSlot t v)])
  | _ => none

/-- A vault's memory-protection registers (R259). -/
def mpReg (s : State) (t v : Nat) (off : Nat) : Option RegDef :=
  let x := s.vault t v
  match off with
  | 0x100 => some (ro32 [(12, b2n x.erased.isSome), (8, x.erased.getD 0), (1, b2n (decide (x.interval ≠ 0))),
      (0, b2n (s.tile t).clotu)])
  | 0x108 => some { ro64 [(48, x.ue.toNat), (32, x.layerev.toNat), (0, x.ce.toNat)] with
      clear := fun m s => clearing m 48 (fun s => s.updVault t v fun x => { x with ue := 0 })
        (clearing m 32 (fun s => s.updVault t v fun x => { x with layerev := 0 }) s) }
  | 0x110 => some { ro64 [(32, x.rawrd.toNat), (0, x.poisonrd.toNat)] with
      clear := fun m s => clearing m 32 (fun s => s.updVault t v fun x => { x with rawrd := 0 })
        (clearing m 0 (fun s => s.updVault t v fun x => { x with poisonrd := 0 }) s) }
  | 0x118 => some {
      wide := true
      value := x.errlog
      write := fun _ _ w s => if tst w 63 then s.updVault t v fun x => { x with errlog := setFld x.errlog 63 63 0 } else s }
  | 0x120 => some { ro32 [(0, x.interval.toNat)] with
      write := fun _ m w s => if s.planBooked then s
        else s.updVault t v fun x => { x with interval := (merged (x.interval.setWidth 64) m w).setWidth 24 } }
  | 0x128 => some (ro64 [(32, x.pass.toNat), (0, x.pos.toNat)])
  | 0x130 => some {
      wide := true
      value := x.flipctl
      write := fun r m w s => if s.mayConfigure r then
          s.updVault t v fun x => { x with flipctl := merged x.flipctl m w &&& BitVec.ofNat 64 (bitRange 63 26) } else s }
  | 0x138 => some {
      wide := true
      value := x.flipmask
      write := fun _ m w s => s.updVault t v fun x => { x with flipmask := merged x.flipmask m w } }
  | _ => none

/-- A vault's bank-unit registers (R279). -/
def buReg (s : State) (t v : Nat) (off : Nat) : Option RegDef :=
  let x := s.vault t v
  let groups := fun (p : Nat → Bool) => ofBits ((List.range 4).filter p)
  match off with
  | 0x200 => some { ro64 [(48, x.stdrop.toNat), (32, x.badcmd.toNat), (16, x.kstop.toNat),
        (12, groups fun k => (groupUnits t v k).any fun u => (s.unit u).held),
        (8, groups fun k => (nth x.kernels k none).isSome), (0, groups (s.groupReady t v))] with
      clear := fun m s => clearing m 48 (fun s => s.updVault t v fun x => { x with stdrop := 0 })
        (clearing m 32 (fun s => s.updVault t v fun x => { x with badcmd := 0 })
        (clearing m 16 (fun s => s.updVault t v fun x => { x with kstop := 0 }) s)) }
  | 0x208 => some (ro32 [(0, x.rawRows.length)])
  | 0x210 => some (ro64 [(32, min 0x3FF x.badRows), (0, x.usedSpares)])
  | _ => none

/-- The registers of a vault's window (R236, R259, R279, R212). -/
def vaultReg (s : State) (t v : Nat) (off : Nat) : Option RegDef :=
  match off / 0x100 with
  | 0 => vcReg s t v off
  | 1 => mpReg s t v off
  | 2 => buReg s t v off
  | 4 => xingRegs s (32 + 64 * t + v) 2 (off - 0x400)
  | _ => none

/-! ## The map (R218 to R220, R246) -/

/-- Check 0x1: the window lies within the part's DAs. -/
def State.winInPart (s : State) (w : Win) : Bool := decide (w.base + w.size ≤ 128 * s.fuses.part.tiles)

/-- Check 0x4: the tile set. -/
def State.winTiles (s : State) (w : Win) : Bool :=
  !w.tiles.isEmpty && w.tiles.all s.tileUsable && (decide (w.order = 0) || decide (w.tiles.length = 1))

/-- Check 0x5: whole slabs. -/
def Win.winSize (w : Win) : Bool := decide (w.size % w.tiles.length = 0)

/-- Check 0x6: the slabs end within the tile. -/
def Win.winFits (w : Win) : Bool := decide (w.poff + w.size / w.tiles.length ≤ 128)

/-- Two windows share a DA. -/
def Win.meets (a b : Win) : Bool := overlaps a.base a.size b.base b.size

/-- Two windows share a slab of a tile. -/
def Win.meetsSlab (a b : Win) : Bool :=
  (a.tiles.any b.tiles.contains) && overlaps a.poff (a.size / a.tiles.length) b.poff (b.size / b.tiles.length)

/-- The lowest-numbered window that fails a test. -/
def lowestFailing (l : List (Nat × Win)) (ok : Nat × Win → Bool) : Option Nat := (l.find? fun e => !ok e).map Prod.fst

/-- ERR and BADWIN of a commit of the staged windows, checks 0x1 to 0x6 in their order (R218). -/
def State.mapCheck (s : State) : Nat × Nat :=
  let ws := (s.dev.staged.zipIdx.map fun (w, i) => (i, winOf w)).filter fun e => e.2.en
  let whole := ws.filter fun e => s.winTiles e.2 && e.2.winSize && e.2.winFits
  let alone := fun (p : Win → Win → Bool) (e : Nat × Win) => whole.all fun f => decide (f.1 = e.1) || !p e.2 f.2
  let tests := [(1, lowestFailing ws fun e => s.winInPart e.2), (2, lowestFailing whole (alone Win.meets)),
    (3, lowestFailing whole (alone Win.meetsSlab)), (4, lowestFailing ws fun e => s.winTiles e.2),
    (5, lowestFailing ws fun e => e.2.winSize), (6, lowestFailing ws fun e => e.2.winFits)]
  match tests.find? fun e => e.2.isSome with
  | some (n, some i) => (n, i)
  | _ => (0, 0)

/-- How a whole GiB of DA is mapped by windows: order, tiles, and where in them it lies. Two maps place every line of the
GiB alike exactly when this is the same. -/
def gibKey (ws : List Win) (j : Nat) : Option (Nat × List Nat × Nat) :=
  (ws.find? fun w => w.en && decide (w.base ≤ j) && decide (j < w.base + w.size)).map fun w =>
    (w.order, w.tiles, w.tiles.length * w.poff + (j - w.base))

/-- The commit moves some DA of the mirror store range to another physical line (R219, R340). -/
def State.moveStore (s : State) : Bool :=
  let old := s.dev.active.map winOf
  let new := s.dev.staged.map winOf
  (List.range s.mirror.storeLen.toNat).any fun i =>
    decide (gibKey old (s.mirror.storeBase.toNat + i) ≠ gibKey new (s.mirror.storeBase.toNat + i))

/-- The order that the staged windows give a slab of a tile; none: no window holds it. -/
def State.stagedOrder (s : State) (t slab : Nat) : Option Nat :=
  ((s.dev.staged.map winOf).find? fun w => w.en && w.tiles.contains t && decide (w.poff ≤ slab) &&
    decide (slab < w.poff + w.size / w.tiles.length)).map (·.order)

/-- A slab moves to another order: every line of a valid granule stays in a valid one, and the lines that a new granule
gains are zero (R246). Granules being filled are filled first. -/
def convertSlab (s : State) (t slab order : Nat) : State :=
  let mine := fun (g : Nat) => decide (g / 2 ^ 18 = slab)
  let s := forEach ((s.tile t).filling.filter mine) s fun s g => fillGranule s t g
  let old := (s.tile t).granules.filter mine
  let was := s.slabOrder t slab
  let lines := old.flatMap fun g => s.granuleLines t g
  let new := lines.foldl (fun l p => insertNat (joinP order p / 4096) l) []
  let s := s.updTile t fun x => { x with
    slabs := tset 1 x.slabs slab order
    granules := new.foldl (fun l g => insertNat g l) (x.granules.filter fun g => !mine g) }
  forEach (new.flatMap fun g => s.granuleLines t g) s fun s p =>
    if old.contains (joinP was p / 4096) then s else { s with mem := memClear s.mem (lineKey p.tile p.vault p.line) 80 }

/-- The geometry of an order: LI and XH share one (R246). -/
def geometry (order : Nat) : Nat := if order = 3 then 0 else order

/-- Convert the slabs of a tile whose order changes; one of another geometry makes BUSY of MP_MODE read 1 until the commit
has ended. -/
def convertTile (s : State) (t : Nat) : State :=
  forEach (List.range 128) s fun s i => match s.stagedOrder t i with
    | none => s
    | some o =>
      let was := s.slabOrder t i
      if o = was then s
      else
        let s := convertSlab s t i o
        if geometry o = geometry was then s else s.updTile t fun x => { x with clotuBusy := true }

/-- A commit of the staged windows (R218, R219, R246). -/
def commitMap (s : State) (req : Requester) : State :=
  if !(s.mayConfigure req && s.isIdle) then
    s.updDev fun d => { d with mapLocked := satAdd d.mapLocked 1, mapErr := 7, mapBadwin := 0 }
  else match s.mapCheck with
    | (0, _) =>
      let moved := s.moveStore
      let s := forEach s.tileList s convertTile
      let s := s.updDev fun d => { d with active := d.staged, mapBusy := true, mapErr := 0, mapBadwin := 0 }
      if moved then discardStore s else s
    | (e, i) => s.updDev fun d => { d with mapErr := BitVec.ofNat 4 e, mapBadwin := BitVec.ofNat 4 i }

/-- A staged window written (R219). -/
def writeWindow (s : State) (req : Requester) (n : Nat) (m v : BitVec 64) : State :=
  if s.mayConfigure req && s.isIdle then
    s.updDev fun d => { d with
      staged := d.staged.set n (merged (nth d.staged n 0) m v &&& BitVec.ofNat 64 (bitRange 63 26)) }
  else s.updDev fun d => { d with mapLocked := satAdd d.mapLocked 1 }

/-- The registers of the map block (R236). -/
def mapReg (s : State) (off : Nat) : Option RegDef :=
  let d := s.dev
  if off = 0 then
    some { ro32 [(30, b2n d.mapBusy), (16, d.mapLocked.toNat), (8, d.mapBadwin.toNat), (0, d.mapErr.toNat)] with
      clear := fun m s => clearing m 16 (fun s => s.updDev fun d => { d with mapLocked := 0 }) s
      write := fun r _ v s => if tst v 31 then commitMap s r else s }
  else if 0x100 ≤ off ∧ off < 0x200 then
    let n := (off - 0x100) / 16
    if off % 16 = 0 then some { wide := true, value := nth d.staged n 0, write := fun r m v s => writeWindow s r n m v }
    else if off % 16 = 8 then some { wide := true, value := nth d.active n 0 }
    else none
  else none

/-! ## The tile block and the bank block (R251, R259, R279) -/

/-- Clotu mode of a tile: a change clears every granule bit of it (R251); lines of the mirror map have changed (R342).
Uncorrectable lines reported in the other mode count no more towards the loss of a vault (R250). -/
def writeClotu (s : State) (req : Requester) (t : Nat) (on : Bool) : State :=
  if s.mayConfigure req && s.isIdle && decide ((s.tile t).clotu ≠ on) then
    let gs := (s.tile t).granules
    let s := s.updTile t fun x => { x with clotu := on, granules := [] }
    let s := forEach (List.range 64) s fun s v => s.updVault t v fun x => { x with ueTimes := [] }
    forEach gs s fun s g => forEach (s.granuleLines t g) s fun s p => noteChange s p 0 false
  else s

/-- The registers of a tile's block (R259). -/
def tileReg (s : State) (t : Nat) (off : Nat) : Option RegDef :=
  let x := s.tile t
  match off with
  | 0x000 => some { ro32 [(31, b2n x.clotuBusy), (0, b2n x.clotu)] with
      write := fun r m v s => if tst m 0 then writeClotu s r t (tst v 0) else s }
  | 0x008 => some { ro32 [(0, x.eraseThresh.toNat)] with
      write := fun _ m v s => s.updTile t fun x =>
        { x with eraseThresh := (merged (x.eraseThresh.setWidth 64) m v).setWidth 8 } }
  | 0x010 => some (ro32 [(0, x.granules.length)])
  | 0x018 => some { ro32 [(0, x.poisonCons.toNat)] with
      clear := fun m s => clearing m 0 (fun s => s.updTile t fun x => { x with poisonCons := 0 }) s }
  | _ => none

/-- The registers of the bank block (R279). -/
def bankReg (s : State) (off : Nat) : Option RegDef :=
  if off < 0x80 then
    let r := nth s.dev.ranges (off / 16) none
    if off % 16 = 0 then some (ro64 [(63, b2n r.isSome), (0, (r.getD (0, 0)).1)])
    else if off % 16 = 8 then some (ro64 [(0, (r.getD (0, 0)).2)])
    else none
  else if off = 0x100 then
    some { ro64 [(32, s.dev.wrdrop.toNat), (0, s.dev.rdpois.toNat)] with
      clear := fun m s => clearing m 32 (fun s => s.updDev fun d => { d with wrdrop := 0 })
        (clearing m 0 (fun s => s.updDev fun d => { d with rdpois := 0 }) s) }
  else none

end Sys2Proof.Machine
end

