-- ==== Sys2Proof/Machine/Registers.lean ====
section
/-!
DEFINITION. The register map's remaining blocks (host ports, device links, mirroring, power, temperature, security,
debug), the look-up of a device address, the rows that access registers (R8, R11, R12, R218, R219, R251, R296, R340, R445),
and the postcard (R442, R443).
-/
namespace Sys2Proof.Machine

/-! ## Host ports (R296, R301, HP_CMDSEQ of R319's chapter) -/

/-- The mask bit of an MSI-X vector is written: unmasking sends a pending message (R297). -/
def maskVector (s : State) (x n : Nat) (on : Bool) : State :=
  let p := s.port x
  let due := nth p.pendingMsix n false
  let s := s.setPort x { p with masked := p.masked.set n on, pendingMsix := if on then p.pendingMsix else p.pendingMsix.set n false }
  if !on && due then sendMsix s x n else s

/-- One entry of the MSI-X table: address at 0, data and vector control at 8 (R296). -/
def msixReg (s : State) (x n : Nat) (second : Bool) : RegDef :=
  let p := s.port x
  if second then
    {
      wide := true
      value := packW 64 [(32, b2n (nth p.masked n true)), (0, (nth p.msixData n 0).toNat)]
      write := fun _ m v s =>
        let s := s.updPort x fun p => { p with
          msixData := p.msixData.set n ((merged ((nth p.msixData n 0).setWidth 64) m v).setWidth 32) }
        if tst m 32 then maskVector s x n (tst v 32) else s }
  else
    {
      wide := true
      value := nth p.msixAddr n 0
      write := fun _ m v s => s.updPort x fun p => { p with msixAddr := p.msixAddr.set n (merged (nth p.msixAddr n 0) m v) } }

/-- HP_RINGBASE, HP_RINGCFG of ring r (R301). -/
def ringReg (s : State) (x r : Nat) (second : Bool) : RegDef :=
  let g := (s.port x).ring r
  if second then
    let v := packW 64 [(31, b2n g.en), (0, g.log2n.toNat)]
    { wide := false, value := v, write := fun _ m w s => writeRingcfg s x r (merged v m w).toNat }
  else
    {
      wide := true
      value := g.base
      write := fun _ m w s => s.updPort x fun p =>
        let g := p.ring r
        if g.en then p else p.setRing r { g with base := merged g.base m w &&& BitVec.ofNat 64 (bitRange 63 6) } }

/-- Which port a requester writes through. -/
def viaPort : Requester → Option Nat
  | .port x => some x
  | _ => none

/-- The registers of port x's block (R296, R301, R319). -/
def hpReg (s : State) (x : Nat) (off : Nat) : Option RegDef :=
  let p := s.port x
  match off with
  | 0x0000 => some (ro64 [(13, p.rate), (8, p.width), (7, b2n p.lowLat), (6, b2n p.cxlMem), (5, b2n p.cxlCache),
      (4, b2n (decide (x = s.dev.owner))), (0, b2n p.up)])
  | 0x0008 => some (ctr (s.cycles (.host x)))
  | 0x0010 => some { ro64 [(48, p.recov.toNat), (40, p.losses.toNat), (36, p.lastWhy.toNat), (16, p.fenced.toNat), (0, p.noport.toNat)] with
      clear := fun m s => clearing m 48 (fun s => s.updPort x fun p => { p with recov := 0 })
        (clearing m 16 (fun s => s.updPort x fun p => { p with fenced := 0 })
        (clearing m 0 (fun s => s.updPort x fun p => { p with noport := 0 }) s)) }
  | 0x0018 => some { ro32 [(0, p.biBound.toNat)] with
      write := fun _ m v s => if s.planBooked then s
        else s.updPort x fun p => { p with biBound := (merged (p.biBound.setWidth 64) m v).setWidth 8 } }
  | 0x0020 => some (ro64 [(32, p.recalls.toNat), (0, p.filter.length)])
  | 0x0028 =>
    let old := packW 64 [(63, b2n p.atsEn), (62, b2n p.pasidEn), (32, p.pasid.toNat), (0, (p.atc.filter (·.locked)).length)]
    some {
      wide := true
      value := old
      write := fun _ m v s =>
        let w := merged old m v
        if s.planBooked then s
        else s.updPort x fun p => { p with atsEn := tst w 63, pasidEn := tst w 62, pasid := BitVec.ofNat 20 (fld w 51 32) } }
  | 0x0030 =>
    let old := packW 64 [(34, p.apbase.toNat)]
    some {
      wide := true
      value := old
      write := fun _ m v s => s.updPort x fun p => { p with apbase := BitVec.ofNat 14 (fld (merged old m v) 47 34) } }
  | 0x0100 => some { ro32 [] with write := fun r _ v s => writeCmddb s x (viaPort r) (fld v 15 0) }
  | 0x0108 => some { ro32 [(0, p.baddb.toNat)] with
      clear := fun m s => clearing m 0 (fun s => s.updPort x fun p => { p with baddb := 0 }) s }
  | 0x0110 => some (ringReg s x 0 false)
  | 0x0118 => some (ringReg s x 0 true)
  | 0x0120 => some (ringReg s x 1 false)
  | 0x0128 => some (ringReg s x 1 true)
  | 0x0130 => some (ringReg s x 2 false)
  | 0x0138 => some (ringReg s x 2 true)
  | 0x0140 => some (ro32 [(16, p.cmd.tail), (0, p.cmd.head)])
  | 0x0148 => some (ro32 [(16, p.stat.tail), (0, p.stat.head)])
  | 0x0150 => some (ro32 [(16, p.fault.tail), (0, p.fault.head)])
  | 0x0160 => some { ro32 [(8, p.early.toNat), (0, p.expected.toNat)] with
      clear := fun m s => clearing m 8 (fun s => s.updPort x fun p => { p with early := 0 }) s }
  | 0x0200 => some { ro32 [(0, p.holdoff.toNat)] with
      write := fun _ m v s => s.updPort x fun p => { p with holdoff := (merged (p.holdoff.setWidth 64) m v).setWidth 8 } }
  | 0x3000 => some (ro64 [(0, ofBits ((List.range 8).filter fun n => nth p.pendingMsix n false))])
  | _ =>
    if 0x2000 ≤ off ∧ off < 0x2080 then some (msixReg s x ((off - 0x2000) / 16) (decide (off % 16 = 8)))
    else if 0x8000 ≤ off then xingRegs s (9 + x) 2 (off - 0x8000)
    else none

/-! ## Device links and mirroring (R349) -/

/-- DL_LINK.STATE (R349). -/
def LinkState.code : LinkState → Nat
  | .absent => 0 | .down => 1 | .training => 2 | .up => 3 | .verified => 4

/-- The registers of a link's block (R349). -/
def dlReg (s : State) (n : Nat) (off : Nat) : Option RegDef :=
  let l := s.link n
  match off with
  | 0x00 => some { ro64 [(48, l.retry.toNat), (40, l.losses.toNat), (36, l.lastWhy.toNat), (28, l.peerPair.toNat), (27, b2n l.peerRole),
        (15, l.peerId.toNat), (5, l.txOut.length), (3, l.rxOut.length), (0, if s.populated n then l.state.code else 0)] with
      clear := fun m s => clearing m 48 (fun s => s.updLink n fun l => { l with retry := 0 }) s }
  | 0x08 => some (ro64 [(22, ofBits l.rxOut), (0, ofBits l.txOut)])
  | 0x10 => some { ro64 [(32, l.corr.toNat), (0, l.uncorr.toNat)] with
      clear := fun m s => clearing m 32 (fun s => s.updLink n fun l => { l with corr := 0 })
        (clearing m 0 (fun s => s.updLink n fun l => { l with uncorr := 0 }) s) }
  | _ => none

/-- The registers of the device block (R330, R349). -/
def devReg (s : State) (off : Nat) : Option RegDef :=
  let d := s.dev
  match off with
  | 0x0000 => some { ro32 [(0, d.devid.toNat)] with
      write := fun r m v s => if s.mayConfigure r && s.unbooked then
          s.updDev fun d => { d with devid := (merged (d.devid.setWidth 64) m v).setWidth 12 } else s }
  | 0x0008 => some { ro32 [(0, d.dlTimeout.toNat)] with
      write := fun _ m v s => if s.planBooked then s
        else s.updDev fun d => { d with dlTimeout := (merged (d.dlTimeout.setWidth 64) m v).setWidth 16 } }
  | 0x0010 => some { ro64 [(48, d.e2ebad.toNat), (32, d.hopdrop.toNat), (16, d.expdeny.toNat), (0, d.timeout.toNat)] with
      clear := fun m s => clearing m 48 (fun s => s.updDev fun d => { d with e2ebad := 0 })
        (clearing m 32 (fun s => s.updDev fun d => { d with hopdrop := 0 })
        (clearing m 16 (fun s => s.updDev fun d => { d with expdeny := 0 })
        (clearing m 0 (fun s => s.updDev fun d => { d with timeout := 0 }) s))) }
  | _ =>
    if 0x1000 ≤ off ∧ off < 0x1200 then
      let n := (off - 0x1000) / 8
      some {
        wide := true
        value := tget 0 d.exports n
        write := fun r m v s =>
          if s.mayConfigure r then s.updDev fun d =>
            let w := merged (tget 0 d.exports n) m v &&& BitVec.ofNat 64 (bitRange 63 36 + bitRange 11 0)
            { d with exports := tset 0 d.exports n w }
          else s }
    else if 0x8000 ≤ off ∧ off < 0x10000 then
      let n := (off - 0x8000) / 8
      some {
        wide := true
        value := tget 0 d.routes n
        write := fun r m v s =>
          if s.mayConfigure r then s.updDev fun d =>
            let w := merged (tget 0 d.routes n) m v &&& BitVec.ofNat 64 (bitRange 63 62 + bitRange 23 0)
            { d with routes := tset 0 d.routes n w }
          else s }
    else none

/-- A write of MIR_STORE: a change discards the held copy (R340). -/
def writeStore (s : State) (req : Requester) (w : BitVec 64) : State :=
  let b := BitVec.ofNat 10 (fld w 51 42)
  let n := BitVec.ofNat 10 (fld w 41 32)
  if s.mayConfigure req && s.unbooked && (decide (b ≠ s.mirror.storeBase) || decide (n ≠ s.mirror.storeLen)) then
    discardStore (s.updMirror fun m => { m with storeBase := b, storeLen := n })
  else s

/-- The registers of the mirror block (R349). -/
def mirReg (s : State) (off : Nat) : Option RegDef :=
  let m := s.mirror
  match off with
  | 0x00 =>
    let old := packW 64 [(63, b2n m.en), (62, b2n m.resten), (50, m.partner.toNat), (38, m.restsrc.toNat), (0, ofBits s.mirrorMask)]
    some {
      wide := true
      value := old
      write := fun _ k v s =>
        let w := merged old k v
        s.updMirror fun m => { m with resten := tst w 62, restsrc := BitVec.ofNat 12 (fld w 49 38) } }
  | 0x08 =>
    let old := packW 64 [(42, m.storeBase.toNat), (32, m.storeLen.toNat)]
    some { wide := true, value := old, write := fun r k v s => writeStore s r (merged old k v) }
  | 0x10 => some (ro64 [(32, m.committed.toNat), (28, m.pair.code), (0, m.silence.toNat)])
  | 0x18 => some (ro64 [(32, m.hstep.toNat), (31, b2n m.hvalid), (0, m.heldValid.length / 256)])
  | 0x20 => some (ro64 [(32, m.rstep.toNat), (31, b2n m.rvalid)])
  | _ => none

/-- The registers from 0x0200_0500_0000 on (R212, R349). -/
def linkReg (s : State) (o : Nat) : Option RegDef :=
  if o < 0x1800 then dlReg s (o / 0x100) (o % 0x100)
  else if 0x2000 ≤ o ∧ o < 0x2060 then (if o % 16 = 0 then some (ctr (s.cycles (.link ((o - 0x2000) / 16)))) else none)
  else if 0x4000 ≤ o ∧ o < 0x4600 then xingRegs s (16 + (o - 0x4000) / 0x100) 8 (o % 0x100)
  else if 0x80000 ≤ o ∧ o < 0x90000 then devReg s (o - 0x80000)
  else if 0x100000 ≤ o ∧ o < 0x100100 then mirReg s (o - 0x100000)
  else none

/-! ## Power and temperature (R376, R419) -/

/-- A value of 16 bits in two's complement. -/
def int16 (i : Int) : Nat := (BitVec.ofInt 16 i).toNat

/-- The registers of the power block. -/
def pmReg (s : State) (off : Nat) : Option RegDef :=
  let p := s.power
  match off with
  | 0x0000 => some (ro64 [(32, p.inputPower % 65536), (16, p.limit), (8, s.fuses.floorStep)])
  | 0x0008 => some (ro32 [(0, s.fuses.floorClk)])
  | 0x0010 => some (ro64 [(0, s.pmLimits)])
  | 0x0018 => some (ctr (p.inEnergy.toNat / 1000))
  | 0x0020 => some (ro64 [(32, p.shown.vin), (16, p.shown.vaux), (0, p.shown.vio)])
  | _ =>
    if 0x0040 ≤ off ∧ off < 0x0080 then
      let x := s.tile ((off - 0x0040) / 8)
      some (ro64 [(32, x.power % 65536), (16, x.clk), (8, x.step), (0, x.lowest)])
    else if 0x1000 ≤ off ∧ off < 0x1000 + 8 * 679 then some (ctr (tget 0 p.meters ((off - 0x1000) / 8)).toNat)
    else none

/-- The registers of the thermal block. -/
def thReg (s : State) (off : Nat) : Option RegDef :=
  let p := s.power
  match off with
  | 0x0000 => some (ro64 [(48, p.rplate.toNat), (32, p.cool.toNat), (16, p.target.toNat), (0, p.riseLim.toNat)])
  | 0x0008 => some { ro64 [(48, p.shortfalls.toNat), (32, p.downsteps.toNat), (16, p.disagrees.toNat)] with
      clear := fun m s => clearing m 48 (fun s => s.updPower fun p => { p with shortfalls := 0 })
        (clearing m 32 (fun s => s.updPower fun p => { p with downsteps := 0 })
        (clearing m 16 (fun s => s.updPower fun p => { p with disagrees := 0 }) s)) }
  | _ =>
    if 0x0040 ≤ off ∧ off < 0x0080 then
      let x := s.tile ((off - 0x0040) / 8)
      some (ro64 [(32, int16 x.hot), (24, x.hotLayer), (16, min 0xFF (10 * x.rise / 16)), (8, x.aside.length), (2, b2n (decide (2 ≤ x.band))),
        (0, x.band)])
    else if 0x1000 ≤ off ∧ off < 0x1000 + 8 * 448 then
      let n := (off - 0x1000) / 8
      let x := s.tile (n / 56)
      let i := n % 56
      some (ro64 [(63, b2n (x.aside.contains i)), (32, int16 (nth x.expects i 0)), (0, int16 (nth x.readings i 0))])
    else none

/-! ## Security and debug (R446) -/

/-- The registers of the security block. -/
def secReg (s : State) (off : Nat) : Option RegDef :=
  let c := s.sec
  match off with
  | 0x0000 => some (ro32 [(0, s.dev.straps.toNat)])
  | 0x0008 => some (ro64 [(32, c.version.toNat), (24, s.fuses.svn), (16, c.lastWhy.toNat),
      (4, (c.flash.governing.map (·.fails)).getD 0), (1, b2n (decide (s.slotWhy (!c.flash.activeB) = 0))), (0, b2n c.slotB)])
  | 0x0010 => some (ro32 [(0, c.cause.toNat)])
  | 0x0018 => some (ro32 [(4, c.keyset.toNat), (0, s.fuses.revoked.toNat)])
  | _ => none

/-- The registers of the debug block. -/
def dbgReg (s : State) (off : Nat) : Option RegDef :=
  match off with
  | 0x0000 => some (ctr (s.cycles .control))
  | 0x0008 => some { ro32 [(0, s.dbgStatus)] with
      clear := fun m s => clearing m 16 (fun s => s.updSec fun c => { c with fusemis := 0 }) s }
  | _ => none

/-! ## Accesses (R8, R11, R12) -/

/-- The register that begins at offset o of the control and status range; only SEQ_SEMn stand at an odd multiple of 4. -/
def State.regAt (s : State) (o : Nat) : Option RegDef :=
  let tiles := s.fuses.part.tiles
  let c := (o - 0x00100000) / 0x10000
  let off := o % 0x10000
  if 0x00100000 ≤ o ∧ c < 17 * tiles then
    (if o % 8 = 0 ∨ (o % 4 = 0 ∧ 0x3380 ≤ off ∧ off < 0x3400) then coreReg s c off else none)
  else if o % 8 ≠ 0 then none
  else match o / 0x1000000 with
    | 0x01 =>
      if (o - 0x01000000) / 0x10000 < tiles then fabReg s ((o - 0x01000000) / 0x10000) off
      else if (o - 0x01000000) / 0x10000 = 8 then hubReg s off
      else none
    | 0x02 =>
      let i := (o - 0x02000000) / 0x1000
      if i < 64 * tiles then vaultReg s (i / 64) (i % 64) (o % 0x1000) else none
    | 0x03 =>
      if o < 0x03010000 then mapReg s off
      else if o < 0x03010000 + 0x1000 * tiles then tileReg s ((o - 0x03010000) / 0x1000) (o % 0x1000)
      else if 0x03020000 ≤ o then bankReg s (o - 0x03020000)
      else none
    | 0x04 => if (o - 0x04000000) / 0x10000 < 2 then hpReg s ((o - 0x04000000) / 0x10000) off else none
    | 0x05 => linkReg s (o - 0x05000000)
    | 0x06 => if o < 0x06010000 then pmReg s off else if o < 0x06020000 then thReg s off else none
    | 0x07 => if o < 0x07010000 then secReg s off else if o < 0x07020000 then dbgReg s off else none
    | _ => none

/-- The register of the 4 bytes at offset o: with the offset at which it begins and whether they are its high half. -/
def State.halfAt (s : State) (o : Nat) : Option (RegDef × Nat × Bool) :=
  match s.regAt o with
  | some r => some (r, o, false)
  | none =>
    if o % 8 = 4 then match s.regAt (o - 4) with
      | some r => if r.wide then some (r, o - 4, true) else none
      | none => none
    else none

/-- The mask of a register's half. -/
def halfMask (hi : Bool) : BitVec 64 := BitVec.ofNat 64 (if hi then bitRange 63 32 else bitRange 31 0)

/-- A half's value. -/
def RegDef.half (r : RegDef) (hi : Bool) : BitVec 32 :=
  BitVec.ofNat 32 (if hi then fld r.value 63 32 else fld r.value 31 0)

/-- The latched high half of a counter (R12). -/
def State.latched (s : State) (req : Requester) (o : Nat) : Option (BitVec 32) :=
  (s.dev.latches.find? fun e => decide (e.1 = req) && decide (e.2.1 = o)).map (·.2.2)

/-- The latches without one of a requester and register. -/
def unlatch (s : State) (req : Requester) (o : Nat) : State :=
  s.updDev fun d => { d with latches := d.latches.filter fun e => !(decide (e.1 = req) && decide (e.2.1 = o)) }

/-- A 4-byte read (R8, R12). -/
def readHalf (s : State) (req : Requester) (o : Nat) : BitVec 32 × State :=
  match s.halfAt o with
  | none => (0, s)
  | some (r, b, hi) =>
    if r.counter then
      if hi then match s.latched req b with
        | some v => (v, unlatch s req b)
        | none => (r.half true, s)
      else (r.half false, (unlatch s req b).updDev fun d => { d with latches := d.latches ++ [(req, b, r.half true)] })
    else (r.half hi, r.clear (halfMask hi) s)

/-- Offset of a device address in the control and status range (R3). -/
def csrOff (da : Nat) : Nat := da % 2 ^ 41

/-- The access is one that the range accepts: naturally aligned, 4 or 8 bytes (R11). -/
def csrAccess (da size : Nat) : Bool :=
  decide (0x020000000000 ≤ da) && decide (da < 0x020010000000) && (decide (size = 4) || decide (size = 8)) && decide (da % size = 0)

/-- A read of a register (R8, R11, R12): its value and what it leaves. -/
def readReg (s : State) (req : Requester) (da size : Nat) : BitVec 64 × State :=
  let o := csrOff da
  if !csrAccess da size then (0, s)
  else if size = 4 then
    let r := readHalf s req o
    (r.1.setWidth 64, r.2)
  else match s.regAt o with
    | some r =>
      if r.wide then (r.value, r.clear (BitVec.allOnes 64) s)
      else
        let a := readHalf s req o
        let b := readHalf a.2 req (o + 4)
        (packW 64 [(32, b.1.toNat), (0, a.1.toNat)], b.2)
    | none =>
      let b := readHalf s req (o + 4)
      (packW 64 [(32, b.1.toNat)], b.2)

/-- A 4-byte write (R8, R12). -/
def writeHalf (s : State) (req : Requester) (o : Nat) (v : BitVec 32) : State :=
  match s.halfAt o with
  | none => s
  | some (r, _, hi) => r.write req (halfMask hi) (BitVec.ofNat 64 (v.toNat * if hi then 2 ^ 32 else 1)) s

/-- A write of a register (R8, R11, R12). -/
def writeReg (s : State) (req : Requester) (da size : Nat) (v : BitVec 64) : State :=
  let o := csrOff da
  if !csrAccess da size then s
  else if size = 4 then writeHalf s req o (v.setWidth 32)
  else match s.regAt o with
    | some r =>
      if r.wide then r.write req (BitVec.allOnes 64) v s
      else writeHalf (writeHalf s req o (v.setWidth 32)) req (o + 4) (BitVec.ofNat 32 (fld v 63 32))
    | none => writeHalf s req (o + 4) (BitVec.ofNat 32 (fld v 63 32))

/-- The requester reaches the registers: a port that is up, Buaman, or JTAG where it may write (R27, R445). -/
def State.canReach (s : State) : Requester → Bool
  | .port x => s.portUp x
  | .buaman => s.awake
  | .jtag => s.awake && s.tapUp && s.fuses.debugW

/-! ## The rows -/

/-- REGISTER_WRITE (R8, R10). -/
def execRegisterWrite (req : Requester) (da : Da) (size : Nat) (value : BitVec 64) (s : State) : Answer :=
  .next (if s.canReach req then writeReg s req da.toNat size value else s)

/-- The registers at their reset values, as a host's reads before step 10 of the start find them (R422). -/
def State.bootView (s : State) : State :=
  { State.reset with fuses := s.fuses, dev := { Dev.reset s.fuses.part with straps := s.dev.straps, owner := s.dev.owner } }

/-- A read by a requester that reaches the registers, its value given out. A host port's in BOOT finds reset values and
clears nothing (R422). -/
def readOut (s : State) (req : Requester) (da size : Nat) : State :=
  match req, s.dev.state with
  | .port _, .boot => s.emit (.data ((readReg s.bootView req da size).1.setWidth 512) false)
  | _, _ =>
    let r := readReg s req da size
    r.2.emit (.data (r.1.setWidth 512) false)

/-- Memory_Active as each port reports it in configuration space: from step 10 of the start on (R422). -/
def State.memoryActive (s : State) : Bool := s.clocked && decide (s.dev.state ≠ .boot)

/-- RC_FIELD_READ: the value is returned and the RC fields among its bits are cleared in one action (R8). -/
def execRcFieldRead (req : Requester) (da : Da) (size : Nat) (s : State) : Answer :=
  .next (if s.canReach req then readOut s req da.toNat size else s)

/-- COUNTER_LOW_HALF_READ: the high half is latched for the requester (R12). -/
def execCounterLowHalfRead (req : Requester) (da : Da) (size : Nat) (s : State) : Answer :=
  .next (if s.canReach req then readOut s req da.toNat size else s)

/-- VC_MAPCTL_COMMIT (R218, R219). -/
def execVcMapctlCommit (req : Requester) (value : BitVec 32) (s : State) : Answer :=
  .next (if s.canReach req && tst value 31 then commitMap s req else s)

/-- MAP_COMMIT_DONE: every fabric stop holds the new windows; requests held at the ports go on (R219). -/
def execMapCommitDone (s : State) : Answer :=
  .next (
    if s.clocked && s.dev.mapBusy then
      let s := s.updDev fun d => { d with mapBusy := false }
      let s := forEach s.tileList s fun s t => s.updTile t fun x => { x with clotuBusy := false }
      retryHeld (retryHeld s 0) 1
    else s)

/-- MP_MODE_CLOTU_WRITE (R251). -/
def execMpModeClotuWrite (req : Requester) (t : Nat) (value : BitVec 32) (s : State) : Answer :=
  .next (if s.canReach req && s.tilePresent t then writeClotu s req t (tst value 0) else s)

/-- MIR_STORE_WRITE (R340). -/
def execMirStoreWrite (req : Requester) (value : BitVec 64) (s : State) : Answer :=
  .next (if s.canReach req then writeStore s req value else s)

/-- One access to stacked memory through BAR2 within one line; in GREY, with no memory, as at a dead crossing (R27, R193,
R296). -/
def barLine (s : State) (x : Nat) (da size : Nat) (wr : Bool) (value : Nat) : State :=
  if s.clocked then
    let o := da % 64
    hostAccess s x (.bar x o size) (if wr then .write else .read) (da / 64 * 64) (maskOf o size)
      (BitVec.ofNat 512 (if wr then value % 2 ^ (8 * size) * 2 ^ (8 * o) else 0)) false
  else s.emit (if wr then .done false else .data poisonData true)

/-- BAR_ACCESS (R296): BAR0 reaches the registers, BAR2 stacked memory from HP_APBASE on, BAR4 the CXL component registers,
of whose contents the manual gives only the HDM decoders, committed by a row of their own. -/
def execBarAccess (x : Nat) (acc : BarAccess) (s : State) : Answer :=
  .next (
    if !s.portUp x then s
    else match acc.bar with
      | 0 =>
        if acc.off + acc.size ≤ 2 ^ 28 then
          (if acc.wr then writeReg s (.port x) (0x020000000000 + acc.off) acc.size (acc.value.setWidth 64)
           else readOut s (.port x) (0x020000000000 + acc.off) acc.size)
        else s
      | 2 =>
        if 1 ≤ acc.size ∧ acc.size ≤ 64 ∧ acc.off + acc.size ≤ 2 ^ 34 then
          let da := (s.port x).apbase.toNat * 2 ^ 34 + acc.off
          let first := min acc.size (64 - da % 64)
          let s := barLine s x da first acc.wr acc.value.toNat
          if first = acc.size then s
          else barLine s x (da + first) (acc.size - first) acc.wr (acc.value.toNat / 2 ^ (8 * first))
        else s
      | 4 =>
        if acc.wr || decide (2 ^ 17 < acc.off + acc.size) then s
        else if acc.off < 2 ^ 16 then
          let d := drawBits 64 s
          d.2.emit (.data (d.1.setWidth 512) false)
        else s.emit (.data 0 false)
      | _ => s)

/-- DBGACC: a 64-bit read of a register; a write only with the DEBUGW fuse (R445). Where no island clock runs, a read
changes nothing. -/
def execDbgacc (da : Da) (wr : Bool) (value : BitVec 64) (s : State) : Answer :=
  .next (
    if s.tapUp then
      let s := s.updSec fun x => { x with ir := 0x10, extest := false, dbgUsed := true }
      if wr then (if s.canReach .jtag then writeReg s .jtag da.toNat 8 value else s)
      else
        let r := readReg s .jtag da.toNat 8
        (if s.awake then r.2 else s).emit (.bytes 1 (bytesOf 8 r.1.toNat))
    else s)

/-! ## The postcard (R442, R443) -/

/-- Byte i of a number. -/
def byteOf (v i : Nat) : Byte := BitVec.ofNat 8 (v / 2 ^ (8 * i))

/-- Words of engine e of core c, waiting in its queue and then in the hold buffer (R172, R442). -/
def State.queuedWords (s : State) (c e : Nat) : List EngCmd :=
  let k := s.core c
  (k.queue e).map (·.word) ++ (k.seq.hold.filter fun h => decide (h.eng = e)).map (·.cmd.word)

/-- A byte of the postcard (R442): by kind a byte of the registers (1), each as a read would return it and with nothing cleared,
of the islands' cycle counters (2), of the fault records held (3), of scratch (4), or of the engines' waiting commands (5); else
of the directory or of what the manual gives no layout. -/
def State.postcardByte (s : State) (addr : Nat) : Byte :=
  let k := Config.postcardItem addr
  let n := k.2
  match k.1 with
  | 1 => byteOf (readReg s .jtag (0x020000000000 + n % 2 ^ 28 / 8 * 8) 8).1.toNat (n % 8)
  | 2 => byteOf (sumTo (Config.cycleRate (n / 8) s.epoch) s.ticks) (n % 8)
  | 3 => byteOf ((s.dev.faults.map fun f => f.bits.toNat).getD (n / 64) 0) (n % 64)
  | 4 => scrByte s.scratch (s.core (n / 2 ^ 23)).valid (n / 2 ^ 23) (n % 2 ^ 23)
  | 5 => byteOf (((s.queuedWords (n / 2 ^ 16) (n / 2 ^ 13 % 8)).map (·.toNat)).getD (n / 16 % 2 ^ 9) 0) (n % 16)
  | _ => Config.postcardByte s.epoch addr

/-- Postcard bytes from an address on. -/
def State.postcard (s : State) (a n : Nat) : List Byte := (List.range n).map fun i => s.postcardByte (a + i)

/-- SMBUS_READ_POSTCARD: 32 bytes, and the address moves on (R443). -/
def execSmbusReadPostcard (s : State) : Answer :=
  .next (
    if s.frozen then
      (s.emit (.bytes 0 (s.postcard s.sec.postAddr.toNat 32))).updSec fun x => { x with postAddr := x.postAddr + 32 }
    else smbusNak s)

/-- POSTCARD: in FROZEN, eight bytes at a 40-bit address (R445). -/
def execPostcard (addr : BitVec 40) (s : State) : Answer :=
  .next (
    if s.tapUp then
      let s := s.updSec fun x => { x with ir := 0x11, extest := false }
      if s.frozen then (s.updSec fun x => { x with dbgUsed := true }).emit (.bytes 1 (s.postcard addr.toNat 8)) else s
    else s)

end Sys2Proof.Machine
end

