-- ==== Sys2Proof/Machine/Dispatch.lean ====
section
/-!
DEFINITION. One arm for each row of spec/opcode_table.json, in the table's order: the command's meaning, or a refusal by
name where it has none yet.
-/
namespace Sys2Proof.Machine

/-- The effect of one command on everything but the queue. -/
def exec (i : Instr) (s : State) : Host.Outcome State Fault Refusal :=
  match i with
  | .supplyValid sup => Sys2Proof.Machine.execSupplyValid sup s
  | .supplyInvalid sup => Sys2Proof.Machine.execSupplyInvalid sup s
  | .resetRelease env => Sys2Proof.Machine.execResetRelease env s
  | .bootSuccess res => Sys2Proof.Machine.execBootSuccess res s
  | .bootFail why => Sys2Proof.Machine.execBootFail why s
  | .bootWatchdog => Sys2Proof.Machine.execBootWatchdog s
  | .bootTimeout => Sys2Proof.Machine.execBootTimeout s
  | .fuseAdvance => Sys2Proof.Machine.execFuseAdvance s
  | .fuseShadowCheck differ => Sys2Proof.Machine.execFuseShadowCheck differ s
  | .hpCmddbWrite x via value => Sys2Proof.Machine.execHpCmddbWrite x via value s
  | .commandSlotConsume x slot => Sys2Proof.Machine.execCommandSlotConsume x slot s
  | .commandSlotReread x slot => Sys2Proof.Machine.execCommandSlotReread x slot s
  | .doorbellEarly x slot => Sys2Proof.Machine.execDoorbellEarly x slot s
  | .hpRingcfgEnable x r value => Sys2Proof.Machine.execHpRingcfgEnable x r value s
  | .nop src pkt => Sys2Proof.Machine.execNop src pkt s
  | .identify src pkt => Sys2Proof.Machine.execIdentify src pkt s
  | .readState src pkt => Sys2Proof.Machine.execReadState src pkt s
  | .book src pkt => Sys2Proof.Machine.execBook src pkt s
  | .bookComplete => Sys2Proof.Machine.execBookComplete s
  | .unbook src pkt => Sys2Proof.Machine.execUnbook src pkt s
  | .deferredCommandStart => Sys2Proof.Machine.execDeferredCommandStart s
  | .startCmd src pkt => Sys2Proof.Machine.execStartCmd src pkt s
  | .halt src pkt => Sys2Proof.Machine.execHalt src pkt s
  | .discard src pkt => Sys2Proof.Machine.execDiscard src pkt s
  | .discardComplete => Sys2Proof.Machine.execDiscardComplete s
  | .fill src pkt => Sys2Proof.Machine.execFill src pkt s
  | .fillComplete => Sys2Proof.Machine.execFillComplete s
  | .copyCmd src pkt => Sys2Proof.Machine.execCopyCmd src pkt s
  | .copyComplete => Sys2Proof.Machine.execCopyComplete s
  | .encode src pkt => Sys2Proof.Machine.execEncode src pkt s
  | .encodeComplete => Sys2Proof.Machine.execEncodeComplete s
  | .bankEnter src pkt => Sys2Proof.Machine.execBankEnter src pkt s
  | .bankEnterComplete => Sys2Proof.Machine.execBankEnterComplete s
  | .bankExit src pkt => Sys2Proof.Machine.execBankExit src pkt s
  | .bankRun src pkt => Sys2Proof.Machine.execBankRun src pkt s
  | .bankRunComplete => Sys2Proof.Machine.execBankRunComplete s
  | .mirrorSet src pkt => Sys2Proof.Machine.execMirrorSet src pkt s
  | .mirrorStatus src pkt => Sys2Proof.Machine.execMirrorStatus src pkt s
  | .takeover src pkt => Sys2Proof.Machine.execTakeover src pkt s
  | .takeoverComplete => Sys2Proof.Machine.execTakeoverComplete s
  | .restoreTo src pkt => Sys2Proof.Machine.execRestoreTo src pkt s
  | .restoreToComplete => Sys2Proof.Machine.execRestoreToComplete s
  | .selftest src pkt => Sys2Proof.Machine.execSelftest src pkt s
  | .selftestComplete res => Sys2Proof.Machine.execSelftestComplete res s
  | .calibrate src pkt => Sys2Proof.Machine.execCalibrate src pkt s
  | .calibrateComplete failed => Sys2Proof.Machine.execCalibrateComplete failed s
  | .powerLimit src pkt => Sys2Proof.Machine.execPowerLimit src pkt s
  | .thermalCfg src pkt => Sys2Proof.Machine.execThermalCfg src pkt s
  | .faultRead src pkt => Sys2Proof.Machine.execFaultRead src pkt s
  | .faultClear src pkt => Sys2Proof.Machine.execFaultClear src pkt s
  | .fwStage src pkt => Sys2Proof.Machine.execFwStage src pkt s
  | .fwStageComplete => Sys2Proof.Machine.execFwStageComplete s
  | .fwActivate src pkt => Sys2Proof.Machine.execFwActivate src pkt s
  | .freeze src pkt => Sys2Proof.Machine.execFreeze src pkt s
  | .resetDevice src pkt => Sys2Proof.Machine.execResetDevice src pkt s
  | .registerWrite req da size value => Sys2Proof.Machine.execRegisterWrite req da size value s
  | .rcFieldRead req da size => Sys2Proof.Machine.execRcFieldRead req da size s
  | .counterLowHalfRead req da size => Sys2Proof.Machine.execCounterLowHalfRead req da size s
  | .vcMapctlCommit req value => Sys2Proof.Machine.execVcMapctlCommit req value s
  | .mapCommitDone => Sys2Proof.Machine.execMapCommitDone s
  | .mpModeClotuWrite req t value => Sys2Proof.Machine.execMpModeClotuWrite req t value s
  | .mirStoreWrite req value => Sys2Proof.Machine.execMirStoreWrite req value s
  | .hdmDecoderCommit x d dec => Sys2Proof.Machine.execHdmDecoderCommit x d dec s
  | .legStart c => Sys2Proof.Machine.execLegStart c s
  | .preloadComplete c => Sys2Proof.Machine.execPreloadComplete c s
  | .fetchLineReturn c => Sys2Proof.Machine.execFetchLineReturn c s
  | .snop c => Sys2Proof.Machine.execSnop c s
  | .eng c => Sys2Proof.Machine.execEng c s
  | .seti c => Sys2Proof.Machine.execSeti c s
  | .addi c => Sys2Proof.Machine.execAddi c s
  | .madi c => Sys2Proof.Machine.execMadi c s
  | .andi c => Sys2Proof.Machine.execAndi c s
  | .ldw c => Sys2Proof.Machine.execLdw c s
  | .ldwReturn c => Sys2Proof.Machine.execLdwReturn c s
  | .sems c => Sys2Proof.Machine.execSems c s
  | .semw c => Sys2Proof.Machine.execSemw c s
  | .waitf c => Sys2Proof.Machine.execWaitf c s
  | .waitfReadReturn c => Sys2Proof.Machine.execWaitfReadReturn c s
  | .waitfReread c => Sys2Proof.Machine.execWaitfReread c s
  | .loopSeq c => Sys2Proof.Machine.execLoopSeq c s
  | .brnz c => Sys2Proof.Machine.execBrnz c s
  | .fence c => Sys2Proof.Machine.execFence c s
  | .endLeg c => Sys2Proof.Machine.execEndLeg c s
  | .reservedSeqOpcode c => Sys2Proof.Machine.execReservedSeqOpcode c s
  | .legDrainComplete c => Sys2Proof.Machine.execLegDrainComplete c s
  | .completionFlagAck c => Sys2Proof.Machine.execCompletionFlagAck c s
  | .semSettle c n => Sys2Proof.Machine.execSemSettle c n s
  | .mxNop c => Sys2Proof.Machine.execMxNop c s
  | .mxMma c => Sys2Proof.Machine.execMxMma c s
  | .mxMmaComplete c => Sys2Proof.Machine.execMxMmaComplete c s
  | .mxSetl c => Sys2Proof.Machine.execMxSetl c s
  | .mxLoadacc c => Sys2Proof.Machine.execMxLoadacc c s
  | .mxDrain c => Sys2Proof.Machine.execMxDrain c s
  | .drainSlotPlace c bank => Sys2Proof.Machine.execDrainSlotPlace c bank s
  | .reservedMxOpcode c => Sys2Proof.Machine.execReservedMxOpcode c s
  | .vxNop c => Sys2Proof.Machine.execVxNop c s
  | .vxOp c => Sys2Proof.Machine.execVxOp c s
  | .vxRed c => Sys2Proof.Machine.execVxRed c s
  | .vxSmaxReset c => Sys2Proof.Machine.execVxSmaxReset c s
  | .vxSmaxAccum c => Sys2Proof.Machine.execVxSmaxAccum c s
  | .vxSmaxNorm c => Sys2Proof.Machine.execVxSmaxNorm c s
  | .vxSmaxRead c => Sys2Proof.Machine.execVxSmaxRead c s
  | .vxTake c => Sys2Proof.Machine.execVxTake c s
  | .basketSlotRelease c => Sys2Proof.Machine.execBasketSlotRelease c s
  | .vxLd c => Sys2Proof.Machine.execVxLd c s
  | .vxSt c => Sys2Proof.Machine.execVxSt c s
  | .vxSets c => Sys2Proof.Machine.execVxSets c s
  | .vxTcfg c => Sys2Proof.Machine.execVxTcfg c s
  | .vxTrun c => Sys2Proof.Machine.execVxTrun c s
  | .trailRunComplete c => Sys2Proof.Machine.execTrailRunComplete c s
  | .reservedVxOpcode c => Sys2Proof.Machine.execReservedVxOpcode c s
  | .stNop c ch => Sys2Proof.Machine.execStNop c ch s
  | .stCopy c ch => Sys2Proof.Machine.execStCopy c ch s
  | .stGather c ch => Sys2Proof.Machine.execStGather c ch s
  | .stScatter c ch => Sys2Proof.Machine.execStScatter c ch s
  | .stFlag c ch => Sys2Proof.Machine.execStFlag c ch s
  | .reservedStOpcode c ch => Sys2Proof.Machine.execReservedStOpcode c ch s
  | .stReadReturn c ch => Sys2Proof.Machine.execStReadReturn c ch s
  | .stWriteAck c ch => Sys2Proof.Machine.execStWriteAck c ch s
  | .ckNop c => Sys2Proof.Machine.execCkNop c s
  | .ckInit c => Sys2Proof.Machine.execCkInit c s
  | .ckFeed c => Sys2Proof.Machine.execCkFeed c s
  | .ckPut c => Sys2Proof.Machine.execCkPut c s
  | .ckStore c => Sys2Proof.Machine.execCkStore c s
  | .reservedCkOpcode c => Sys2Proof.Machine.execReservedCkOpcode c s
  | .crossingItemTake w n => Sys2Proof.Machine.execCrossingItemTake w n s
  | .halfResetAssert w n => Sys2Proof.Machine.execHalfResetAssert w n s
  | .halfResetRelease w n => Sys2Proof.Machine.execHalfResetRelease w n s
  | .vaultRequestAccept t v => Sys2Proof.Machine.execVaultRequestAccept t v s
  | .vaultServe t v k => Sys2Proof.Machine.execVaultServe t v k s
  | .accWriteCombine t v => Sys2Proof.Machine.execAccWriteCombine t v s
  | .granuleFillDone t g => Sys2Proof.Machine.execGranuleFillDone t g s
  | .rowIdleClose t v b => Sys2Proof.Machine.execRowIdleClose t v b s
  | .refreshDue t v b => Sys2Proof.Machine.execRefreshDue t v b s
  | .refreshForced t v b => Sys2Proof.Machine.execRefreshForced t v b s
  | .refreshDone t v b => Sys2Proof.Machine.execRefreshDone t v b s
  | .neighbourRefresh t v b => Sys2Proof.Machine.execNeighbourRefresh t v b s
  | .calibrationSlotStart t v => Sys2Proof.Machine.execCalibrationSlotStart t v s
  | .calibrationSlotEnd t v => Sys2Proof.Machine.execCalibrationSlotEnd t v s
  | .bandNotice t v => Sys2Proof.Machine.execBandNotice t v s
  | .scrubTick t v => Sys2Proof.Machine.execScrubTick t v s
  | .layerEraseMark t v layer => Sys2Proof.Machine.execLayerEraseMark t v layer s
  | .vaultLostDeclare t v => Sys2Proof.Machine.execVaultLostDeclare t v s
  | .vaultControllerFail t v => Sys2Proof.Machine.execVaultControllerFail t v s
  | .buIdle t v hdr => Sys2Proof.Machine.execBuIdle t v hdr s
  | .buLoad t v hdr w1 w2 w3 => Sys2Proof.Machine.execBuLoad t v hdr w1 w2 w3 s
  | .buStart t v hdr w1 w2 => Sys2Proof.Machine.execBuStart t v hdr w1 w2 s
  | .buPoll t v hdr => Sys2Proof.Machine.execBuPoll t v hdr s
  | .buRdreg t v hdr => Sys2Proof.Machine.execBuRdreg t v hdr s
  | .buRdacc t v hdr => Sys2Proof.Machine.execBuRdacc t v hdr s
  | .buWrreg t v hdr w1 => Sys2Proof.Machine.execBuWrreg t v hdr w1 s
  | .buHold t v hdr => Sys2Proof.Machine.execBuHold t v hdr s
  | .buResume t v hdr => Sys2Proof.Machine.execBuResume t v hdr s
  | .buReset t v hdr => Sys2Proof.Machine.execBuReset t v hdr s
  | .buSpare t v hdr w1 w2 => Sys2Proof.Machine.execBuSpare t v hdr w1 w2 s
  | .buReservedFrame t v hdr => Sys2Proof.Machine.execBuReservedFrame t v hdr s
  | .buNop t v layer k => Sys2Proof.Machine.execBuNop t v layer k s
  | .buLdi t v layer k => Sys2Proof.Machine.execBuLdi t v layer k s
  | .buAdd t v layer k => Sys2Proof.Machine.execBuAdd t v layer k s
  | .buAddi t v layer k => Sys2Proof.Machine.execBuAddi t v layer k s
  | .buAnd t v layer k => Sys2Proof.Machine.execBuAnd t v layer k s
  | .buXor t v layer k => Sys2Proof.Machine.execBuXor t v layer k s
  | .buLd t v layer k => Sys2Proof.Machine.execBuLd t v layer k s
  | .buSt t v layer k => Sys2Proof.Machine.execBuSt t v layer k s
  | .buStc t v layer k => Sys2Proof.Machine.execBuStc t v layer k s
  | .buMac t v layer k => Sys2Proof.Machine.execBuMac t v layer k s
  | .buClr t v layer k => Sys2Proof.Machine.execBuClr t v layer k s
  | .buBlt t v layer k => Sys2Proof.Machine.execBuBlt t v layer k s
  | .buBne t v layer k => Sys2Proof.Machine.execBuBne t v layer k s
  | .buChk t v layer k => Sys2Proof.Machine.execBuChk t v layer k s
  | .buHalt t v layer k => Sys2Proof.Machine.execBuHalt t v layer k s
  | .buReservedOpcode t v layer k => Sys2Proof.Machine.execBuReservedOpcode t v layer k s
  | .groupReadyRise t v k => Sys2Proof.Machine.execGroupReadyRise t v k s
  | .kernelLimit t v k => Sys2Proof.Machine.execKernelLimit t v k s
  | .hostLinkUp x lnk => Sys2Proof.Machine.execHostLinkUp x lnk s
  | .hostLinkRecoveryDone x => Sys2Proof.Machine.execHostLinkRecoveryDone x s
  | .linkLossReset x => Sys2Proof.Machine.execLinkLossReset x s
  | .hostLinkDown x => Sys2Proof.Machine.execHostLinkDown x s
  | .hotReset x => Sys2Proof.Machine.execHotReset x s
  | .flr x => Sys2Proof.Machine.execFlr x s
  | .d3hot x => Sys2Proof.Machine.execD3hot x s
  | .recoveryLong x => Sys2Proof.Machine.execRecoveryLong x s
  | .recoveryRepeat x => Sys2Proof.Machine.execRecoveryRepeat x s
  | .bmeCleared x => Sys2Proof.Machine.execBmeCleared x s
  | .downtrained x width rate => Sys2Proof.Machine.execDowntrained x width rate s
  | .hostSlow x => Sys2Proof.Machine.execHostSlow x s
  | .perstAssert x => Sys2Proof.Machine.execPerstAssert x s
  | .perstRelease x => Sys2Proof.Machine.execPerstRelease x s
  | .hostSnoop x addr invalidate => Sys2Proof.Machine.execHostSnoop x addr invalidate s
  | .atsInvalidation x page log2 => Sys2Proof.Machine.execAtsInvalidation x page log2 s
  | .pageRequestResponse x page log2 granted hpa => Sys2Proof.Machine.execPageRequestResponse x page log2 granted hpa s
  | .hostGoReceive x id => Sys2Proof.Machine.execHostGoReceive x id s
  | .hostDataReceive x id data poison => Sys2Proof.Machine.execHostDataReceive x id data poison s
  | .hostCxlmemRead x hpa => Sys2Proof.Machine.execHostCxlmemRead x hpa s
  | .hostCxlmemWrite x hpa mask data poison => Sys2Proof.Machine.execHostCxlmemWrite x hpa mask data poison s
  | .uioInbound x acc => Sys2Proof.Machine.execUioInbound x acc s
  | .barAccess x acc => Sys2Proof.Machine.execBarAccess x acc s
  | .bisnpResponse x da dirty data => Sys2Proof.Machine.execBisnpResponse x da dirty data s
  | .recallTimeout x => Sys2Proof.Machine.execRecallTimeout x s
  | .msixHoldoffExpiry x v => Sys2Proof.Machine.execMsixHoldoffExpiry x v s
  | .dlTrainingDone n tr => Sys2Proof.Machine.execDlTrainingDone n tr s
  | .dlTrainingRetry n => Sys2Proof.Machine.execDlTrainingRetry n s
  | .dlTrainingFailed n => Sys2Proof.Machine.execDlTrainingFailed n s
  | .flitReceive n flit fecOk corr => Sys2Proof.Machine.execFlitReceive n flit fecOk corr s
  | .idleFlitSend n => Sys2Proof.Machine.execIdleFlitSend n s
  | .laneSymbolThreshold n rx lane => Sys2Proof.Machine.execLaneSymbolThreshold n rx lane s
  | .laneLossOfSignal n rx lane => Sys2Proof.Machine.execLaneLossOfSignal n rx lane s
  | .linkManagementFlit n rx lane seq => Sys2Proof.Machine.execLinkManagementFlit n rx lane seq s
  | .laneSpared n => Sys2Proof.Machine.execLaneSpared n s
  | .lossOfLight e link => Sys2Proof.Machine.execLossOfLight e link s
  | .elsFltAssert e => Sys2Proof.Machine.execElsFltAssert e s
  | .elsFltRelease e => Sys2Proof.Machine.execElsFltRelease e s
  | .messageForward n => Sys2Proof.Machine.execMessageForward n s
  | .writeMsg n => Sys2Proof.Machine.execWriteMsg n s
  | .writeMasked n => Sys2Proof.Machine.execWriteMasked n s
  | .readMsg n => Sys2Proof.Machine.execReadMsg n s
  | .readResponse n => Sys2Proof.Machine.execReadResponse n s
  | .completionMsg n => Sys2Proof.Machine.execCompletionMsg n s
  | .mirrorWrite n => Sys2Proof.Machine.execMirrorWrite n s
  | .restoreWrite n => Sys2Proof.Machine.execRestoreWrite n s
  | .rollcall n => Sys2Proof.Machine.execRollcall n s
  | .commitMsg n => Sys2Proof.Machine.execCommitMsg n s
  | .storeCommitLanded => Sys2Proof.Machine.execStoreCommitLanded s
  | .commitAck n => Sys2Proof.Machine.execCommitAck n s
  | .mirmap n => Sys2Proof.Machine.execMirmap n s
  | .mirmapTimeout => Sys2Proof.Machine.execMirmapTimeout s
  | .takeoverMsg n => Sys2Proof.Machine.execTakeoverMsg n s
  | .commandMsg n => Sys2Proof.Machine.execCommandMsg n s
  | .statusMsg n => Sys2Proof.Machine.execStatusMsg n s
  | .dlRequestTimeout id => Sys2Proof.Machine.execDlRequestTimeout id s
  | .rollcallSend => Sys2Proof.Machine.execRollcallSend s
  | .partnerSilence => Sys2Proof.Machine.execPartnerSilence s
  | .mirrorCommitBegin => Sys2Proof.Machine.execMirrorCommitBegin s
  | .stepComplete => Sys2Proof.Machine.execStepComplete s
  | .legTimerExpiry c => Sys2Proof.Machine.execLegTimerExpiry c s
  | .waitDeadlineExpiry c => Sys2Proof.Machine.execWaitDeadlineExpiry c s
  | .coreFailed c reason => Sys2Proof.Machine.execCoreFailed c reason s
  | .spareBeginLeg c => Sys2Proof.Machine.execSpareBeginLeg c s
  | .tileLost t reason => Sys2Proof.Machine.execTileLost t reason s
  | .powerLoopTick => Sys2Proof.Machine.execPowerLoopTick s
  | .clockChangeApply t => Sys2Proof.Machine.execClockChangeApply t s
  | .meterUpdate n uj => Sys2Proof.Machine.execMeterUpdate n uj s
  | .thermalModelStep t obs => Sys2Proof.Machine.execThermalModelStep t obs s
  | .sensorModelResidual t => Sys2Proof.Machine.execSensorModelResidual t s
  | .vinLow mv => Sys2Proof.Machine.execVinLow mv s
  | .hardwareTrip t sensor => Sys2Proof.Machine.execHardwareTrip t sensor s
  | .freezeNAssert ns => Sys2Proof.Machine.execFreezeNAssert ns s
  | .smbusSetAddress addr => Sys2Proof.Machine.execSmbusSetAddress addr s
  | .smbusReadPostcard => Sys2Proof.Machine.execSmbusReadPostcard s
  | .smbusReset data => Sys2Proof.Machine.execSmbusReset data s
  | .smbusClockTimeout => Sys2Proof.Machine.execSmbusClockTimeout s
  | .setEndpointId eid => Sys2Proof.Machine.execSetEndpointId eid s
  | .mctpControlRequest cmd => Sys2Proof.Machine.execMctpControlRequest cmd s
  | .pldmRequest req => Sys2Proof.Machine.execPldmRequest req s
  | .getVersion r => Sys2Proof.Machine.execGetVersion r s
  | .getCapabilities r => Sys2Proof.Machine.execGetCapabilities r s
  | .negotiateAlgorithms r => Sys2Proof.Machine.execNegotiateAlgorithms r s
  | .getDigests r => Sys2Proof.Machine.execGetDigests r s
  | .getCertificate r slot off len => Sys2Proof.Machine.execGetCertificate r slot off len s
  | .challenge r slot nonce => Sys2Proof.Machine.execChallenge r slot nonce s
  | .getMeasurements r sign index nonce => Sys2Proof.Machine.execGetMeasurements r sign index nonce s
  | .chunkSend r handle seq last chunk => Sys2Proof.Machine.execChunkSend r handle seq last chunk s
  | .chunkGet r handle seq => Sys2Proof.Machine.execChunkGet r handle seq s
  | .vendorGetSlhdsaCerts r => Sys2Proof.Machine.execVendorGetSlhdsaCerts r s
  | .vendorGetSlhdsaSignature r => Sys2Proof.Machine.execVendorGetSlhdsaSignature r s
  | .extest balls => Sys2Proof.Machine.execExtest balls s
  | .samplePreload balls => Sys2Proof.Machine.execSamplePreload balls s
  | .idcode => Sys2Proof.Machine.execIdcode s
  | .dbgacc da wr value => Sys2Proof.Machine.execDbgacc da wr value s
  | .postcard addr => Sys2Proof.Machine.execPostcard addr s
  | .jtagFreeze => Sys2Proof.Machine.execJtagFreeze s
  | .devreset => Sys2Proof.Machine.execDevreset s
  | .bypass code => Sys2Proof.Machine.execBypass code s
  | .tapReset => Sys2Proof.Machine.execTapReset s
  | .qspiExtAssert => Sys2Proof.Machine.execQspiExtAssert s
  | .qspiExtRelease => Sys2Proof.Machine.execQspiExtRelease s
  | .freezeNRelease => Sys2Proof.Machine.execFreezeNRelease s
  | .hostLinkRecoveryStart x => Sys2Proof.Machine.execHostLinkRecoveryStart x s
  | .uncorrectableLimitPeriodClose t v => Sys2Proof.Machine.execUncorrectableLimitPeriodClose t v s
  | .commitLandingTimeout => Sys2Proof.Machine.execCommitLandingTimeout s

end Sys2Proof.Machine
end

