-- ==== Sys2Proof/Safety.lean ====
section
/-!
DEFINITION. What counts as a sound state and as a command's answer, in the terms that statements use.
-/
namespace Sys2Proof.Machine

/-! ## Answers -/

/-- The command runs: it answers a next state, of which P holds. -/
def Answers (i : Instr) (s : State) (P : State → Prop) : Prop := ∃ t, exec i s = .next t ∧ P t

/-! ## Sound states -/

/-- The three memories have their canonical form. -/
def State.memOk (s : State) : Prop :=
  Memory.wf s.mem = true ∧ Memory.wf s.scratch = true ∧ Memory.wf s.hostMem = true

/-- At most 4,096 fault records are held (R319). -/
def State.logOk (s : State) : Prop := s.dev.faults.length ≤ 4096

/-- The fused values of t are those of s, but that the SVN count and the revoked key sets may have risen (R427, R467). -/
def Fuses.rises (f g : Fuses) : Prop :=
  g = { f with svn := g.svn, revoked := g.revoked } ∧ f.svn ≤ g.svn ∧ f.revoked &&& g.revoked = f.revoked

/-- A SELFTEST runs beside no plan (R313, R314). -/
def State.testOk (s : State) : Prop := ∀ l, s.dev.long = some l → pktOpc l.pkt = 0x28 → s.planBooked = false

/-- What every step keeps. -/
def State.Inv (s : State) : Prop := s.memOk ∧ s.logOk ∧ s.testOk

/-! ## Frames of a core's commands -/

/-- Every byte of stacked memory reads as before. -/
def SameMem (s t : State) : Prop := ∀ a, memGet t.mem a = memGet s.mem a

/-- Every byte of every core's scratch is stored as before. -/
def SameScratch (s t : State) : Prop := ∀ a, memGet t.scratch a = memGet s.scratch a

/-- Two records of a core that differ at most in answers held, the poison mark, lines being fetched and the phase. -/
def Core.Same (k k' : Core) : Prop :=
  k' = { k with
    inbox := k'.inbox, r5 := k'.r5, poisonPosted := k'.poisonPosted,
    seq := { k.seq with fetching := k'.seq.fetching, phase := k'.seq.phase } }

/-- Outside core c everything is as before, but for answers under way, records and counters of poison taken. -/
def Elsewhere (c : Nat) (s t : State) : Prop :=
  (∀ d, d ≠ c → Core.Same (s.core d) (t.core d)) ∧ SameMem s t ∧ SameScratch s t ∧ t.vaults = s.vaults ∧ t.units = s.units ∧
    t.fuses = s.fuses ∧ t.power = s.power ∧ t.dev.state = s.dev.state ∧ t.dev.step = s.dev.step ∧ t.pending = s.pending ∧
    ∀ k, t.tile k = { s.tile k with poisonCons := (t.tile k).poisonCons }

/-- Core c's sequencer becomes q; nothing else changes but what `Core.Same` and `Elsewhere` allow. -/
def SeqBecomes (c : Nat) (s t : State) (q : Seq) : Prop :=
  Core.Same { s.core c with seq := q } (t.core c) ∧ Elsewhere c s t

/-- No loop body ends at the word being decoded (R173). -/
def Seq.midBody (q : Seq) : Prop := ∀ l ∈ q.loops.head?, l.last ≠ q.pc

/-- Two records of a core that differ at most in its engines' queues, the hold buffer, signals not yet settled and what
decoding waits for: what a completing command may move (R72, R169, R172). -/
def Core.Moved (k k' : Core) : Prop :=
  k' = { k with
    mx := { k.mx with queue := k'.mx.queue }, vx := { k.vx with queue := k'.vx.queue }
    ch0 := { k.ch0 with queue := k'.ch0.queue }, ch1 := { k.ch1 with queue := k'.ch1.queue }
    ck := { k.ck with queue := k'.ck.queue }
    seq := { k.seq with hold := k'.seq.hold, signals := k'.seq.signals, wait := k'.seq.wait } }

/-- The signal that a completing command makes visible (R72). -/
def signalOf (w : EngCmd) : List (Nat × BitVec 16 × Bool) := if sigEn w then [(sigSem w, 1, false)] else []

/-- The command w at the head of engine e of core c leaves its queue and completes with its signal, the core being k but
for what `Core.Moved` allows; other cores and everything outside the cores are as before. -/
def Completes (c e : Nat) (w : EngCmd) (s t : State) (k : Core) : Prop :=
  Core.Moved k (t.core c) ∧ (t.core c).seq.signals = (s.core c).seq.signals ++ signalOf w ∧
    (∃ l, (t.core c).queue e = ((s.core c).queue e).tail ++ l) ∧
    (∀ d, d ≠ c → t.core d = s.core d) ∧ t = { s with cores := t.cores }

/-- Place, in a run of scratch bytes that begins at `off`, of the byte at j, modulo 8 MiB (R128). -/
def runPlace (off j : Nat) : Nat := (j % 2 ^ 23 + 2 ^ 23 - off % 2 ^ 23) % 2 ^ 23

/-! ## Frames of commands outside the cores -/

/-- Vault v of tile t becomes x, nothing else changes. -/
def VaultBecomes (t v : Nat) (s u : State) (x : Vault) : Prop :=
  u.vault t v = x ∧ (∀ j, j ≠ 64 * t + v → tget Vault.reset u.vaults j = tget Vault.reset s.vaults j) ∧
    u = { s with vaults := u.vaults }

/-- Bank unit k becomes x, nothing else changes. -/
def UnitBecomes (k : Nat) (s u : State) (x : BankUnit) : Prop :=
  u.unit k = x ∧ (∀ j, j ≠ k → u.unit j = s.unit j) ∧ u = { s with units := u.units }

/-- Crossing k becomes x, nothing else changes. -/
def XingBecomes (k : Nat) (s u : State) (x : Xing) : Prop :=
  u.xing k = x ∧ (∀ j, j ≠ k → u.xing j = s.xing j) ∧ u = { s with xings := u.xings }

/-- Tile t becomes x, nothing else changes. -/
def TileBecomes (t : Nat) (s u : State) (x : Tile) : Prop :=
  u.tile t = x ∧ (∀ j, j ≠ t → u.tile j = s.tile j) ∧ u = { s with tiles := u.tiles }

/-- Host port x becomes p, nothing else changes. -/
def PortBecomes (x : Nat) (s u : State) (p : Port) : Prop :=
  u.port x = p ∧ (∀ j, j ≠ x → u.port j = s.port j) ∧ u = { s with ports := u.ports }

/-- Device link n becomes l, nothing else changes. -/
def LinkBecomes (n : Nat) (s u : State) (l : Link) : Prop :=
  u.link n = l ∧ (∀ j, j ≠ n → u.link j = s.link j) ∧ u = { s with links := u.links }

/-- The 80 stored bytes of one line become `bs`; every other byte of stacked memory reads as before. -/
def LineBecomes (key : Nat) (s u : State) (bs : List Byte) : Prop :=
  memRead u.mem key 80 = bs ∧ ∀ a, a < key ∨ key + 80 ≤ a → memGet u.mem a = memGet s.mem a

/-! ## Fault records -/

/-- The log of t holds a record, not cleared, of this class and reason with these detail words, under the number that s gives
its next record (R319, R378, R379). -/
def Records (s t : State) (cls reason : Nat) (ds : List Nat) : Prop :=
  ∃ f ∈ t.dev.faults, f.cleared = false ∧ fld f.bits 63 56 = cls ∧ fld f.bits 55 48 = reason ∧
    fld f.bits 159 128 = s.dev.faultSeq.toNat ∧ ∀ i, i < 7 → fld f.bits (287 + 32 * i) (256 + 32 * i) = nth ds i 0 % 2 ^ 32

/-! ## The command protocol -/

/-- The 28 commands of the table *Commands* with their opcodes (R313). -/
def commandRows (src : Src) (p : BitVec 512) : List (Instr × Nat) :=
  [(.nop src p, 0x00), (.identify src p, 0x01), (.readState src p, 0x02), (.book src p, 0x08), (.unbook src p, 0x09),
    (.startCmd src p, 0x0A), (.halt src p, 0x0B), (.discard src p, 0x10), (.fill src p, 0x11),
    (.copyCmd src p, 0x12), (.encode src p, 0x13), (.bankEnter src p, 0x18), (.bankExit src p, 0x19),
    (.bankRun src p, 0x1A), (.mirrorSet src p, 0x20), (.mirrorStatus src p, 0x21), (.takeover src p, 0x22),
    (.restoreTo src p, 0x23), (.selftest src p, 0x28), (.calibrate src p, 0x29), (.powerLimit src p, 0x30),
    (.thermalCfg src p, 0x31), (.faultRead src p, 0x38), (.faultClear src p, 0x39), (.fwStage src p, 0x40),
    (.fwActivate src p, 0x41), (.freeze src p, 0x48), (.resetDevice src p, 0x4F)]

/-- A long command's end: the status is posted, none is in progress any more (R311, R312). -/
def LongEnds (s t : State) : Prop := t.dev.long = none ∧ t.dev.recno = s.dev.recno + 1

end Sys2Proof.Machine
end

