-- ==== Sys2Proof/Certificates/Slice0/Obligations.lean ====
section
/-!
DEFINITION. Statements for the provers, each a formal reading of what spec/ says of the machine.
-/
open Sys2Proof Sys2Proof.Machine

/-! ## Matrix engine -/

/-- R73, R74, R76, R79: MX_NOP and a reserved opcode take effect through their synchronisation fields alone, the latter
counting in BADOP up to 0xFFFF; MX_SETL writes its layout entry; MX_MMA at the head of its queue begins with the layout
entries as they stand, and one whose bank is under drain waits. -/
def Obligations.MatrixCommands : Prop :=
  (∀ (c : Nat) (s : State) (q : QCmd),
    let k := s.core c
    let l : Layout := { typ := BitVec.ofNat 5 (fld q.word 118 114), planes := BitVec.ofNat 3 (fld q.word 113 111),
                        rowp := BitVec.ofNat 16 (fld q.word 110 95), pstr := BitVec.ofNat 17 (fld q.word 63 47) }
    (s.headOp c 0 (· = 0) = some q → Answers (.mxNop c) s fun t => Completes c 0 q.word s t k) ∧
    (s.headOp c 0 (5 ≤ ·) = some q → Answers (.reservedMxOpcode c) s fun t => Completes c 0 q.word s t
      { k with mx := { k.mx with badop := BitVec.ofNat 16 (min 0xFFFF (k.mx.badop.toNat + 1)) } }) ∧
    (s.headOp c 0 (· = 2) = some q → Answers (.mxSetl c) s fun t => Completes c 0 q.word s t
      { k with mx := { k.mx with layouts := k.mx.layouts.set (fld q.word 121 119) l } })) ∧
  (∀ (c : Nat) (s : State) (q : QCmd),
    let k := s.core c
    s.headOp c 0 (· = 1) = some q →
    (k.mx.underDrain (mxBank q.word) = true → exec (.mxMma c) s = .next s) ∧
    (k.mx.underDrain (mxBank q.word) = false → Answers (.mxMma c) s fun t =>
      (∃ m : Mma, m.cmd = q ∧ m.layA = nth k.mx.layouts (fld q.word 115 113) Layout.reset ∧
        m.layB = nth k.mx.layouts (fld q.word 112 110) Layout.reset ∧ m.valid = k.valid ∧ m.poison = k.poison ∧ m.writes = [] ∧
        t.core c = { k with mx := { k.mx with queue := k.mx.queue.tail, mmas := k.mx.mmas ++ [m] } }) ∧
      (∀ d, d ≠ c → t.core d = s.core d) ∧ t = { s with cores := t.cores }))

/-- R73, R71, R80, R255: MMAs update their banks in queue order: the oldest one's bank takes its groups, its flags go to
MX_STICKY and the core's sticky register, and it completes, or with DRAIN = 1 its drain begins. Poison among its operands
changes none of that; it is counted in MP_POISONCONS of the core's tile.
R51, R56, R60, R71: what an MMA makes of its bank: element (i, j) within the rows and columns goes on from its old
value, or from +0 under ZERO, group by group in order of K; elements outside keep their value, or become +0 under ZERO;
the extent is the greater of old and new counts, or the new ones; the bank's flag set gathers the MMA's flags, from
nothing under ZERO. -/
def Obligations.MatrixUpdates : Prop :=
  (∀ (c : Nat) (s : State) (m : Mma) (ms : List Mma),
    let k := s.core c
    let w := m.cmd.word
    let n := mxBank w
    let a := operandRows m.layA (tst w 117) (mmaByte s c m) (mmaABase w) (mmaRows w) (mmaK w)
    let b := operandRows m.layB (tst w 116) (mmaByte s c m) (mmaBBase w) (mmaCols w) (mmaK w)
    let r := (k.mx.bankAt n).mma (tst w 119) (mmaGroups w) a.1 b.1 (a.2 ||| b.2)
    let p := (operandBytes m.layA (mmaABase w) (mmaRows w) (mmaK w) ++
      operandBytes m.layB (mmaBBase w) (mmaCols w) (mmaK w)).findSome? (mmaPoison s m)
    s.coreRuns c = true → k.mx.mmas = m :: ms →
    Answers (.mxMmaComplete c) s fun t =>
      (t.core c).mx.banks = k.mx.banks.set n r.1 ∧ (t.core c).mx.mmas = ms ∧ (t.core c).mx.sticky = k.mx.sticky ||| r.2 ∧
      (t.core c).sticky = k.sticky ||| r.2 ∧
      (mmaDrains w = true → (t.core c).mx.drains = k.mx.drains ++
        [{ cmd := m.cmd, bank := n, tag := BitVec.ofNat 16 (fld w 79 64), quad := 0, last := none }]) ∧
      (mmaDrains w = false → (t.core c).mx.drains = k.mx.drains ∧ (t.core c).seq.signals = k.seq.signals ++ signalOf w) ∧
      (∀ d, d ≠ c → Core.Same (s.core d) (t.core d)) ∧ SameMem s t ∧ SameScratch s t ∧ t.vaults = s.vaults ∧
      (p = none → t.tiles = s.tiles ∧ ∀ d, d ≠ c → t.core d = s.core d) ∧
      (p ≠ none → t.tile (tileOfCore c) = { s.tile (tileOfCore c) with
        poisonCons := satAdd (s.tile (tileOfCore c)).poisonCons 1 })) ∧
  (∀ (b : AccBank) (zero : Bool) (groups : Nat) (va vb : List (List Val)) (fl : Flags),
    va.length ≤ 64 → vb.length ≤ 64 →
    let r := b.mma zero groups va vb fl
    (∀ i j, i < 64 → j < 64 →
      let old := if zero then 0 else tget 0 b.acc (64 * i + j)
      tget 0 r.1.acc (64 * i + j) = if i < va.length ∧ j < vb.length
        then (accumulateAll groups old (nth va i []) (nth vb j [])).1 else old) ∧
    r.1.er = (if zero then va.length else max b.er va.length) ∧ r.1.ec = (if zero then vb.length else max b.ec vb.length) ∧
    r.1.flags = (if zero then 0 else b.flags) ||| r.2)

/-- R77, R73, R255: MX_LOADACC, while the bank is free, sets every element from the 256 bytes of its row as the engine reads
them, the extent to 64 × 64 and the flag set to none, and completes; poison in a row is counted in MP_POISONCONS of the
core's tile, and without any nothing else changes.
R78, R73: MX_DRAIN leaves its bank as it is. With DEST = 1 row i of the bank stands in scratch at BASE × 64 + i ×
ROWP × 64, a later row over an earlier one, and no other byte of any core's scratch changes; with DEST = 0 its drain to
the basket begins. A bank that is not free makes it wait.
R81, R82, R83, R73: a drain places its quadrants in order, each slot with its header and the 32 × 32 values of the
quadrant; the fourth ends the drain and completes its command; while 16 slots stand it waits. Once the third is placed
the last quadrant is read while the basket has room, as it then stands, and from that read on the bank is no longer
under drain. -/
def Obligations.MatrixDrains : Prop :=
  (∀ (c : Nat) (s : State) (q : QCmd),
    let k := s.core c
    let w := q.word
    let row := fun i => fld w 63 47 * 64 + i * fld w 119 104 * 64
    s.headOp c 0 (· = 3) = some q →
    (k.mx.bankFree (mxBank w) = false → exec (.mxLoadacc c) s = .next s) ∧
    (k.mx.bankFree (mxBank w) = true →
      Answers (.mxLoadacc c) s fun t => ∃ b : AccBank,
        (t.core c).mx.banks = k.mx.banks.set (mxBank w) b ∧ (t.core c).seq.signals = k.seq.signals ++ signalOf w ∧
        ((∀ i, i < 64 → s.scrPoison c (row i) 256 = none) →
          Completes c 0 w s t { k with mx := { k.mx with banks := k.mx.banks.set (mxBank w) b } }) ∧
        (¬(∀ i, i < 64 → s.scrPoison c (row i) 256 = none) →
          (t.tile (tileOfCore c)).poisonCons = satAdd (s.tile (tileOfCore c)).poisonCons 1) ∧
        b.er = 64 ∧ b.ec = 64 ∧ b.flags = 0 ∧
        ∀ i j, i < 64 → j < 64 →
          tget 0 b.acc (64 * i + j) = BitVec.ofNat 32 (ofBytes (((s.engBytes c (row i) 256).drop (4 * j)).take 4)))) ∧
  (∀ (c : Nat) (s : State) (q : QCmd),
    let k := s.core c
    let w := q.word
    let row := fun i => (fld w 63 47 * 64 + i * fld w 118 103 * 64) % 2 ^ 23
    let n := mxBank w
    s.headOp c 0 (· = 4) = some q → Memory.wf s.scratch = true →
    (k.mx.bankFree n = false → exec (.mxDrain c) s = .next s) ∧
    (k.mx.bankFree n = true → tst w 119 = true → Answers (.mxDrain c) s fun t =>
      (t.core c).mx.banks = k.mx.banks ∧ (t.core c).seq.signals = k.seq.signals ++ signalOf w ∧
      (∀ i j, i < 64 → j < 256 → (∀ i', i < i' → i' < 64 → 256 ≤ runPlace (row i') (row i + j)) →
        scrByte t.scratch (t.core c).valid c (row i + j) =
          byteAt (tget 0 (k.mx.bankAt n).acc (64 * i + j / 4)) (j % 4)) ∧
      (∀ j, (∀ i, i < 64 → 256 ≤ runPlace (row i) j) →
        scrByte t.scratch (t.core c).valid c j = scrByte s.scratch k.valid c j) ∧
      (∀ d j, d ≠ c → scrByte t.scratch (t.core d).valid d j = scrByte s.scratch (s.core d).valid d j) ∧ SameMem s t) ∧
    (k.mx.bankFree n = true → tst w 119 = false → Answers (.mxDrain c) s fun t =>
      t.core c = { k with mx := { k.mx with
        queue := k.mx.queue.tail
        drains := k.mx.drains ++ [{ cmd := q, bank := n, tag := BitVec.ofNat 16 (fld w 95 80), quad := 0, last := none }] } } ∧
      (∀ d, d ≠ c → t.core d = s.core d) ∧ t = { s with cores := t.cores })) ∧
  (∀ (c n : Nat) (s : State) (d : Drain),
    let k := s.core c
    let b := k.mx.bankAt n
    let isQuad := fun (slot : Slot) (q : Nat) =>
      fld slot.hdr 63 48 = d.tag.toNat ∧ fld slot.hdr 47 46 = n ∧ fld slot.hdr 45 44 = q ∧
      fld slot.hdr 43 38 = min 32 (b.er - 32 * (q / 2)) ∧ fld slot.hdr 37 32 = min 32 (b.ec - 32 * (q % 2)) ∧
      fld slot.hdr 15 8 = b.flags.toNat ∧ (tst slot.hdr 0 = true ↔ q = 3) ∧
      ∀ i j, i < 32 → j < 32 → tget 0 slot.vals (32 * i + j) = tget 0 b.acc (64 * (32 * (q / 2) + i) + 32 * (q % 2) + j)
    s.coreRuns c = true → k.mx.drains = [d] → d.bank = n → n < 4 → d.quad ≤ 3 →
    (16 ≤ k.mx.basket.length → exec (.drainSlotPlace c n) s = .next s) ∧
    (k.mx.basket.length < 16 → Answers (.drainSlotPlace c n) s fun t =>
      (∃ slot : Slot, (t.core c).mx.basket = k.mx.basket ++ [slot] ∧ (∀ l, d.last = some l → slot = l) ∧
        (d.last = none → isQuad slot d.quad)) ∧
      (t.core c).mx.banks = k.mx.banks ∧
      (d.quad < 3 → (∃ l, (t.core c).mx.drains = [{ d with quad := d.quad + 1, last := l }] ∧
        (d.quad < 2 → l = d.last) ∧
        (d.quad = 2 → d.last = none → if k.mx.basket.length < 15 then ∃ v, l = some v ∧ isQuad v 3 else l = none)) ∧
        (t.core c).seq.signals = k.seq.signals) ∧
      (d.quad = 2 → d.last = none → k.mx.mmas = [] →
        (t.core c).mx.underDrain n = decide (15 ≤ k.mx.basket.length)) ∧
      (d.quad = 3 → (t.core c).mx.drains = [] ∧ (t.core c).seq.signals = k.seq.signals ++ signalOf d.cmd.word) ∧
      (∀ e, e ≠ c → t.core e = s.core e) ∧ t = { s with cores := t.cores }))

/-! ## Vector engine -/

/-- R120, R121, R123, R111, R104, R116: VX_NOP takes effect through its synchronisation fields alone; VX_SETS writes IMM to
S[SB]; VX_TCFG writes stage entry STG; a reserved opcode, or a reserved sub-operation of VX_SMAX, counts in BADOP up to
0xFFFF. Behind a trail run none of them starts. -/
def Obligations.VectorPlainCommands : Prop :=
  ∀ (c : Nat) (s : State) (q : QCmd),
    let k := s.core c
    let w := q.word
    let g : Stage :=
      { en := tst w 118, fn := BitVec.ofNat 8 (fld w 117 110), bsrc := BitVec.ofNat 2 (fld w 109 108),
        tb := BitVec.ofNat 5 (fld w 107 103), sb := BitVec.ofNat 4 (fld w 102 99), sc := BitVec.ofNat 4 (fld w 98 95),
        rm := BitVec.ofNat 3 (fld w 94 92), sat := tst w 91 }
    (k.vx.run.isSome = true → exec (.vxNop c) s = .next s ∧ exec (.vxSets c) s = .next s ∧ exec (.vxTcfg c) s = .next s ∧
      exec (.reservedVxOpcode c) s = .next s) ∧
    (k.vx.run = none →
      (s.headOp c 1 (· = 0) = some q → Answers (.vxNop c) s fun t => Completes c 1 w s t k) ∧
      (s.headOp c 1 (· = 7) = some q → Answers (.vxSets c) s fun t => Completes c 1 w s t
        { k with vx := { k.vx with sregs := k.vx.sregs.set (fld w 83 80) (BitVec.ofNat 32 (fld w 63 32)) } }) ∧
      (s.headOp c 1 (· = 8) = some q → Answers (.vxTcfg c) s fun t => Completes c 1 w s t
        { k with vx := { k.vx with stages := k.vx.stages.set (fld w 121 119) g } }) ∧
      (s.headOp c 1 (fun o => decide (o = 3) || decide (10 ≤ o)) = some q → opcOf w ≠ 3 ∨ 3 < fld w 121 114 →
        Answers (.reservedVxOpcode c) s fun t => Completes c 1 w s t
          { k with vx := { k.vx with badop := BitVec.ofNat 16 (min 0xFFFF (k.vx.badop.toNat + 1)) } }))

/-- R90, R91, R93, R89, R125, R126, R375: a VX_OP whose function writes a tile register computes each unmasked element of
TD from the elements of TA, the B operand and TC at its place, or, for a CVTR to a block type, from its row of TA; masked
ones keep their value or become 0 under MZ; the flags are those of the unmasked elements; no other register, mask or
scalar changes; under SR each lane takes four draws.
R93, R91, R90, R89, R86: VX_OP compare and mask functions write M[TD mod 8] bit by bit, 0 where masked, and M0 never;
the float compares raise INVALID for an unmasked signalling NaN; under SR each lane takes four draws. A reserved function
changes no register and counts in BADOP.
R93: integer functions never wrap: IADD, ISUB, IMUL, IABS and INEG give the exact result clamped to the range of
INT32, with SATURATE exactly where it was clamped. -/
def Obligations.VectorOp : Prop :=
  (∀ (c : Nat) (s : State) (q : QCmd),
    let k := s.core c
    let x := k.vx
    let w := q.word
    let fn := fld w 121 114
    let rm := rmOf (fld w 89 87)
    let code := normTy (fld w 98 94)
    let td := fld w 113 109
    let draws := decide (rm = .sr ∧ ¬(0x28 ≤ fn ∧ fn ≤ 0x2B))
    let u := fun (e : Nat) => if draws then drawAt (nth x.lanes (e % 256) 1) (e / 256) else 0
    let b := fun (e : Nat) =>
      if fld w 85 84 = 0 then x.at (fld w 103 99) e else if fld w 85 84 = 1 then nth x.sregs (fld w 83 80) 0
      else if fld w 85 84 = 2 then x.at (fld w 103 99) (e / 32 * 32) else x.at (fld w 103 99) (e % 32)
    let live := fun (e : Nat) => (x.mask (fld w 93 91)).getLsbD e
    let el := fun (free : Nat → BitVec 32) (e : Nat) =>
      elemFn fn rm (tst w 86) code (u e) (free e) (x.at (fld w 108 104) e) (b e) (x.at (fld w 98 94) e)
    let row := fun (r : Nat) => cvtrRow code rm ((List.range 32).map fun j => u (32 * r + j))
      ((List.range 32).map fun j => (x.at (fld w 108 104) (32 * r + j), live (32 * r + j)))
    let m := meterCycles s c fun d => { d with vxCycles := d.vxCycles + 4 }
    s.headOp c 1 (· = 1) = some q → x.run = none → fnKind fn = .reg →
    Answers (.vxOp c) s fun t => ∃ (y : Vx) (fl : Flags) (free : Nat → BitVec 32),
      Completes c 1 w { m with free := s.free + 1 } t { m.core c with
        vx := { y with sticky := x.sticky ||| fl, busy := BitVec.ofNat 64 (x.busy.toNat + 4) }
        sticky := k.sticky ||| fl } ∧
      y = { x with tregs := y.tregs, lanes := y.lanes } ∧
      (y.lanes = if draws then x.lanes.map (fun l => afterDraws l 4) else x.lanes) ∧
      (∀ r e, e < 1024 → r ≠ td → y.at r e = x.at r e) ∧
      (∀ e, e < 1024 → live e = false → y.at td e = if tst w 90 then 0 else x.at td e) ∧
      (¬(fn = 0x3A ∧ isBlk code = true) → (∀ e, e < 1024 → live e = true → y.at td e = (el free e).1) ∧
        fl = (List.range 1024).foldl (fun f e => if live e then f ||| (el free e).2 else f) 0) ∧
      (fn = 0x3A → isBlk code = true →
        (∀ r j, r < 32 → j < 32 → live (32 * r + j) = true → y.at td (32 * r + j) = nth (row r).1 j 0) ∧
        fl = (List.range 32).foldl (fun f r => f ||| (row r).2) 0)) ∧
  (∀ (c : Nat) (s : State) (q : QCmd),
    let k := s.core c
    let x := k.vx
    let w := q.word
    let fn := fld w 121 114
    let d := fld w 113 109 % 8
    let a := x.at (fld w 108 104)
    let b := fun (e : Nat) =>
      if fld w 85 84 = 0 then x.at (fld w 103 99) e else if fld w 85 84 = 1 then nth x.sregs (fld w 83 80) 0
      else if fld w 85 84 = 2 then x.at (fld w 103 99) (e / 32 * 32) else x.at (fld w 103 99) (e % 32)
    let ma := fun (e : Nat) => (x.mask (fld w 108 104 % 8)).getLsbD e
    let mb := fun (e : Nat) => (x.mask (fld w 103 99 % 8)).getLsbD e
    let bit := fun (e : Nat) =>
      if fn = 0x10 then decide (a e = b e) else if fn = 0x11 then decide ((a e).toInt < (b e).toInt)
      else if fn = 0x30 then eqVal (f32 (a e)) (f32 (b e))
      else if fn = 0x31 then ltVal (f32 (a e)) (f32 (b e)) && !eqVal (f32 (a e)) (f32 (b e))
      else if fn = 0x32 then ltVal (f32 (a e)) (f32 (b e)) || eqVal (f32 (a e)) (f32 (b e))
      else if fn = 0x33 then (f32 (a e)).isNan || (f32 (b e)).isNan
      else if fn = 0x40 then ma e && mb e else if fn = 0x41 then ma e || mb e
      else if fn = 0x42 then ma e && !mb e else !ma e
    let live := fun (e : Nat) => (x.mask (fld w 93 91)).getLsbD e
    let fl : Flags := if (decide (0x30 ≤ fn ∧ fn ≤ 0x33) && (List.range 1024).any fun e =>
      live e && ((f32 (a e)).isSig || (f32 (b e)).isSig)) then fInvalid else 0
    let lanes := if rmOf (fld w 89 87) = .sr then x.lanes.map (fun l => afterDraws l 4) else x.lanes
    let m := meterCycles s c fun d => { d with vxCycles := d.vxCycles + 4 }
    s.headOp c 1 (· = 1) = some q → x.run = none →
    (fn ∈ [0x10, 0x11, 0x30, 0x31, 0x32, 0x33, 0x40, 0x41, 0x42, 0x43] → Answers (.vxOp c) s fun t => ∃ v : BitVec 1024,
      Completes c 1 w { m with free := s.free + 1 } t { m.core c with
        vx := { x with
          masks := if d = 0 then x.masks else x.masks.set d v, lanes := lanes, sticky := x.sticky ||| fl
          busy := BitVec.ofNat 64 (x.busy.toNat + 4) }
        sticky := k.sticky ||| fl } ∧
      ∀ e, e < 1024 → v.getLsbD e = (live e && bit e)) ∧
    (fnKind fn = .bad → Answers (.vxOp c) s fun t => Completes c 1 w s t
      { k with vx := { x with badop := BitVec.ofNat 16 (min 0xFFFF (x.badop.toNat + 1)) } })) ∧
  (∀ (rm : Rm) (sat : Bool) (tc u : Nat) (free a b d : BitVec 32),
    let clamp := fun (v : Int) => max (-(2 : Int) ^ 31) (min ((2 : Int) ^ 31 - 1) v)
    let right := fun (r : BitVec 32 × Flags) (v : Int) => r.1.toInt = clamp v ∧ r.2 = if clamp v = v then 0 else fSaturate
    right (elemFn 1 rm sat tc u free a b d) (a.toInt + b.toInt) ∧ right (elemFn 2 rm sat tc u free a b d) (a.toInt - b.toInt) ∧
    right (elemFn 3 rm sat tc u free a b d) (a.toInt * b.toInt) ∧ right (elemFn 6 rm sat tc u free a b d) a.toInt.natAbs ∧
    right (elemFn 7 rm sat tc u free a b d) (-a.toInt))

/-- R95, R96, R98, R99, R126: VX_RED, along rows, along columns or over the whole register, writes for each group of
elements of TA the reduction of its unmasked ones at CI, and for ARGMAX and ARGMIN the index at CI + 1; with ACC = 1 the
reduction combined with what stands there, and nothing for a group masked whole; no other element of any register
changes. A reserved kind counts in BADOP.
R101 to R104: VX_SMAX RESET puts every row of RS at its reset value; ACCUM takes each row of TA, −∞ where masked,
into its row of RS; NORM writes every element of TD from TA and RS; READ writes M at CI and S at CI + 1 of each row. No
other row state and no other tile register element changes.
R92, R81, R83, R119: VX_TAKE waits for a slot, then copies the oldest into TD and, with MSK nonzero, its extent into
M[MSK]; the slot's release takes it out of the basket, a drain that waits for the room reads its last quadrant, and the
command completes.
R106, R107, R108, R89, R255: VX_LD reads each unmasked element from its row of the core's scratch by its type, of FP32
and INT32 the 32 bits at its place without a flag; masked elements and other registers stay, and poison in a row read is
counted. VX_ST completes, draws under SR, and changes no byte outside the places of its rows, nor of another core; a
plain type of whole bytes puts the code of each unmasked element at its place, where the rows do not meet. -/
def Obligations.VectorRowsAndMoves : Prop :=
  (∀ (c : Nat) (s : State) (q : QCmd),
    let k := s.core c
    let x := k.vx
    let w := q.word
    let fn := fld w 121 114
    let axis := fld w 79 78
    let acc := tst w 77
    let td := fld w 113 109
    let ci := fld w 76 72
    let arg : Prop := fn = 4 ∨ fn = 5
    let groups := if axis ≤ 1 then 32 else 1
    let size := if axis ≤ 1 then 32 else 1024
    let place := fun (g j : Nat) => if axis = 0 then 32 * g + j else if axis = 1 then 32 * j + g else j
    let live := fun (e : Nat) => (x.mask (fld w 93 91)).getLsbD e
    let red := fun (g : Nat) => reduce fn ((List.range size).map fun j => (x.at (fld w 108 104) (place g j), live (place g j)))
    let some' := fun (g : Nat) => (List.range size).any fun j => live (place g j)
    let old := fun (g : Nat) => x.at td (place g ci)
    let wins := fun (g : Nat) => some' g && argBetter fn (old g) (red g).1
    let index := fun (g : Nat) => match (red g).2.1 with
      | some i => nth x.sregs (fld w 83 80) 0 + BitVec.ofNat 32 i
      | none => 0xFFFFFFFF#32
    let m := meterCycles s c fun d => { d with vxCycles := d.vxCycles + 4 }
    s.headOp c 1 (· = 2) = some q → x.run = none →
    (redKind fn = true → Answers (.vxRed c) s fun t => ∃ (y : Tab (BitVec 32)) (fl : Flags),
      Completes c 1 w m t { m.core c with
        vx := { x with tregs := y, sticky := x.sticky ||| fl, busy := BitVec.ofNat 64 (x.busy.toNat + 4) }
        sticky := k.sticky ||| fl } ∧
      (∀ p e, e < 1024 → p ≠ td → tget 0 y (1024 * p + e) = x.at p e) ∧
      (∀ g, g < groups →
        (acc = false → tget 0 y (1024 * td + place g ci) = (red g).1 ∧
          (arg → tget 0 y (1024 * td + place g ((ci + 1) % 32)) = index g)) ∧
        (acc = true → arg → tget 0 y (1024 * td + place g ci) = (if wins g then (red g).1 else old g) ∧
          tget 0 y (1024 * td + place g ((ci + 1) % 32)) =
            if wins g then index g else x.at td (place g ((ci + 1) % 32))) ∧
        (acc = true → ¬arg → tget 0 y (1024 * td + place g ci) =
          if some' g then (redCombine fn (old g) (red g).1).1 else old g)) ∧
      ∀ e, e < 1024 → (∀ g, g < groups → e ≠ place g ci ∧ (arg → e ≠ place g ((ci + 1) % 32))) →
        tget 0 y (1024 * td + e) = x.at td e) ∧
    (redKind fn = false → Answers (.vxRed c) s fun t => Completes c 1 w s t
      { k with vx := { x with badop := BitVec.ofNat 16 (min 0xFFFF (x.badop.toNat + 1)) } })) ∧
  (∀ (c : Nat) (s : State) (q : QCmd),
    let k := s.core c
    let x := k.vx
    let w := q.word
    let set := fld w 71 70
    let td := fld w 113 109
    let ci := fld w 76 72
    let row := fun (r : Nat) => (List.range 32).map fun j =>
      if (x.mask (fld w 93 91)).getLsbD (32 * r + j) then x.at (fld w 108 104) (32 * r + j) else 0xFF800000#32
    let kept := fun (y : Vx) => y = { x with tregs := y.tregs, rows := y.rows, sticky := y.sticky, busy := y.busy } ∧
      (∀ n r, r < 32 → n ≠ set → y.row n r = x.row n r) ∧ ∀ p e, e < 1024 → p ≠ td → y.at p e = x.at p e
    let does := fun (i : Instr) (n cyc : Nat) (P : Vx → Prop) => Answers i s fun t => ∃ (y : Vx) (fl : Flags),
      let m := meterCycles s c fun d => { d with vxCycles := d.vxCycles + cyc }
      Completes c 1 w { m with free := n } t { m.core c with vx := y, sticky := k.sticky ||| fl } ∧
      y.sticky = x.sticky ||| fl ∧ y.busy = BitVec.ofNat 64 (x.busy.toNat + cyc) ∧ kept y ∧ P y
    s.headOp c 1 (· = 3) = some q → x.run = none →
    (fld w 121 114 = 0 → does (.vxSmaxReset c) s.free 1 fun y => y.tregs = x.tregs ∧ ∀ r, r < 32 → y.row set r = RowState.reset) ∧
    (fld w 121 114 = 1 → does (.vxSmaxAccum c) (s.free + 1) 4 fun y => y.tregs = x.tregs ∧
      ∀ r, r < 32 → ∃ free : Nat → BitVec 32, y.row set r = ((x.row set r).accum (row r) free).1) ∧
    (fld w 121 114 = 2 → does (.vxSmaxNorm c) (s.free + 1) 4 fun y => y.rows = x.rows ∧
      ∀ r, r < 32 → ∃ free : Nat → BitVec 32, ∀ j, j < 32 →
        y.at td (32 * r + j) = nth ((x.row set r).norm (row r) free).1 j 0) ∧
    (fld w 121 114 = 3 → does (.vxSmaxRead c) s.free 4 fun y => y.rows = x.rows ∧ ∀ r j, r < 32 → j < 32 →
      y.at td (32 * r + j) = if j = (ci + 1) % 32 then (x.row set r).s else if j = ci then (x.row set r).m
        else x.at td (32 * r + j))) ∧
  (∀ (c : Nat) (s : State) (q : QCmd),
    let k := s.core c
    let x := k.vx
    let w := q.word
    let m := fld w 93 91
    let u := meterCycles s c fun d => { d with vxCycles := d.vxCycles + 4 }
    (s.headOp c 1 (· = 4) = some q → x.run = none → x.taking = none →
      (k.mx.basket = [] → exec (.vxTake c) s = .next s) ∧
      ∀ (b : Slot) (rest : List Slot), k.mx.basket = b :: rest → Answers (.vxTake c) s fun t =>
        (t.core c).mx = k.mx ∧ (t.core c).seq = k.seq ∧ (t.core c).vx.taking = some q ∧ (t.core c).vx.queue = x.queue.tail ∧
        (∀ p e, e < 1024 → (t.core c).vx.at p e = if p = fld w 113 109 then tget 0 b.vals e else x.at p e) ∧
        (∃ v : BitVec 1024, (t.core c).vx.masks = (if m = 0 then x.masks else x.masks.set m v) ∧
          ∀ e, e < 1024 → v.getLsbD e = (decide (e / 32 < fld b.hdr 43 38) && decide (e % 32 < fld b.hdr 37 32))) ∧
        (∀ d, d ≠ c → t.core d = s.core d) ∧ t = { u with cores := t.cores }) ∧
    (x.taking = some q → s.coreRuns c = true → Answers (.basketSlotRelease c) s fun t =>
      Core.Moved { k with
        vx := { x with taking := none }, mx := Mx.readLast { k.mx with basket := k.mx.basket.tail } } (t.core c) ∧
      (t.core c).mx.basket = k.mx.basket.tail ∧
      (t.core c).seq.signals = k.seq.signals ++ signalOf w ∧ (∀ d, d ≠ c → t.core d = s.core d) ∧ t = { s with cores := t.cores })) ∧
  (∀ (c : Nat) (s : State) (q : QCmd),
    let k := s.core c
    let x := k.vx
    let w := q.word
    let tr := fld w 121 117
    let code := normTy (fld w 116 112)
    let pstr := fld w 46 30 * 64
    let row := fun (r : Nat) => (fld w 63 47 * 64 + r * fld w 100 85 * 64) % 2 ^ 23
    let live := fun (e : Nat) => (x.mask (fld w 103 101)).getLsbD e
    let bad := ((List.range 32).filter fun r => (List.range 32).any fun j => live (32 * r + j)).findSome? fun r =>
      s.loadPoison c code (fld w 111 109) pstr (row r)
    let m := meterCycles s c fun d => { d with vxCycles := d.vxCycles + 4 }
    let rm := rmOf (fld w 107 105)
    let u := fun (e : Nat) => if rm = .sr then drawAt (nth x.lanes (e % 256) 1) (e / 256) else 0
    let parts := fun (r : Nat) => if isPsb code then (row r, 1) :: (List.range 8).map fun q => (row r + (q + 1) * pstr, 4)
      else if isMx code then [(row r, 4 * tyWidth code), (row r + pstr, 1)] else [(row r, 4 * tyWidth code)]
    x.run = none →
    (s.headOp c 1 (· = 5) = some q → Answers (.vxLd c) s fun t => ∃ (y : Tab (BitVec 32)) (fl : Flags),
      (t.core c).vx.tregs = y ∧ (t.core c).sticky = k.sticky ||| fl ∧ (t.core c).seq.signals = k.seq.signals ++ signalOf w ∧
      (bad = none → Completes c 1 w { m with free := s.free + b2n (isMx code) } t { m.core c with
        vx := { x with tregs := y, sticky := x.sticky ||| fl, busy := BitVec.ofNat 64 (x.busy.toNat + 4) }
        sticky := k.sticky ||| fl }) ∧
      (bad ≠ none → (t.tile (tileOfCore c)).poisonCons = satAdd (s.tile (tileOfCore c)).poisonCons 1) ∧
      (∀ p r j, r < 32 → j < 32 → tget 0 y (1024 * p + 32 * r + j) =
        if p = tr ∧ live (32 * r + j) = true
        then (nth (s.loadRow c code (fld w 111 109) (tst w 108) pstr (row r) (32 * r)) j (0, 0)).1 else x.at p (32 * r + j)) ∧
      (code = 0 ∨ code = 8 → fl = 0 ∧ ∀ r j, r < 32 → j < 32 → live (32 * r + j) = true →
        tget 0 y (1024 * tr + 32 * r + j) = BitVec.ofNat 32 (ofBytes (s.engBytes c (row r + 4 * j) 4)))) ∧
    (s.headOp c 1 (· = 6) = some q → Memory.wf s.scratch = true → Answers (.vxSt c) s fun t =>
      (t.core c).vx.tregs = x.tregs ∧ (t.core c).seq.signals = k.seq.signals ++ signalOf w ∧
      ((t.core c).vx.lanes = if rm = .sr then x.lanes.map (fun l => afterDraws l 4) else x.lanes) ∧
      (∀ j, (∀ r p, r < 32 → p ∈ parts r → p.2 ≤ runPlace p.1 j) →
        scrByte t.scratch (t.core c).valid c j = scrByte s.scratch k.valid c j) ∧
      (∀ d j, d ≠ c → scrByte t.scratch (t.core d).valid d j = scrByte s.scratch (s.core d).valid d j) ∧ SameMem s t ∧
      (isBlk code = false → (t.core c).sticky = k.sticky ||| (List.range 1024).foldl (fun f e =>
        if live e then f ||| (storeCode code rm (tst w 104) (u e) (x.at tr e)).2 else f) 0) ∧
      (isBlk code = false → tyWidth code % 8 = 0 →
        (∀ r r' j, r < 32 → r' < 32 → r ≠ r' → j < 4 * tyWidth code → 4 * tyWidth code ≤ runPlace (row r') (row r + j)) →
        ∀ r j b, r < 32 → j < 32 → b < tyWidth code / 8 →
          scrByte t.scratch (t.core c).valid c (row r + tyWidth code / 8 * j + b) =
            if live (32 * r + j)
            then BitVec.ofNat 8 ((storeCode code rm (tst w 104) (u (32 * r + j)) (x.at tr (32 * r + j))).1 / 2 ^ (8 * b))
            else scrByte s.scratch k.valid c (row r + tyWidth code / 8 * j + b))))

/-- R111 to R114, R116, R118, R119, R81: VX_TRUN starts its run with the B operands and scalars as they stand, counting one
whose chain names a function a trail does not allow. A run over one tile register without a soft maximum writes to T[TDR]
what its chain makes of the source's elements and the fills of masked ones, its lanes' draws as log entry 155 orders
them, an empty chain the elements themselves, and completes; every run whose slots are taken completes. A slot released to a run is its next tile. -/
def Obligations.TrailRun : Prop :=
  ∀ (c : Nat) (s : State) (q : QCmd),
    let k := s.core c
    let x := k.vx
    let w := q.word
    let run : Run := { cmd := q, done := 0, tregs0 := x.tregs, sregs0 := x.sregs }
    let fill := fun (e : Nat) => if (x.mask (fld w 113 111)).getLsbD e then x.at (fld w 101 97) e
      else fillValue (fld w 109 108) (x.at (fld w 101 97) e)
    let draws := (x.chain.filter fun g => g.draws).length
    (s.headOp c 1 (· = 9) = some q → x.run = none → x.taking = none → Answers (.vxTrun c) s fun t =>
      (∃ r : Run, r.cmd = q ∧ r.done = 0 ∧ r.tregs0 = x.tregs ∧ r.sregs0 = x.sregs ∧ t.core c = { k with vx := { x with
        queue := x.queue.tail, run := some r
        trailop := BitVec.ofNat 16 (min 0xFFFF (x.trailop.toNat +
          if (x.stages.takeWhile fun g => g.en).any (fun g => decide (fnKind g.fn.toNat ≠ .reg)) then 1 else 0)) } }) ∧
      (∀ d, d ≠ c → t.core d = s.core d) ∧ t = { s with cores := t.cores }) ∧
    (∀ r, s.coreRuns c = true → x.run = some r → ¬(fld r.cmd.word 121 120 = 0 ∧ r.done ≤ fld r.cmd.word 107 102) →
      Answers (.trailRunComplete c) s fun t => (t.core c).vx.run = none ∧
        (t.core c).seq.signals = k.seq.signals ++ signalOf r.cmd.word ∧ SameMem s t) ∧
    (s.coreRuns c = true → x.run = some run → fld w 121 120 = 1 → fld w 119 118 = 0 →
      (fld w 117 116 = 0 ∨ fld w 117 116 = 3) → fld w 107 102 = 0 →
      Answers (.trailRunComplete c) s fun t =>
        (t.core c).vx.run = none ∧ ((t.core c).vx.lanes = x.lanes.map fun l => afterDraws l (4 * draws)) ∧
        (∀ p e, e < 1024 → (t.core c).vx.at p e = if p = fld w 96 92 then
            nth (runChain run x s.free (fun d e => x.drawOf draws d e) ((List.range 1024).map fill)).1 e 0 else x.at p e) ∧
        (x.chain = [] → (t.core c).sticky = k.sticky ∧ (t.core c).vx.lanes = x.lanes ∧
          ∀ e, e < 1024 → (t.core c).vx.at (fld w 96 92) e = fill e) ∧
        (∀ d, d ≠ c → t.core d = s.core d) ∧ SameMem s t ∧ SameScratch s t) ∧
    (∀ (r : Run) (b : Slot) (rest : List Slot), s.coreRuns c = true → x.taking = none → x.run = some r →
      fld r.cmd.word 121 120 = 0 → r.done ≤ fld r.cmd.word 107 102 → k.mx.basket = b :: rest →
      Answers (.basketSlotRelease c) s fun t => (t.core c).vx.run = some { r with done := r.done + 1 } ∧
        (t.core c).mx.basket = rest ∧ (t.core c).seq = k.seq ∧ (∀ d, d ≠ c → t.core d = s.core d) ∧ SameMem s t ∧
        (fld r.cmd.word 119 118 = 0 → x.chain = [] → fld r.cmd.word 117 116 = 0 → fld r.cmd.word 109 108 = 0 →
          ∀ e, e < 1024 → (t.core c).vx.at ((fld r.cmd.word 96 92 + r.done) % 32) e = tget 0 b.vals e))

/-! ## Stream channels and the check-value unit -/

/-- R157, R154, R135, R470, R72: ST_NOP takes effect through its synchronisation fields alone, and a reserved opcode the
same, counted in BADOP. A copy, gather or scatter refused at its start moves no data and completes: one with a stride that
is no multiple of 64 bytes is counted in ALIGN, and the first sets ST_ALIGNINFO; one with a poisoned descriptor is counted
as poison taken and changes neither.
R149, R194, R203, R204: a flag whose direction met an error acknowledgement in this leg is not sent and completes;
one behind a copy that still owes writes in its direction waits; one into the core's own scratch writes the four bytes
of VALUE at FDA; any other is sent. An adding one to scratch or a host window is discarded and counted, elsewhere it is sent
as an accumulating write. -/
def Obligations.StreamPlainAndFlags : Prop :=
  (∀ (c ch : Nat) (s : State) (q : QCmd) (side dim unit : Nat),
    let k := s.core c
    let w := q.word
    ch ≤ 1 →
    (s.headOp c (2 + ch) (· = 0) = some q → Answers (.stNop c ch) s fun t => Completes c (2 + ch) w s t k) ∧
    (s.headOp c (2 + ch) (5 ≤ ·) = some q → Answers (.reservedStOpcode c ch) s fun t => Completes c (2 + ch) w s t
      { k with stBadop := BitVec.ofNat 16 (min 0xFFFF (k.stBadop.toNat + 1)) }) ∧
    (∀ (i : Instr) (op : Nat), (op, i) ∈ [(1, Instr.stCopy c ch), (2, Instr.stGather c ch), (3, Instr.stScatter c ch)] →
      s.headOp c (2 + ch) (· = op) = some q → (k.chan ch).copies.length < 4 → (∀ x ∈ (k.chan ch).copies, x.cmd.id ≠ q.id) →
      s.copyCheck c w = some (.align side dim unit) →
      Answers i s fun t => Completes c (2 + ch) w s t
        { k with
          stAlign := BitVec.ofNat 16 (min 0xFFFF (k.stAlign.toNat + 1))
          alignInfo := if tst k.alignInfo 63 then k.alignInfo
            else BitVec.ofNat 64 (2 ^ 63 + ch * 2 ^ 62 + side * 2 ^ 61 + dim * 2 ^ 58 + unit) }) ∧
    ∀ (i : Instr) (op l : Nat), (op, i) ∈ [(1, Instr.stCopy c ch), (2, Instr.stGather c ch), (3, Instr.stScatter c ch)] →
      s.headOp c (2 + ch) (· = op) = some q → (k.chan ch).copies.length < 4 → (∀ x ∈ (k.chan ch).copies, x.cmd.id ≠ q.id) →
      s.copyCheck c w = some (.poison l) →
      Answers i s fun t =>
        (t.core c).seq.signals = k.seq.signals ++ signalOf w ∧ (t.core c).stAlign = k.stAlign ∧
        (t.core c).alignInfo = k.alignInfo ∧ ((t.core c).chan ch).copies = (k.chan ch).copies ∧
        (t.tile (tileOfCore c)).poisonCons = BitVec.ofNat 32 (min (2 ^ 32 - 1) ((s.tile (tileOfCore c)).poisonCons.toNat + 1)) ∧
        SameMem s t ∧ SameScratch s t) ∧
  (∀ (c ch : Nat) (s : State) (q : QCmd),
    let k := s.core c
    let w := q.word
    let h := k.chan ch
    let da := fld w 111 64 / 4 * 4
    ch ≤ 1 → s.headOp c (2 + ch) (· = 4) = some q → h.flags = [] →
    (h.copies = [] → fld w 120 118 ≠ 4 → h.supp.contains (s.dirOf c da) = true → Answers (.stFlag c ch) s fun t => Completes c (2 + ch) w s t k) ∧
    (∀ x : Copy, h.copies = [x] → x.owes (s.dirOf c da) = true → Answers (.stFlag c ch) s fun t =>
      t.core c = k.setChan ch { h with
        queue := h.queue.tail, flags := [{ cmd := q, sent := false, dir := s.dirOf c da, behind := [x.cmd.id], bad := h.supp.contains (s.dirOf c da) }] } ∧
      (∀ d, d ≠ c → t.core d = s.core d) ∧ t = { s with cores := t.cores }) ∧
    (h.copies = [] → fld w 120 118 ≠ 4 → h.supp.contains 0 = false → s.isScratch da = true → Memory.wf s.scratch = true →
      Answers (.stFlag c ch) s fun t =>
        (t.core c).seq.signals = k.seq.signals ++ signalOf w ∧ ((t.core c).chan ch).flags = [] ∧
        (∀ j, j < 4 → scrByte t.scratch (t.core c).valid c (da % 2 ^ 23 + j) = BitVec.ofNat 8 (fld w 47 16 / 256 ^ j)) ∧
        (∀ j, 4 ≤ runPlace da j → scrByte t.scratch (t.core c).valid c j = scrByte s.scratch k.valid c j) ∧
        (∀ d j, d ≠ c → scrByte t.scratch (t.core d).valid d j = scrByte s.scratch (s.core d).valid d j) ∧ SameMem s t) ∧
    (h.copies = [] → h.supp.contains (s.dirOf c da) = false → s.isScratch da = false →
      (fld w 120 118 = 4 → ∀ x a, s.kind da ≠ .host x a) → Answers (.stFlag c ch) s fun t =>
      ((t.core c).chan ch).flags = [{ cmd := q, sent := true, dir := s.dirOf c da, behind := [], bad := false }] ∧
      (t.core c).didAddFlag = (k.didAddFlag || decide (fld w 120 118 = 4)) ∧
      (t.core c).seq.signals = k.seq.signals ∧ Elsewhere c s t) ∧
    (h.copies = [] → fld w 120 118 = 4 → (s.isScratch da = true ∨ ∃ x a, s.kind da = .host x a) →
      Answers (.stFlag c ch) s fun t => Completes c (2 + ch) w s t
        { k with stAopbad := BitVec.ofNat 16 (min 0xFFFF (k.stAopbad.toNat + 1)) }))

/-- R155, R156, R158, R255: a copy, gather or scatter that is not refused leaves its queue and starts: its descriptors and
its list stand as scratch holds them now, and it asks for every line it must read outside scratch; with none to ask for
it makes its writes at once. A channel with four copies starts none.
R158, R152, R150, R151, R141, R164: read data is kept with its copy until the last line is there, and with a held load
whatever has come; then the copy's writes go out. Those of a plain copy into scratch stand there, no other byte of it
changes, its conversions' flags are raised and it completes. A preload's last line places PLEN lines from PDST on in
scratch, each the line read at its place.
R151, R194, R204: the last acknowledgement completes a copy whose writes have gone out, and that of a flag the flag's
command; an error acknowledgement is remembered for its direction, for every later flag and for a flag that waits behind that copy. -/
def Obligations.StreamCopies : Prop :=
  (∀ (c ch op : Nat) (i : Instr) (s : State) (q : QCmd),
    let k := s.core c
    let w := q.word
    let src := lineOf (s.scrBytes c (fld w 63 47 * 64) 64)
    let dst := lineOf (s.scrBytes c (fld w 46 30 * 64) 64)
    let like := fun (x : Copy) => x.cmd = q ∧ x.src = src ∧ x.dst = dst ∧ x.list = (s.readList c w).1 ∧ x.preload = none
    ch ≤ 1 → (op, i) ∈ [(1, Instr.stCopy c ch), (2, Instr.stGather c ch), (3, Instr.stScatter c ch)] →
    s.headOp c (2 + ch) (· = op) = some q → (∀ x ∈ (k.chan ch).copies, x.cmd.id ≠ q.id) →
    (4 ≤ (k.chan ch).copies.length → exec i s = .next s) ∧
    ((k.chan ch).copies.length < 4 → s.copyCheck c w = none → (∀ x : Copy, like x → s.copyLines x ≠ []) →
      Answers i s fun t => ∃ x : Copy, like x ∧ x.lines = s.copyLines x ∧ x.todo = [] ∧ x.got = [] ∧
        x.wrote = false ∧ x.held = false ∧
        Core.Same { (k.setChan ch { k.chan ch with
            queue := (k.chan ch).queue.tail, copies := (k.chan ch).copies ++ [x] }) with
          dem := (t.core c).dem
          seq := { k.seq with nextCopy := k.seq.nextCopy + 1, filter := (t.core c).seq.filter } } (t.core c) ∧
        Elsewhere c s t) ∧
    ((k.chan ch).copies.length < 4 → s.copyCheck c w = none → (∀ x : Copy, like x → s.copyLines x = []) →
      Answers i s fun t => (∀ x ∈ ((t.core c).chan ch).copies, x.cmd.id = q.id → x.wrote = true) ∧ SameMem s t)) ∧
  (∀ (c ch n : Nat) (s : State) (a : Rsp) (rest : List Rsp) (x : Copy),
    let k := s.core c
    let got := x.got ++ [(a.da, a.data, a.bad)]
    let j := s.copyJob x
    let es := j.elems s.free fun _ _ b => let l := s.copyLine c got (bitLine b); (l.1.getLsbD (b % 512), l.2)
    let ws := j.writes (fun l => (s.copyLine c got l).1) es.1
    ch ≤ 1 → s.clocked = true → k.inbox = a :: rest → a.isRead = true → a.own = .copy c ch n → (k.chan ch).copies = [x] → x.n = n →
    x.wrote = false →
    (x.held = true ∨ x.todo ≠ [] ∨ got.length < x.lines.length → Answers (.stReadReturn c ch) s fun t =>
      t.core c = { k with inbox := rest }.setChan ch { k.chan ch with copies := [{ x with got := got }] } ∧
      (∀ d, d ≠ c → t.core d = s.core d) ∧ t = { s with cores := t.cores }) ∧
    (x.held = false → x.todo = [] → x.lines.length ≤ got.length → Answers (.stReadReturn c ch) s fun t =>
      (∀ y ∈ ((t.core c).chan ch).copies, y.wrote = true) ∧ SameMem s t) ∧
    (x.held = false → x.todo = [] → x.lines.length ≤ got.length → x.preload = none → x.unacked = [] →
      (k.chan ch).flags = [] → j.aop = 0 → j.overlaps = false → j.manyRegions = false →
      (∀ v ∈ ws, s.isScratch v.da = true ∧ ∀ u ∈ ws, u.da % 2 ^ 23 = v.da % 2 ^ 23 → u = v) → Memory.wf s.scratch = true →
      Answers (.stReadReturn c ch) s fun t =>
        ((t.core c).chan ch).copies = [] ∧ (t.core c).seq.signals = k.seq.signals ++ signalOf x.cmd.word ∧
        (t.core c).sticky = k.sticky ||| es.2 ∧
        (∀ v ∈ ws, ∀ b, b < 64 → v.mask.getLsbD b = true →
          scrByte t.scratch (t.core c).valid c (v.da + b) = byteAt v.data b) ∧
        (∀ o, (∀ v ∈ ws, v.mask.getLsbD (o % 64) = true → v.da % 2 ^ 23 / 64 ≠ o % 2 ^ 23 / 64) →
          scrByte t.scratch (t.core c).valid c o = scrByte s.scratch k.valid c o)) ∧
    (∀ psrc pdst plen, x.held = false → x.todo = [] → x.lines.length ≤ got.length → x.preload = some (psrc, pdst, plen) → psrc % 64 = 0 → plen ≤ 131072 →
      Memory.wf s.scratch = true → Answers (.stReadReturn c ch) s fun t =>
      (∀ i d, i < plen → s.isScratch ((psrc + 64 * i) % 2 ^ 48) = false →
        got.find? (fun e => decide (e.1 = (psrc + 64 * i) % 2 ^ 48)) = some ((psrc + 64 * i) % 2 ^ 48, d, false) →
        ∀ j, j < 64 → scrByte t.scratch (t.core c).valid c (64 * (pdst + i) + j) = byteAt d j) ∧
      (∀ l, (∀ i, i < plen → (pdst + i) % 131072 ≠ l % 131072) → ∀ j, j < 64 →
        scrByte t.scratch (t.core c).valid c (64 * l + j) = scrByte s.scratch k.valid c (64 * l + j)) ∧ SameMem s t)) ∧
  (∀ (c ch n : Nat) (s : State) (a : Rsp) (rest : List Rsp),
    let k := s.core c
    let h := k.chan ch
    let done := fun (w : EngCmd) (h' : Chan) => Answers (.stWriteAck c ch) s fun t =>
      Core.Moved ({ k with inbox := rest, seq := { k.seq with filter := (t.core c).seq.filter } }.setChan ch h') (t.core c) ∧
      (t.core c).seq.signals = k.seq.signals ++ signalOf w ∧ (∀ d, d ≠ c → t.core d = s.core d) ∧ t = { s with cores := t.cores }
    ch ≤ 1 → s.clocked = true → k.inbox = a :: rest → a.isRead = false →
    (∀ (x : Copy) (d : Nat), a.own = .copy c ch n → h.copies = [x] → x.n = n → x.wrote = true → x.preload = none →
      x.unacked = [(a.id, d)] → h.flags = [] →
      done x.cmd.word { h with copies := [], supp := if a.bad then insertNat d h.supp else h.supp }) ∧
    (∀ (x : Copy) (d : Nat) (u : Nat × Nat) (f : Flag), a.own = .copy c ch n → a.bad = true → h.copies = [x] → x.n = n →
      x.wrote = true → x.unacked = [(a.id, d), u] → u.1 ≠ a.id → u.2 = d → h.flags = [f] → f.sent = false → f.dir = d →
      f.behind = [x.cmd.id] →
      Answers (.stWriteAck c ch) s fun t =>
        ((t.core c).chan ch).flags = [{ f with bad := true }] ∧ ((t.core c).chan ch).supp = insertNat d h.supp ∧
        ((t.core c).chan ch).copies = [{ x with unacked := [u] }] ∧ (t.core c).seq.signals = k.seq.signals) ∧
    (∀ f : Flag, a.own = .flag c ch n → h.flags = [f] → f.cmd.id = n → f.sent = true →
      done f.cmd.word { h with flags := [], supp := if a.bad then insertNat 5 h.supp else h.supp }))

/-- R183, R184, R182: CK_NOP does nothing and a reserved opcode counts in SEQ_MISUSE; CK_INIT sets the unit from its
fields, the address and the step number folded in where it says so; CK_FEED and CK_PUT feed bytes into the running
value, lowest first; CK_STORE writes the check, complemented for CRC-32, under ALIVE with the alive counter fed last and stored
behind it, and with KEEP advances the alive counter and keeps the running value; without KEEP the unit starts again
exactly as its last CK_INIT left it. Poison that CK_FEED reads is counted. -/
def Obligations.CheckUnit : Prop :=
  ∀ (c : Nat) (s : State) (q : QCmd),
    let k := s.core c
    let w := q.word
    let busy := fun (cyc : Nat) => meterCycles s c fun d => { d with ckCycles := d.ckCycles + cyc }
    let with' := fun (cyc : Nat) (u : Ck) => { (busy cyc).core c with ck := u }
    let width := if fld w 121 120 = 0 then 1 else if fld w 121 120 = 1 then 2 else 4
    let n := (fld w 119 100 + 1) * width
    let inited := fun (w : EngCmd) => { k.ck with
      init := w, poly := BitVec.ofNat 2 (fld w 121 120), fold := tst w 119, stepf := tst w 118, alive := tst w 117
      acstep := tst w 116
      run :=
        let p := BitVec.ofNat 2 (fld w 121 120)
        let r : BitVec 64 := if tst w 31 then BitVec.ofNat 64 (fld w 63 32) else if fld w 121 120 = 2 then 0 else 0xFFFFFFFF
        let r := if tst w 119 then ckFeed p r (bytesOf 6 (fld w 111 64)) else r
        if tst w 118 then ckFeed p r (bytesOf 4 s.dev.step.toNat) else r
      ac := BitVec.ofNat 4 (fld w 115 112) + (if tst w 116 then BitVec.ofNat 4 s.dev.step.toNat else 0) }
    let check := if k.ck.alive then ckFeed k.ck.poly k.ck.run [BitVec.ofNat 8 k.ck.ac.toNat] else k.ck.run
    let size := if k.ck.poly = 2 then 8 else 4
    let out : List Byte := bytesOf size (if k.ck.poly = 2 then check.toNat else (check.toNat % 2 ^ 32) ^^^ 0xFFFFFFFF) ++
      if k.ck.alive then bytesOf size k.ck.ac.toNat else []
    (s.headOp c 4 (· = 0) = some q → Answers (.ckNop c) s fun t => Completes c 4 w s t k) ∧
    (s.headOp c 4 (5 ≤ ·) = some q → Answers (.reservedCkOpcode c) s fun t => Completes c 4 w s t
      { k with seq := { k.seq with badop := BitVec.ofNat 16 (min 0xFFFF (k.seq.badop.toNat + 1)) } }) ∧
    (s.headOp c 4 (· = 1) = some q → Answers (.ckInit c) s fun t =>
      let cyc := 1 + (if tst w 119 then 6 else 0) + (if tst w 118 then 4 else 0)
      Completes c 4 w (busy cyc) t (with' cyc (inited w))) ∧
    (s.headOp c 4 (· = 2) = some q → Answers (.ckFeed c) s fun t =>
      (t.core c).ck.run = ckFeed k.ck.poly k.ck.run (s.engBytes c (fld w 63 41) n) ∧
      (t.core c).seq.signals = k.seq.signals ++ signalOf w ∧
      (s.scrPoison c (fld w 63 41) n = none → Completes c 4 w (busy (2 + n)) t
        (with' (2 + n) { k.ck with run := ckFeed k.ck.poly k.ck.run (s.engBytes c (fld w 63 41) n) })) ∧
      (s.scrPoison c (fld w 63 41) n ≠ none →
        (t.tile (tileOfCore c)).poisonCons = satAdd (s.tile (tileOfCore c)).poisonCons 1)) ∧
    (s.headOp c 4 (· = 3) = some q → Answers (.ckPut c) s fun t =>
      Completes c 4 w (busy width) t
        (with' width { k.ck with run := ckFeed k.ck.poly k.ck.run (bytesOf width (fld w 63 32)) })) ∧
    (s.headOp c 4 (· = 4) = some q → Memory.wf s.scratch = true → Answers (.ckStore c) s fun t =>
      (t.core c).ck = (if tst w 121 then { k.ck with ac := k.ck.ac + 1, queue := (t.core c).ck.queue }
        else { inited k.ck.init with queue := (t.core c).ck.queue }) ∧
      (t.core c).seq.signals = k.seq.signals ++ signalOf w ∧
      (∀ j, j < out.length → scrByte t.scratch (t.core c).valid c (fld w 63 41 + j) = nth out j 0) ∧
      (∀ j, out.length ≤ runPlace (fld w 63 41) j → scrByte t.scratch (t.core c).valid c j = scrByte s.scratch k.valid c j) ∧
      (∀ d j, d ≠ c → scrByte t.scratch (t.core d).valid d j = scrByte s.scratch (s.core d).valid d j) ∧ SameMem s t)

/-! ## Sequencer -/

/-- R169, R173: SETI, ADDI, MADI and ANDI, decoded with the registers they read in hand, write Gd as the table *Sequencer
instructions* says, modulo 2^32, and decoding goes on behind them, in mid-body to the next word; a later write overtakes
an LDW still under way for Gd (log entry 44). Nothing else of the core changes, nor anything outside it.
R172: an instruction that reads a register which an LDW has not written yet stops decoding: nothing changes.
R169, R164: SNOP does nothing but go on, in mid-body to the next word, a reserved opcode does the same and counts in
BADOP up to 0xFFFF, and END stops decoding for the leg.
R173, R174: after the last word CODEW decoding stops, here behind a SNOP; before it, it goes on unless the next
word is poisoned. -/
def Obligations.SequencerStraightCode : Prop :=
  (∀ (c : Nat) (s : State) (w : BitVec 64),
    let q := (s.core c).seq
    let d := fld w 57 54
    let done := fun (v : BitVec 32) (t : State) =>
      let r := { q with g := q.g.set d v, awaited := q.awaited.filter (fun e => decide (e.1 ≠ d)) }
      SeqBecomes c s t (r.after q.pc) ∧ (q.midBody → SeqBecomes c s t { r with pc := q.pc + 1 })
    (s.instrAt c (· = 2) = some w → Answers (.seti c) s (done (BitVec.ofNat 32 (fld w 31 0)))) ∧
    (s.instrAt c (· = 3) = some w → q.awaits (fld w 53 50) = false →
      Answers (.addi c) s (done (q.reg (fld w 53 50) + BitVec.ofNat 32 (fld w 31 0)))) ∧
    (s.instrAt c (· = 4) = some w → q.awaits (fld w 53 50) = false → q.awaits (fld w 49 46) = false →
      Answers (.madi c) s (done (q.reg (fld w 53 50) * BitVec.ofNat 32 (fld w 15 0) + q.reg (fld w 49 46)))) ∧
    (s.instrAt c (· = 5) = some w → q.awaits (fld w 53 50) = false →
      Answers (.andi c) s (done (q.reg (fld w 53 50) &&& BitVec.ofNat 32 (fld w 31 0))))) ∧
  (∀ (c : Nat) (s : State) (w : BitVec 64),
    let q := (s.core c).seq
    (q.awaits (fld w 53 50) = true →
      (s.instrAt c (· = 3) = some w → exec (.addi c) s = .next s) ∧
      (s.instrAt c (· = 4) = some w → exec (.madi c) s = .next s) ∧
      (s.instrAt c (· = 5) = some w → exec (.andi c) s = .next s) ∧
      (s.instrAt c (· = 6) = some w → exec (.ldw c) s = .next s)) ∧
    (q.awaits (fld w 49 46) = true → s.instrAt c (· = 4) = some w → exec (.madi c) s = .next s) ∧
    (q.awaits (fld w 55 52) = true → s.instrAt c (· = 9) = some w → exec (.waitf c) s = .next s) ∧
    (s.instrAt c (· = 1) = some w → (tst w 47 = true ∧ q.awaits (fld w 46 43) = true) ∨
      (tst w 42 = true ∧ q.awaits (fld w 41 38) = true) → exec (.eng c) s = .next s)) ∧
  (∀ (c : Nat) (s : State) (w : BitVec 64),
    let q := (s.core c).seq
    let go := fun (r : Seq) (t : State) =>
      SeqBecomes c s t (r.after q.pc) ∧ (q.midBody → SeqBecomes c s t { r with pc := q.pc + 1 })
    (s.instrAt c (· = 0) = some w → Answers (.snop c) s (go q)) ∧
    (s.instrAt c (14 ≤ ·) = some w →
      Answers (.reservedSeqOpcode c) s (go { q with badop := BitVec.ofNat 16 (min 0xFFFF (q.badop.toNat + 1)) })) ∧
    (s.instrAt c (· = 13) = some w →
      Answers (.endLeg c) s fun t => t = s.updCore c fun k => { k with seq := { k.seq with phase := .drain } })) ∧
  (∀ (c : Nat) (s : State) (w : BitVec 64),
    let q := (s.core c).seq
    s.instrAt c (· = 0) = some w → q.midBody →
    Answers (.snop c) s fun t =>
      (q.codew ≤ q.pc → (t.core c).seq.phase = .drain) ∧
      (q.pc < q.codew → t.pcPoisoned c = false → (t.core c).seq.phase = .decode))

/-- R173, R174: LOOP pushes a level of the four, its body cut short at the end of the enclosing one, with Gi at 0; a
count of 0 skips the body, an awaited one is taken for its bound and predicted (R175); a LOOP beyond four levels acts as SNOP and counts. BRNZ on a register in hand goes past the
next word by OFFSET when it is not 0, popping the levels whose bodies it leaves.
R173: the last word of a body, here a SNOP with no enclosing body, goes round to the first with Gi at the next
iteration, or pops the level.
R175: a BRNZ on an awaited register is predicted not taken; what the other path would take over stands with the
prediction. The word that comes settles it: 0 confirms it, and the commands behind it stand behind one prediction fewer;
another takes up the other path at the branch's target with the registers as they stood there, counts in SPECMISS, and
no command of the abandoned path is left. -/
def Obligations.LoopsAndBranches : Prop :=
  (∀ (c : Nat) (s : State) (w : BitVec 64),
    let q := (s.core c).seq
    let a := fld w 57 54
    let n := min (q.reg a).toNat (fld w 15 0 + 1)
    let last0 := q.pc + fld w 49 32 + 1
    let last := match q.loops with
      | [] => last0
      | l :: _ => min last0 l.last
    let level : Nat → Option Nat → Seq → Seq := fun n p r => { r with
      loops := { first := q.pc + 1, last := last, count := n, j := 0, ireg := fld w 53 50, pred := p } :: q.loops
      g := q.g.set (fld w 53 50) 0
      awaited := q.awaited.filter fun e => decide (e.1 ≠ fld w 53 50)
      pc := q.pc + 1 }
    (∀ rq, s.instrAt c (· = 10) = some w → q.loops.length < 4 → q.awaitRq a = some rq → q.pc < last →
      Answers (.loopSeq c) s fun t => SeqBecomes c s t (level (fld w 15 0 + 1) (some rq) { q with
        specs := q.specs ++ [{ rq := rq, pred := .iter 0 last, g := q.g, loops := q.loops, awaited := q.awaited }] })) ∧
    (s.instrAt c (· = 10) = some w → 4 ≤ q.loops.length → q.midBody →
      Answers (.loopSeq c) s fun t => SeqBecomes c s t { q with
        loopdepth := BitVec.ofNat 16 (min 0xFFFF (q.loopdepth.toNat + 1)), pc := q.pc + 1 }) ∧
    (q.awaits a = false →
    (s.instrAt c (· = 10) = some w → q.loops.length < 4 → 0 < n → q.pc < last →
      Answers (.loopSeq c) s fun t => SeqBecomes c s t (level n none q)) ∧
    (s.instrAt c (· = 10) = some w → q.loops.length < 4 → (∀ l ∈ q.loops.head?, l.last ≠ last) → n = 0 ∨ last ≤ q.pc →
      Answers (.loopSeq c) s fun t => SeqBecomes c s t { q with pc := last + 1 }) ∧
    (s.instrAt c (· = 11) = some w → 0 < fld w 23 0 → q.reg a ≠ 0 →
      Answers (.brnz c) s fun t => SeqBecomes c s t { q with
        loops := q.loops.dropWhile (fun l => decide (l.last < q.pc + 1 + fld w 23 0)), pc := q.pc + 1 + fld w 23 0 }) ∧
    (s.instrAt c (· = 11) = some w → q.midBody → fld w 23 0 = 0 ∨ q.reg a = 0 →
      Answers (.brnz c) s fun t => SeqBecomes c s t { q with pc := q.pc + 1 }))) ∧
  (∀ (c : Nat) (s : State) (w : BitVec 64) (l : Lvl),
    let q := (s.core c).seq
    s.instrAt c (· = 0) = some w → q.loops = [l] → l.last = q.pc → l.pred = none →
    (l.j + 1 < l.count → l.first ≤ q.codew →
      Answers (.snop c) s fun t => SeqBecomes c s t { q with
        loops := [{ l with j := l.j + 1 }], g := q.g.set l.ireg (BitVec.ofNat 32 (l.j + 1))
        awaited := q.awaited.filter fun e => decide (e.1 ≠ l.ireg)
        pc := l.first }) ∧
    (l.count ≤ l.j + 1 → Answers (.snop c) s fun t => SeqBecomes c s t { q with loops := [], pc := q.pc + 1 })) ∧
  (∀ (c : Nat) (s : State) (w : BitVec 64) (rq : Nat),
    let q := (s.core c).seq
    (∀ (a : Rsp) (rest : List Rsp) (d off target : Nat) (p : Spec),
      let v : BitVec 32 := BitVec.ofNat 32 (fld a.data (8 * off + 31) (8 * off))
      s.clocked = true → (s.core c).inbox = a :: rest → a.own = .ldw c d → a.bad = false → q.awaited = [(d, a.id, off)] →
      q.specs = [p] → p.rq = a.id → p.pred = .brnz target → p.loops = [] → p.awaited = [(d, a.id, off)] →
      (v = 0 → Answers (.ldwReturn c) s fun t =>
        (t.core c).seq.specs = [] ∧ (t.core c).seq.pc = q.pc ∧ (t.core c).seq.g = q.g.set d v ∧
        (t.core c).seq.specmiss = q.specmiss ∧
        ∀ e, (t.core c).queue e = ((s.core c).queue e).map fun x => if 0 < x.spec then { x with spec := x.spec - 1 } else x) ∧
      (v ≠ 0 → Answers (.ldwReturn c) s fun t =>
        (t.core c).seq.specs = [] ∧ (t.core c).seq.pc = target ∧ (t.core c).seq.g = p.g.set d v ∧
        (t.core c).seq.specmiss = BitVec.ofNat 32 (min (2 ^ 32 - 1) (q.specmiss.toNat + 1)) ∧
        ∀ e, ∀ x ∈ (t.core c).queue e, x.spec = 0)) ∧
    (s.instrAt c (· = 11) = some w → q.awaitRq (fld w 57 54) = some rq → 0 < fld w 23 0 → q.midBody →
      Answers (.brnz c) s fun t => SeqBecomes c s t { q with
        specs := q.specs ++ [{ rq := rq, pred := .brnz (q.pc + 1 + fld w 23 0), g := q.g, loops := q.loops, awaited := q.awaited }]
        pc := q.pc + 1 }))

/-- R169, R375, R471: LDW awaits Gd from a read of the word at DA + Ga, which the demand meters; decoding goes on, in
mid-body at the next word.
R169, R255, R471: the line that an LDW asked for comes back: each register it awaits takes the word, and no longer
waits; of a poisoned line the word is 0xFFFF_FFFF, and the poison is counted. Here no branch is predicted. -/
def Obligations.LdwRoundTrip : Prop :=
  (∀ (c : Nat) (s : State) (w : BitVec 64),
    let q := (s.core c).seq
    let d := fld w 57 54
    let a := (((fld w 47 0 : Nat) + (q.reg (fld w 53 50)).toInt) % (2 : Int) ^ 48).toNat / 4 * 4
    s.instrAt c (· = 6) = some w → q.awaits (fld w 53 50) = false →
    Answers (.ldw c) s fun t =>
      let u := meter s c false [a / 64 * 64] 4
      let r : Seq := { q with awaited := q.awaited.filter (fun e => decide (e.1 ≠ d)) ++ [(d, s.nextRq, a % 64)] }
      SeqBecomes c u t (r.after q.pc) ∧ (q.midBody → SeqBecomes c u t { r with pc := q.pc + 1 })) ∧
  (∀ (c : Nat) (s : State) (a : Rsp) (rest : List Rsp) (d off : Nat),
    let q := (s.core c).seq
    let v : BitVec 32 := if a.bad then 0xFFFFFFFF else BitVec.ofNat 32 (fld a.data (8 * off + 31) (8 * off))
    s.clocked = true → (s.core c).inbox = a :: rest → a.own = .ldw c d → q.awaited = [(d, a.id, off)] →
    q.specs = [] →
    Answers (.ldwReturn c) s fun t => SeqBecomes c s t { q with
      g := q.g.set d v, awaited := [], loops := q.loops.map fun l => l.arrive a.id v } ∧
      (a.bad = true → (t.tile (tileOfCore c)).poisonCons = satAdd (s.tile (tileOfCore c)).poisonCons 1))

/-- R172, R178, R181, R169: SEMW, WAITF and FENCE stop decoding behind them: SEMW on its semaphore, KIND and amount,
unless the amount is 0; WAITF on the word it has asked for, one that no wait entry declares exceeding the demand (R375);
FENCE while a named engine has commands. Behind a prediction they and SEMS wait (R175; that decoding holds there is log
entries 159 and 160).
R181, R255: the word that a WAITF read releases decoding when the comparison of CMP holds; else, and for poison, which
is counted, another read is due, and WAITF_REREAD makes it.
R178, R179: a settled semaphore first takes its visible signals, then releases a sequencer that observes, then gives
1 to each engine that waits for it in the order channel 0, channel 1, matrix, vector, check-value unit while the count
lasts. Here: one visible signal of 1 at count 0 releases an observer for 1 and the waiting head of channel 1, and the
matrix engine's head waits on; and, with no signal, the only engine whose head waits takes 1 from a count that is not 0. -/
def Obligations.WaitsAndSemaphores : Prop :=
  (∀ (c : Nat) (s : State) (w : BitVec 64),
    let q := (s.core c).seq
    let go := fun (u : State) (r : Seq) (t : State) =>
      SeqBecomes c u t (r.after q.pc) ∧ (q.midBody → SeqBecomes c u t { r with pc := q.pc + 1 })
    let busy := (List.range 5).any fun e => w.getLsbD (53 + e) && decide ((s.core c).pendingFor e ≠ 0)
    (q.specs ≠ [] → ∀ i o, (i, o) ∈ [(Instr.sems c, 7), (.semw c, 8), (.waitf c, 9), (.fence c, 12)] →
      s.instrAt c (· = o) = some w → exec i s = .next s) ∧
    (q.specs = [] →
      (s.instrAt c (· = 8) = some w → 0 < fld w 15 0 →
        Answers (.semw c) s (go s { q with wait := .semw (fld w 57 53) (tst w 52) (BitVec.ofNat 16 (fld w 15 0)) })) ∧
      (s.instrAt c (· = 8) = some w → fld w 15 0 = 0 → Answers (.semw c) s (go s q)) ∧
      (s.instrAt c (· = 9) = some w → q.awaits (fld w 55 52) = false →
        Answers (.waitf c) s (go (if s.declaredWait c q.waitfs then s else setOver s c fun d => { d with undecl := true }) { q with
          wait := .waitf (fld w 57 56) (q.reg (fld w 55 52)) (fld w 47 0 / 4 * 4) (some s.nextRq) q.waitfs
          waitfs := q.waitfs + 1 })) ∧
      (s.instrAt c (· = 12) = some w → busy = true →
        Answers (.fence c) s (go s { q with wait := .fence (BitVec.ofNat 5 (fld w 57 53)) })) ∧
      (s.instrAt c (· = 12) = some w → busy = false → Answers (.fence c) s (go s q)))) ∧
  (∀ (c : Nat) (s : State) (cmp da o rq : Nat) (v : BitVec 32),
    let q := (s.core c).seq
    (∀ (a : Rsp) (rest : List Rsp),
      let w : BitVec 32 := BitVec.ofNat 32 (fld a.data (8 * (da % 64) + 31) (8 * (da % 64)))
      let holds : Prop := if cmp = 0 then v.toNat ≤ w.toNat else if cmp = 1 then w = v else if cmp = 2 then w ≠ v
        else 0 ≤ (w - v).toInt
      s.clocked = true → (s.core c).inbox = a :: rest → a.own = .waitf c → a.id = rq →
      q.wait = .waitf cmp v da (some rq) o →
      (holds → a.bad = false → Answers (.waitfReadReturn c) s fun t => SeqBecomes c s t { q with wait := .none }) ∧
      (¬holds ∨ a.bad = true → Answers (.waitfReadReturn c) s fun t =>
        SeqBecomes c s t { q with wait := .waitf cmp v da none o } ∧
        (a.bad = true → (t.tile (tileOfCore c)).poisonCons = satAdd (s.tile (tileOfCore c)).poisonCons 1))) ∧
    (q.wait = .waitf cmp v da none o → s.coreRuns c = true →
      Answers (.waitfReread c) s fun t => SeqBecomes c s t { q with wait := .waitf cmp v da (some s.nextRq) o })) ∧
  (∀ (c sem : Nat) (s : State) (x m : QCmd) (xs ms : List QCmd),
    let k := s.core c
    (∀ (e : Nat) (q : QCmd) (rest : List QCmd), e ≤ 4 → s.coreRuns c = true → (∀ g ∈ k.seq.signals, g.1 ≠ sem) →
      k.seq.wait = .none → 1 ≤ (nth k.seq.sems sem 0).toNat → k.queue e = q :: rest → q.spec = 0 → waitEn q.word = true →
      waitSem q.word = sem → q.released = false → (e = 1 → k.vx.run = none) →
      (∀ e' ≤ 4, e' ≠ e → ∀ x ∈ (k.queue e').head?, waitSem x.word ≠ sem) →
      Answers (.semSettle c sem) s fun t => (t.core c).queue e = { q with released := true } :: rest ∧
        (t.core c).seq.sems = k.seq.sems.set sem (nth k.seq.sems sem 0 - 1)) ∧
    (s.coreRuns c = true → sem < k.seq.sems.length → nth k.seq.sems sem 0 = 0 → k.seq.signals = [(sem, 1, false)] →
    k.seq.wait = .semw sem true 1 →
    k.ch0.queue = [] → k.vx.queue = [] → k.ck.queue = [] →
    k.ch1.queue = x :: xs → x.spec = 0 → waitEn x.word = true → waitSem x.word = sem → x.released = false →
    k.mx.queue = m :: ms → m.spec = 0 → waitEn m.word = true → waitSem m.word = sem → m.released = false →
    Answers (.semSettle c sem) s fun t =>
      (t.core c).seq.wait = .none ∧ (t.core c).seq.signals = [] ∧ nth (t.core c).seq.sems sem 1 = 0 ∧
      (t.core c).ch1.queue = { x with released := true } :: xs ∧ (t.core c).mx.queue = m :: ms))

/-- R169, R170: an ENG claims the next N + 1 commands for its engine, with the register values of its offsets; a command
of the run enters its queue, or the hold buffer, as its two words with the offsets added. Here an ENG whose first
command's word is not held yet, and the last command of a run.
R165, R57, R88, R100, R153: a leg starts with every semaphore and register 0, no loops, nothing held, the check-value
unit at CRC-32C with its standard value, banks, layouts, masks and registers at their leg-start values, the filter empty;
scratch keeps its contents. Here a leg without preload.
R164 step 2 to 3: once the preload's writes are done, decoding begins. R472, R162, R255: a code line that was asked for
enters the fetch buffer, dropping the line fetched longest ago from a full one; a line of the leg list brings its part of
the core's or the leg's header, and poison in it stops the core.
R164 steps 4 to 6, R166, R194, R381, R84: when every command of the leg has completed, slots left in the basket are
discarded and counted, the ledger counts the leg and the leg enters its completion flag: into scratch CVAL is written at
once; behind an error acknowledgement, or adding where nothing adds, it is not written; each of these is acknowledged at
once. The acknowledgement brings the next leg's header reads, or ends the core's part of the step. -/
def Obligations.RunsAndLegs : Prop :=
  (∀ (c : Nat) (s : State),
    let k := s.core c
    let q := k.seq
    (∀ w : BitVec 64, s.instrAt c (· = 1) = some w → q.midBody → q.pc + 2 ≤ q.codew → q.word (q.pc + 1) = none →
      (tst w 47 = true → q.awaits (fld w 46 43) = false) → (tst w 42 = true → q.awaits (fld w 41 38) = false) →
      Answers (.eng c) s fun t => SeqBecomes c s t { q with
        run := some { eng := fld w 57 56, left := fld w 55 48 + 1,
                      ofa := if tst w 47 then some (q.reg (fld w 46 43)) else none,
                      ofb := if tst w 42 then some (q.reg (fld w 41 38)) else none }
        pc := q.pc + 1 }) ∧
    (∀ (r : EngRun) (w0 w1 : BitVec 64), q.run = some r → r.left = 1 → s.mayDecode c = true → q.loops = [] →
      q.pc + 1 ≤ q.codew → q.word q.pc = some (w0, false) → q.word (q.pc + 1) = some (w1, false) →
      let raw : EngCmd := w1 ++ w0
      let f := offsetFields r.eng raw
      let w := addOffset (addOffset raw f.1 r.ofa) f.2 r.ofb
      let cmd : QCmd := { id := q.nextId, word := w, spec := q.specs.length, released := false }
      Answers (.eng c) s fun t =>
        let k' := ({ k with seq := { q with nextId := q.nextId + 1 } } : Core).dispatch (queueOf r.eng w) cmd
        Core.Same { k' with seq := { k'.seq with run := none, pc := q.pc + 2 } } (t.core c) ∧ Elsewhere c s t)) ∧
  (∀ (c : Nat) (s : State),
    s.coreRuns c = true → (s.core c).seq.phase = .header → (s.core c).seq.hdrs = [] → (s.core c).seq.plen = 0 →
    Answers (.legStart c) s fun t =>
      let k := t.core c
      k.seq.pc = 0 ∧ k.seq.g = List.replicate 16 0 ∧ k.seq.sems = List.replicate 32 0 ∧ k.seq.loops = [] ∧ k.seq.hold = [] ∧
      k.seq.filter = [] ∧ k.ck = Ck.reset ∧ k.mx.banks = List.replicate 4 AccBank.reset ∧
      k.mx.layouts = List.replicate 8 Layout.reset ∧ k.mx.basket = [] ∧ k.vx.masks = List.replicate 8 (BitVec.allOnes 1024) ∧
      k.vx.sregs = List.replicate 16 0 ∧ k.valid = (s.core c).valid ∧ SameScratch s t) ∧
  (∀ (c : Nat) (s : State),
    let k := s.core c
    let q := k.seq
    (∀ x : Copy, s.coreRuns c = true → q.phase = .preload →
      (k.ch0.copies.find? fun x => x.preload.isSome && x.finished) = some x → s.pcPoisoned c = false →
      Answers (.preloadComplete c) s fun t => (t.core c).seq.phase = .decode ∧ (t.core c).seq.pc = q.pc) ∧
    (∀ (a : Rsp) (rest : List Rsp) (i : Nat), s.clocked = true → k.inbox = a :: rest → a.own = .fetch c i →
      (i, a.id) ∈ q.fetching → Answers (.fetchLineReturn c) s fun t =>
        (t.core c).seq.fetch = (if q.fetch.length < 128 then q.fetch else q.fetch.tail) ++ [(i, a.data, a.bad)]) ∧
    (∀ (a : Rsp) (rest : List Rsp) (j : Nat), s.clocked = true → k.inbox = a :: rest → j < 4 → a.own = .list c j →
      (j, a.id) ∈ q.hdrs →
      let o := (if j < 2 then s.listDa c else s.listDa c + 64 * (q.leg + 1)) % 64
      let piece := if j % 2 = 1 then a.data <<< (8 * (64 - o)) else a.data >>> (8 * o)
      Answers (.fetchLineReturn c) s fun t => (t.core c).seq.hdrs = q.hdrs.erase (j, a.id) ∧
        (a.bad = false → (t.core c).seq.coreHdr = (if j < 2 then q.coreHdr ||| piece else q.coreHdr) ∧
          (t.core c).seq.legHdr = if j < 2 then q.legHdr else q.legHdr ||| piece) ∧
        (a.bad = true → (t.core c).seq.phase = .stuck ∧
          (t.tile (tileOfCore c)).poisonCons = satAdd (s.tile (tileOfCore c)).poisonCons 1))) ∧
  (∀ (c : Nat) (s : State),
    let k := s.core c
    let q := k.seq
    let done := (s.tile (tileOfCore c)).done
    let i := s.ledgerIndex c
    let clear : Prop := k.ch0.supp = [] ∧ k.ch1.supp = []
    let unserved : Prop := q.cadd = true ∧ (s.isScratch q.cda = true ∨ ∃ x a, s.kind q.cda = .host x a)
    let acked := fun (t : State) => ∃ a ∈ (t.core c).inbox, a.own = .legFlag c ∧ a.id = (t.core c).seq.flagRq
    (s.coreRuns c = true → q.phase = .drain → q.specs = [] → k.inFlight = 0 → k.ch0.copies = [] → k.ch1.copies = [] →
      Answers (.legDrainComplete c) s fun t =>
        (t.core c).seq.phase = .flag ∧ (t.core c).mx.basket = [] ∧
        (t.core c).mx.leftover = BitVec.ofNat 16 (min 0xFFFF (k.mx.leftover.toNat + k.mx.basket.length)) ∧
        (t.tile (tileOfCore c)).done = done.set i (nth done i 0 + 1) ∧ (t.core c).seq.flagRq = s.nextRq ∧
        (clear → q.cadd = false → s.isScratch q.cda = true → s.memOk →
          t.scrBytes c (scratchOff q.cda) 4 = bytesOf 4 q.cval ∧ acked t) ∧
        (¬clear ∨ unserved → SameScratch s t ∧ acked t)) ∧
    (∀ (a : Rsp) (rest : List Rsp), s.clocked = true → k.inbox = a :: rest → a.own = .legFlag c → q.phase = .flag →
      q.flagRq = a.id →
      (q.nleg ≤ q.leg + 1 → Answers (.completionFlagAck c) s fun t =>
        (t.core c).seq.phase = .finished ∧ (t.core c).dem.timing = false) ∧
      (q.leg + 1 < q.nleg → Answers (.completionFlagAck c) s fun t =>
        (t.core c).seq.phase = .header ∧ (t.core c).seq.leg = q.leg + 1 ∧ (t.core c).seq.coreHdr = q.coreHdr)))

/-! ## Registers -/

/-- R11, R8, R12, R9: an access of the register range that is not a naturally aligned one of 4 or 8 bytes reads 0 and writes
nothing. MP_FLIPMASK (RW) takes a written value, of a 4-byte half only that half, and reads it back; HP_DBSTAT.BADDB (RC)
is given out and cleared; CORE_STICKY (W1C) loses the bits written as 1. A host port's read in BOOT changes nothing
(R422).
R12: a read of the low half of a 64-bit counter, here HP_CYCLES, latches the high half for its requester, whose next
read of the high half returns it whatever the counter has done since. -/
def Obligations.RegisterAccesses : Prop :=
  (∀ (req : Requester) (da : Da) (size t v x c : Nat) (value : BitVec 64) (s : State),
    let old := (s.vault t v).flipmask
    let mask : Da := BitVec.ofNat 48 (0x020002000138 + 0x1000 * (64 * t + v))
    let high : Da := BitVec.ofNat 48 (0x02000200013C + 0x1000 * (64 * t + v))
    let baddb : Da := BitVec.ofNat 48 (0x020004000108 + 0x10000 * x)
    let sticky : Da := BitVec.ofNat 48 (0x020000100040 + 0x10000 * c)
    let live : Prop := ∀ y, req = .port y → s.dev.state ≠ .boot
    s.canReach req = true →
    (¬live → Answers (.rcFieldRead req da size) s fun u => ∃ z, u = { s with out := s.out ++ [.data z false] }) ∧
    (size ≠ 4 ∧ size ≠ 8 ∨ da.toNat % size ≠ 0 → exec (.registerWrite req da size value) s = .next s ∧
      Answers (.rcFieldRead req da size) s fun u => u = { s with out := s.out ++ [.data 0 false] }) ∧
    (t < s.fuses.part.tiles → v < 64 →
      Answers (.registerWrite req mask 8 value) s (fun u => VaultBecomes t v s u { s.vault t v with flipmask := value }) ∧
      Answers (.registerWrite req mask 4 value) s (fun u => VaultBecomes t v s u { s.vault t v with
        flipmask := BitVec.ofNat 64 (old.toNat / 2 ^ 32 * 2 ^ 32 + value.toNat % 2 ^ 32) }) ∧
      Answers (.registerWrite req high 4 value) s (fun u => VaultBecomes t v s u { s.vault t v with
        flipmask := BitVec.ofNat 64 (value.toNat % 2 ^ 32 * 2 ^ 32 + old.toNat % 2 ^ 32) }) ∧
      (live → Answers (.rcFieldRead req mask 8) s fun u => u = { s with out := s.out ++ [.data (old.setWidth 512) false] })) ∧
    (x < 2 → live → Answers (.rcFieldRead req baddb 4) s fun u =>
      u.out = s.out ++ [.data ((s.port x).baddb.setWidth 512) false] ∧ u.port x = { s.port x with baddb := 0 } ∧
      (∀ j, j ≠ x → u.port j = s.port j) ∧ u = { s with out := u.out, ports := u.ports }) ∧
    (c < 17 * s.fuses.part.tiles → Answers (.registerWrite req sticky 4 value) s fun u =>
      u.core c = { s.core c with sticky := (s.core c).sticky &&& ~~~(value.setWidth 8) } ∧
      (∀ j, j ≠ c → u.core j = s.core j) ∧ u = { s with cores := u.cores })) ∧
  (∀ (req : Requester) (x n : Nat) (s : State),
    let low : Da := BitVec.ofNat 48 (0x020004000008 + 0x10000 * x)
    let high : Da := BitVec.ofNat 48 (0x02000400000C + 0x10000 * x)
    let count := s.cycles (.host x)
    s.canReach req = true → (∀ y, req = .port y → s.dev.state ≠ .boot) → x < 2 → Answers (.counterLowHalfRead req low 4) s fun t =>
      t.out = s.out ++ [.data (BitVec.ofNat 512 (count % 2 ^ 32)) false] ∧
      Answers (.counterLowHalfRead req high 4) { t with ticks := n } fun u =>
        u.out = t.out ++ [.data (BitVec.ofNat 512 (count / 2 ^ 32 % 2 ^ 32)) false])

/-- R218, R219, R251, R340: a commit by another than the owner port or Buaman, or outside READY and DEGRADED, is locked
out and counted; one that fails a check leaves the active map and shows ERR and BADWIN; else the staged windows become
active and BUSY reads 1 until the commit is done. A change of Clotu mode clears the tile's granule bits, and its
uncorrectable lines count no more (R250). MIR_STORE takes its fields, and a held copy is discarded with MIRROR_LOST. -/
def Obligations.MapAndModeWrites : Prop :=
  ∀ (req : Requester) (value : BitVec 32) (store : BitVec 64) (t : Nat) (s : State),
    let may := s.mayConfigure req
    s.canReach req = true →
    (tst value 31 = true →
      (may = false ∨ s.isIdle = false → Answers (.vcMapctlCommit req value) s fun u => u = { s with dev := { s.dev with
        mapLocked := BitVec.ofNat 8 (min 0xFF (s.dev.mapLocked.toNat + 1)), mapErr := 7, mapBadwin := 0 } }) ∧
      (may = true → s.isIdle = true → 0 < s.mapCheck.1 → Answers (.vcMapctlCommit req value) s fun u =>
        u = { s with dev := { s.dev with
          mapErr := BitVec.ofNat 4 s.mapCheck.1, mapBadwin := BitVec.ofNat 4 s.mapCheck.2 } }) ∧
      (may = true → s.isIdle = true → s.mapCheck.1 = 0 → Answers (.vcMapctlCommit req value) s fun u =>
        u.dev.active = s.dev.staged ∧ u.dev.mapBusy = true ∧ u.dev.mapErr = 0 ∧ u.dev.state = s.dev.state)) ∧
    (s.clocked = true → s.dev.mapBusy = true → Answers .mapCommitDone s fun u =>
      u.dev.mapBusy = false ∧ u.dev.active = s.dev.active ∧ SameMem s u ∧ ∀ k, k < s.fuses.part.tiles → (u.tile k).clotuBusy = false) ∧
    (s.tilePresent t = true →
      (may = false ∨ s.isIdle = false ∨ tst value 0 = (s.tile t).clotu → exec (.mpModeClotuWrite req t value) s = .next s) ∧
      (may = true → s.isIdle = true → tst value 0 ≠ (s.tile t).clotu → Answers (.mpModeClotuWrite req t value) s fun u =>
        u.tile t = { s.tile t with clotu := tst value 0, granules := [] } ∧ (∀ j, j ≠ t → u.tile j = s.tile j) ∧
        (∀ j v, v < 64 → u.vault j v = { s.vault j v with ueTimes := if j = t then [] else (s.vault j v).ueTimes }) ∧
        u = { s with tiles := u.tiles, vaults := u.vaults, mirror := u.mirror })) ∧
    (may = true → s.unbooked = true → Answers (.mirStoreWrite req store) s fun u =>
      let same : Prop := fld store 51 42 = s.mirror.storeBase.toNat ∧ fld store 41 32 = s.mirror.storeLen.toNat
      let had : Prop := s.mirror.hvalid = true ∨ s.mirror.wb ≠ []
      u.mirror.storeBase.toNat = fld store 51 42 ∧ u.mirror.storeLen.toNat = fld store 41 32 ∧ SameMem s u ∧
      (same → u = s) ∧ (¬same → ¬had → u = { s with mirror := u.mirror }) ∧
      (¬same → had → u.mirror.hvalid = false ∧ u.mirror.resync = true ∧ u.dev.lastFault = s.dev.faultSeq)) ∧
    (may = false ∨ s.unbooked = false → exec (.mirStoreWrite req store) s = .next s)

/-- R296, R27: BAR0 reaches the register at its offset; BAR2 the stacked memory at HP_APBASE and on, here a read or write
within one line, held while a map commit runs; BAR4 reads 0 above 64 KiB, below it any value, for which the manual gives
no layout (log entry 173). -/
def Obligations.BarAccesses : Prop :=
  ∀ (x off : Nat) (wr : Bool) (size : Nat) (value : BitVec 512) (s : State),
    s.portUp x = true →
    (off % 8 = 0 → off < 2 ^ 28 →
      exec (.barAccess x { bar := 0, off := off, size := 8, wr := true, value := value }) s =
        exec (.registerWrite (.port x) (BitVec.ofNat 48 (2 ^ 41 + off)) 8 (value.setWidth 64)) s ∧
      exec (.barAccess x { bar := 0, off := off, size := 8, wr := false, value := value }) s =
        exec (.rcFieldRead (.port x) (BitVec.ofNat 48 (2 ^ 41 + off)) 8) s ∧
      ∃ t, exec (.barAccess x { bar := 0, off := off, size := 8, wr := wr, value := value }) s = .next t) ∧
    (1 ≤ size → off + size ≤ 2 ^ 34 → s.clocked = true → s.dev.mapBusy = true →
      let da := (s.port x).apbase.toNat * 2 ^ 34 + off
      da % 64 + size ≤ 64 → s.fencedByPlan (da / 64 * 64) = false →
      Answers (.barAccess x { bar := 2, off := off, size := size, wr := wr, value := value }) s fun t => ∃ r : Rq,
        r.own = .bar x (da % 64) size ∧ r.da = da / 64 * 64 ∧ (r.kind = .write ↔ wr = true) ∧ (r.kind = .read ↔ wr = false) ∧
        PortBecomes x { s with nextRq := s.nextRq + 1 } t { s.port x with heldRqs := (s.port x).heldRqs ++ [r] }) ∧
    (2 ^ 16 ≤ off → off + 8 ≤ 2 ^ 17 →
      Answers (.barAccess x { bar := 4, off := off, size := 8, wr := false, value := value }) s fun t =>
        t = { s with out := s.out ++ [.data 0 false] }) ∧
    (off < 2 ^ 16 → Answers (.barAccess x { bar := 4, off := off, size := 8, wr := false, value := value }) s fun t =>
        ∃ v : BitVec 64, t = { s with free := t.free, out := s.out ++ [.data (v.setWidth 512) false] })

/-! ## Address map, crossings, vaults -/

/-- R216, R217: in every order a tile-local line offset and its physical line determine each other, and the line's
vault, bank stack, row and column lie in their ranges. -/
def Obligations.AddressOrdersAreOneToOne : Prop :=
  ∀ (order t p : Nat), order < 4 → p < 2 ^ 37 → p % 64 = 0 →
    let l := splitP order t p
    joinP order l = p ∧ l.tile = t ∧ l.vault < 64 ∧ l.bs < 8 ∧ l.row < 16384 ∧ l.col < 256

/-- R191, R192, R193: the destination takes a crossing's head, which enters the next crossing on its way; while that one
holds 16 items it waits. A half-reset drops and counts the items in flight and restarts the item counters; its release
lets the items held at the source in. -/
def Obligations.CrossingsCarryItems : Prop :=
  ∀ (w n : Nat) (s : State),
    let k := 256 * w + n
    let x := s.xing k
    n < 256 → s.clocked = true →
    (∀ (it : Item) (k' : Nat) (rest : List Nat) (more : List (Item × List Nat)),
      let y := s.xing k'
      x.half = .running → x.fifo = (it, k' :: rest) :: more → x.back = [] → k' ≠ k → s.deadXing k' = false → y.half = .running →
      y.back = [] →
      (y.fifo.length < 16 → Answers (.crossingItemTake w n) s fun t =>
        t.xing k = { x with fifo := more, taken := x.taken + 1 } ∧
        t.xing k' = { y with fifo := y.fifo ++ [(it, rest)], sent := y.sent + 1 } ∧
        (∀ j, j ≠ k → j ≠ k' → t.xing j = s.xing j) ∧ t = { s with xings := t.xings }) ∧
      (16 ≤ y.fifo.length → exec (.crossingItemTake w n) s = .next s)) ∧
    (x.half = .running → x.fifo = [] → x.back = [] → Answers (.halfResetAssert w n) s fun t => XingBecomes k s t
      { x with half := .held, sent := 0, taken := 0, resets := BitVec.ofNat 16 (min 0xFFFF (x.resets.toNat + 1)) }) ∧
    (w < 8 → x.half = .running → s.deadXing k = false →
      Answers (.halfResetAssert w n) s fun t => t.xing k =
        { x with
          fifo := [], half := .held, sent := 0, taken := 0
          resets := BitVec.ofNat 16 (min 0xFFFF (x.resets.toNat + 1))
          dropped := BitVec.ofNat 16 (min 0xFFFF (x.dropped.toNat + x.fifo.length)) }) ∧
    (x.half = .held → s.deadXing k = false → x.fifo = [] → x.back.length ≤ 16 → Answers (.halfResetRelease w n) s fun t =>
      XingBecomes k s t { x with
        half := .running, fifo := x.back, back := [], sent := BitVec.ofNat 32 (x.sent.toNat + x.back.length) })

/-- R222, R235, R248, R245, R291: the vault controller takes a request from its crossing into its queue of 64, last, but for a
host's request that crosses a BISnp, which goes before those that wait for the answer; a full queue makes it wait; a write
is acknowledged then, unless it may still meet poison; the first write to a granule whose bit is 0 marks it as being set.
R233, R237, R239, R244, R248, R250, R254, R235: a chosen request leaves the queue and is served: a read of a granule
whose bit is 0 is answered with zeros and makes no DRAM access, any other clean one with its line; a whole or poisoned
write stores its line encoded by the tile's mode, a narrow one in Clotu mode its bytes alone, struck by a flip mask that
matches; any other write first reads its line and holds it. ACC_WRITE_COMBINE, once the bank stack can take the transfer,
stores what it makes of it, or with a line that read as poison stores nothing. No other byte of memory changes.
R233, R54: ADD_INT32 combines each masked 32-bit element as a sum clamped to the range of INT32, and leaves the
others. -/
def Obligations.VaultQueues : Prop :=
  (∀ (t v : Nat) (s : State) (r : Rq) (more : List (Item × List Nat)),
    let k := 256 * t + (128 + v)
    let x := s.xing k
    let y := s.vault t v
    let g := s.granuleOf (placeOf t v r.line)
    let now := decide (r.kind ≠ .read) && (!s.isRmw r || s.surelyClean (placeOf t v r.line))
    let e : QEnt := { rq := r, passed := 0, acked := now }
    let waits := fun (f : QEnt) => decide (f.rq.line = r.line) && [0, 1].any fun p => (s.port p).waitBi.any fun w => decide (w.id = f.rq.id)
    t < 8 → v < 64 → s.clocked = true → x.half = .running → x.fifo = (.rq r, []) :: more → x.back = [] → r.tile = t → r.vault = v →
    (64 ≤ y.queue.length → exec (.vaultRequestAccept t v) s = .next s) ∧
    (y.queue.length < 64 →
      Answers (.vaultRequestAccept t v) s (fun u =>
        (s.crosses r = false → (u.vault t v).queue = y.queue ++ [e]) ∧
        (s.crosses r = true → (u.vault t v).queue =
          y.queue.takeWhile (fun f => !waits f) ++ e :: y.queue.dropWhile fun f => !waits f) ∧
        SameMem s u ∧ SameScratch s u ∧
        (r.kind ≠ .read → s.granuleValid t g = false → (u.tile t).filling.contains g = true ∧ u.granuleValid t g = false)) ∧
      (s.crosses r = false → (s.port 0).filter.contains r.da = false → (s.port 1).filter.contains r.da = false → r.mis = 0 →
        r.kind = .read ∨ s.granuleValid t g = true ∧ (∀ c ∈ s.coreList, (s.core c).seq.filter = []) →
        Answers (.vaultRequestAccept t v) s fun u => ∃ a : State,
          a.vault t v = { y with queue := y.queue ++ [e] } ∧ a.xing k = { x with fifo := more, taken := x.taken + 1 } ∧
          a = { s with vaults := a.vaults, xings := a.xings } ∧
          u = if now then answerFrom a (.vault t v) (r.answer 0 false) else a))) ∧
  (∀ (t v k : Nat) (s : State) (e : QEnt),
    let x := s.vault t v
    let r := e.rq
    let p := placeOf t v r.line
    let taken := (x.queue.take k).map (fun q => { q with passed := q.passed + 1 }) ++ x.queue.drop (k + 1)
    let enc := fun (d : Line) (bad : Bool) => if (s.tile t).clotu then clotuEncode d bad else encodeLine d bad
    let struck := fun (bs : List Byte) => if x.flipMatches p false then flipBytes bs (fld x.flipctl 60 51) x.flipmask.toNat else bs
    let stores := fun (bs : List Byte) (u : State) => LineBecomes (lineKey t v r.line) s u (struck bs) ∧
      (x.flipMatches p false = true → tst (u.vault t v).flipctl 63 = false)
    r.tile = t → r.vault = v → r.line < 2 ^ 25 → Memory.wf s.mem = true →
    (s.mayServe t v k = some e →
      (r.kind = .read → s.granuleValid t (s.granuleOf p) = false → Answers (.vaultServe t v k) s fun u => ∃ a : State,
        VaultBecomes t v s a (x.take k) ∧ (x.take k).queue = taken ∧ (x.take k).openRow = x.openRow ∧ (x.take k).acts = x.acts ∧
        u = answerFrom a (.vault t v) (r.answer 0 false)) ∧
      (∀ d, r.kind = .read → s.granuleValid t (s.granuleOf p) = true → x.flipMatches p true = false → s.peek p = .clean d →
        Answers (.vaultServe t v k) s fun u => ∃ a : State,
          VaultBecomes t v s a ((x.take k).transfer p.bs p.row r.hint) ∧ u = answerFrom a (.vault t v) (r.answer d false)) ∧
      (r.kind ≠ .read → s.isRmw r = false → r.whole = true ∨ r.poison = true → Answers (.vaultServe t v k) s fun u =>
        stores (enc r.data r.poison) u ∧ (u.vault t v).queue = taken) ∧
      (r.kind = .write → s.isRmw r = false → r.whole = false → Answers (.vaultServe t v k) s fun u =>
        stores (clotuMasked (s.stored p) r.mask r.data) u ∧ (u.vault t v).queue = taken) ∧
      (∀ d, s.isRmw r = true → x.flipMatches p true = false → s.peek p = .clean d →
        Answers (.vaultServe t v k) s fun u => SameMem s u ∧ (u.vault t v).queue = taken ∧
          (u.vault t v).rmw = x.rmw ++ [{ rq := r, line := d, bad := false }])) ∧
    (∀ (m : Rmw) (rest : List Rmw), s.clocked = true → s.vaultUsable t v = true → x.rmw = m :: rest → m.rq = r →
      (m.bad = false → x.canTransfer (lineBank r.line) (lineRow r.line) = false →
        exec (.accWriteCombine t v) s = .next s) ∧
      (m.bad = false → x.canTransfer (lineBank r.line) (lineRow r.line) = true →
        Answers (.accWriteCombine t v) s fun u => (u.vault t v).rmw = rest ∧ stores (enc m.result false) u) ∧
      (m.bad = true → Answers (.accWriteCombine t v) s fun u => VaultBecomes t v s u
        { x with
          rmw := rest
          accPoison := BitVec.ofNat 16 (min 0xFFFF (x.accPoison.toNat + match r.kind with
            | .acc _ => 1
            | _ => 0)) }))) ∧
  (∀ (old new : Line) (mask : BitVec 64) (i : Nat), i < 16 →
    let el := fun (l : Line) => BitVec.ofNat 32 (fld l (32 * i + 31) (32 * i))
    (mask.getLsbD (4 * i) = true → (el (accLine 4 old new mask)).toInt =
      max (-(2 : Int) ^ 31) (min ((2 : Int) ^ 31 - 1) ((el old).toInt + (el new).toInt))) ∧
    (mask.getLsbD (4 * i) = false → el (accLine 4 old new mask) = el old))

/-- R245, R246: with GRANULE_FILL_DONE the granule's bit is set, its lines in the vaults that are not lost hold the zero code
word and no other byte of memory changes; it comes once every bank stack can take the writes.
R224, R227 to R230, R232, R226: what the controller does with its rows between requests: an idle row is precharged,
unless the last transfer left it to the controller and a queued request hits it;
a refresh is issued or, up to four, postponed; with four owed the next goes ahead; a refresh done moves the round on and
at its end clears the activate table; a neighbour refresh puts a count that reached the threshold back to 0,
outside a calibration slot; a calibration slot, while none owes four, precharges every row, and the next comes 32,000,000 vault cycles later; a band notice takes effect.
Here without kernels. -/
def Obligations.VaultUpkeep : Prop :=
  (∀ (t g : Nat) (s : State), s.clocked = true → s.tileUsable t = true → (s.tile t).filling.contains g = true → Memory.wf s.mem = true →
    (s.granuleFree t g = false → exec (.granuleFillDone t g) s = .next s) ∧
    (s.granuleFree t g = true → Answers (.granuleFillDone t g) s fun u =>
      u.tile t = { s.tile t with granules := insertNat g (s.tile t).granules, filling := dropNat g (s.tile t).filling } ∧
      (∀ j, j ≠ t → u.tile j = s.tile j) ∧ u = { s with tiles := u.tiles, mem := u.mem, vaults := u.vaults } ∧
      (∀ l ∈ s.granuleLines t g, s.vaultUsable l.tile l.vault = true →
        ∀ i, i < 80 → memGet u.mem (lineKey l.tile l.vault l.line + i) = 0) ∧
      ∀ a, (∀ l ∈ s.granuleLines t g, s.vaultUsable l.tile l.vault = true →
          a < lineKey l.tile l.vault l.line ∨ lineKey l.tile l.vault l.line + 80 ≤ a) →
        memGet u.mem a = memGet s.mem a)) ∧
  (∀ (t v b : Nat) (s : State),
    let x := s.vault t v
    let closed := x.openRow.set b none
    let issued := { x with openRow := closed, refreshing := x.refreshing.set b true, refCount := x.refCount + 1 }
    let bal := nth x.refBal b 0
    let round := nth x.refRound b 0 + 1
    let done := { x with
      refreshing := x.refreshing.set b false
      refRound := x.refRound.set b (round % 8192)
      acts := if round = 8192 then x.acts.set b [] else x.acts }
    s.clocked = true → s.vaultUsable t v = true → b < 8 → x.kernels = [none, none, none, none] →
    let hit := x.queue.any fun e => decide (lineBank e.rq.line = b) && x.hits e.rq
    (nth x.rowHint b 0 = 1 ∨ hit = false →
      Answers (.rowIdleClose t v b) s fun u => VaultBecomes t v s u { x with openRow := closed }) ∧
    (nth x.rowHint b 0 ≠ 1 → hit = true → exec (.rowIdleClose t v b) s = .next s) ∧
    (bal < 4 → nth x.refreshing b false = false → x.calSlot = false → Answers (.refreshDue t v b) s fun u =>
      VaultBecomes t v { s with free := s.free + 1 } u issued ∨
      VaultBecomes t v { s with free := s.free + 1 } u { x with refBal := x.refBal.set b (bal + 1) }) ∧
    (bal < 4 → nth x.refreshing b false = true → Answers (.refreshDue t v b) s fun u =>
      VaultBecomes t v s u { x with refBal := x.refBal.set b (bal + 1) }) ∧
    (4 ≤ bal → nth x.refreshing b false = false →
      Answers (.refreshForced t v b) s (fun u => VaultBecomes t v s u { issued with refBal := x.refBal.set b (bal - 1) }) ∧
      Answers (.refreshDue t v b) s fun u => VaultBecomes t v s u issued) ∧
    (nth x.refreshing b false = true → bal ≤ 0 → (bal ≤ -4 ∨ x.calSlot = true) → Answers (.refreshDone t v b) s fun u =>
      VaultBecomes t v s u done) ∧
    (nth x.refreshing b false = true → bal ≤ 0 → -4 < bal → x.calSlot = false →
      Answers (.refreshDone t v b) s fun u =>
        VaultBecomes t v { s with free := s.free + 1 } u done ∨
        VaultBecomes t v { s with free := s.free + 1 } u { done with
          openRow := closed, refreshing := x.refreshing, refCount := x.refCount + 1, refBal := x.refBal.set b (bal - 1) }) ∧
    (x.calSlot = true → exec (.neighbourRefresh t v b) s = .next s) ∧
    (∀ r n pre post, nth x.acts b [] = pre ++ (r, n) :: post → max 64 x.thresh.toNat ≤ n →
      (∀ e ∈ pre, e.2 < max 64 x.thresh.toNat) → nth x.refreshing b false = false → x.calSlot = false →
      Answers (.neighbourRefresh t v b) s fun u => VaultBecomes t v s u
        { x with
          openRow := closed, acts := x.acts.set b (pre ++ (r, 0) :: post)
          nrStep := BitVec.ofNat 32 (min 0xFFFFFFFF (x.nrStep.toNat + 1)), nrTotal := x.nrTotal + 1 }) ∧
    ((∃ b', b' < 8 ∧ 4 ≤ nth x.refBal b' 0) → exec (.calibrationSlotStart t v) s = .next s) ∧
    (x.calSlot = false → (∀ b', b' < 8 → nth x.refBal b' 0 < 4) → Answers (.calibrationSlotStart t v) s fun u => u.vault t v =
        { x with
          calSlot := true, openRow := List.replicate 8 none
          calTarget := some ((match x.calTarget with
            | some c => c
            | none => 1000000 + 400000 * v) + 32000000) } ∧ SameMem s u) ∧
    (x.calSlot = true → (∀ b, b < 8 → nth x.refBal b 0 ≤ 0) → Answers (.calibrationSlotEnd t v) s fun u =>
      VaultBecomes t v s u { x with calSlot := false, slots := x.slots + 1 }) ∧
    (∀ band, x.bandNotice = some band → Answers (.bandNotice t v) s fun u =>
      VaultBecomes t v s u { x with band := band, bandNotice := none }))

/-- R252, R239, R241, R242, R250, R257, R387: the scrubber reads the next line, from the lowest again at the end, and goes on
behind it; a correction is written back, an uncorrectable line is counted and rewritten poisoned; a layer with THRESH
events within 1 ms is marked erased; a vault with 64 uncorrectable lines within 1 ms beside an erased layer or in Clotu
mode, or whose controller fails, is lost; outside a step the next UNCORRECTABLE record opens a new period. None of these
writes another line. -/
def Obligations.VaultErrors : Prop :=
  ∀ (t v layer : Nat) (s : State) (l : Place),
    let x := s.vault t v
    let lines := s.scrubLines t v
    let enc := fun (d : Line) (bad : Bool) => if (s.tile t).clotu then clotuEncode d bad else encodeLine d bad
    s.clocked = true → s.vaultUsable t v = true →
    (x.interval ≠ 0 → (x.rmw.any fun m => decide (m.rq.line = l.line)) = false → x.canTransfer l.bs l.row = true →
      firstFrom lines x.pos.toNat = some l ∨ firstFrom lines x.pos.toNat = none ∧ firstFrom lines 0 = some l →
      tst x.flipctl 63 = false → l.tile = t → l.vault = v → Memory.wf s.mem = true → l.line < 2 ^ 25 →
      (∀ d, s.peek l = .clean d → Answers (.scrubTick t v) s fun u =>
        (u.vault t v).pos = BitVec.ofNat 25 (l.pos + 1) ∧ SameMem s u ∧ u = { s with vaults := u.vaults }) ∧
      (∀ d layers ev, s.peek l = .corrected d layers ev → Answers (.scrubTick t v) s fun u =>
        (u.vault t v).pos = BitVec.ofNat 25 (l.pos + 1) ∧ (u.vault t v).ce = x.ce + 1 ∧
        LineBecomes (lineKey t v l.line) s u (enc d false)) ∧
      (∀ layers, s.peek l = .bad layers → Answers (.scrubTick t v) s fun u =>
        (u.vault t v).pos = BitVec.ofNat 25 (l.pos + 1) ∧ (u.vault t v).ue = satAdd x.ue 1 ∧
        LineBecomes (lineKey t v l.line) s u (enc (lineOf ((s.stored l).take 64)) true))) ∧
    (x.erased = none → (s.tile t).clotu = false →
      within1ms (max 1 (s.tile t).eraseThresh.toNat) ((x.layerEvents.filter fun e => e.1 = layer).map Prod.snd) = true →
      Answers (.layerEraseMark t v layer) s fun u => (u.vault t v).erased = some layer ∧ (u.vault t v).lastErase = s.dev.faultSeq ∧
        SameMem s u ∧ SameScratch s u) ∧
    (x.erased.isSome = true ∨ (s.tile t).clotu = true → within1ms 64 x.ueTimes = true →
      Answers (.vaultLostDeclare t v) s fun u => (u.vault t v).lost = true ∧ (u.vault t v).queue = [] ∧ SameMem s u) ∧
    (v < 64 → Answers (.vaultControllerFail t v) s fun u => (u.vault t v).lost = true ∧ (u.vault t v).queue = [] ∧ SameMem s u) ∧
    (s.running = false → Answers (.uncorrectableLimitPeriodClose t v) s fun u =>
      VaultBecomes t v s u { x with recOpen := false, recCount := 0 })

/-! ## Bank units -/

/-- R264, R261: what a running bank unit's register instructions do to it: registers modulo 2^16, accumulators modulo
2^40, branches to entry IMM[5:0], after entry 63 entry 0; nothing else in the device changes. A unit that is ready, held
or at another instruction, or whose bank stack owes four refreshes (R228), does nothing.
R262, R263, R264: LD, CHK, ST and STC on a column of the open row of the unit's bank, and how a unit stops. An
unreachable column reads 0, matches every CHK and drops its store, which both count. A store outside BOOT by layers 0
to 7 writes 0xFFFF into the column's symbols of layers 8 and 9 and sets the row's raw-row bit; in BOOT it writes its own
layer alone. The PC after a stop is free (no rule of spec/ gives it). -/
def Obligations.BankUnitPrograms : Prop :=
  (∀ (t v layer k : Nat) (s : State),
    let key := unitKey t v layer k
    let u := s.unit key
    let w := tget 0x70000000#32 u.store u.pc.toNat
    let a := nth u.h (fld w 23 21) 0
    let b := nth u.h (fld w 20 18) 0
    let imm : BitVec 16 := BitVec.ofNat 16 (fld w 15 0)
    let x := BitVec.ofNat 40 (a.toNat * b.toNat)
    let put := fun (h : BitVec 16) (y : State) => UnitBecomes key s y { u with h := u.h.set (fld w 26 24) h, pc := u.pc + 1 }
    let jump := fun (on : Prop) [Decidable on] (y : State) => UnitBecomes key s y
      { u with pc := if on then BitVec.ofNat 6 (fld w 5 0) else u.pc + 1 }
    let rows : List (Instr × Nat) := [(.buNop t v layer k, 0), (.buLdi t v layer k, 1), (.buAdd t v layer k, 2), (.buAddi t v layer k, 3),
      (.buAnd t v layer k, 4), (.buXor t v layer k, 5), (.buLd t v layer k, 6), (.buSt t v layer k, 7), (.buStc t v layer k, 8),
      (.buMac t v layer k, 9), (.buClr t v layer k, 10), (.buBlt t v layer k, 11), (.buBne t v layer k, 12), (.buChk t v layer k, 13),
      (.buHalt t v layer k, 14)]
    (s.buAt t v layer k 0 = true → Answers (.buNop t v layer k) s fun y => UnitBecomes key s y { u with pc := u.pc + 1 }) ∧
    (s.buAt t v layer k 1 = true → Answers (.buLdi t v layer k) s (put imm)) ∧
    (s.buAt t v layer k 2 = true → Answers (.buAdd t v layer k) s (put (a + b))) ∧
    (s.buAt t v layer k 3 = true → Answers (.buAddi t v layer k) s (put (a + imm))) ∧
    (s.buAt t v layer k 4 = true → Answers (.buAnd t v layer k) s (put (a &&& b))) ∧
    (s.buAt t v layer k 5 = true → Answers (.buXor t v layer k) s (put (a ^^^ b))) ∧
    (s.buAt t v layer k 9 = true → Answers (.buMac t v layer k) s fun y => UnitBecomes key s y
      (if fld w 0 0 = 0 then { u with a0 := u.a0 + x, pc := u.pc + 1 } else { u with a1 := u.a1 + x, pc := u.pc + 1 })) ∧
    (s.buAt t v layer k 10 = true → Answers (.buClr t v layer k) s fun y => UnitBecomes key s y
      (if fld w 0 0 = 0 then { u with a0 := 0, pc := u.pc + 1 } else { u with a1 := 0, pc := u.pc + 1 })) ∧
    (s.buAt t v layer k 11 = true → Answers (.buBlt t v layer k) s (jump (a.toNat < b.toNat))) ∧
    (s.buAt t v layer k 12 = true → Answers (.buBne t v layer k) s (jump (a ≠ b))) ∧
    (s.busRuns t v = true → layer < 10 → k < 4 → (s.vault t v).owesFour (2 * k + u.bank) = false → ∀ e ∈ rows,
      (s.buAt t v layer k e.2 = true ↔ u.ready = false ∧ u.held = false ∧ fld w 31 27 = e.2)) ∧
    (∀ e ∈ rows, s.buAt t v layer k e.2 = false → exec e.1 s = .next s)) ∧
  (∀ (t v layer k : Nat) (s : State) (p : Place),
    let key := unitKey t v layer k
    let u := s.unit key
    let w := tget 0x70000000#32 u.store u.pc.toNat
    let d := nth u.h (fld w 26 24) 0
    let c := fld (nth u.h (fld w 23 21) 0) 7 0
    let at' := fun (ly i : Nat) => lineKey p.tile p.vault p.line + 8 * ly + 2 * i
    let sym := fun (x : State) (ly i : Nat) => BitVec.ofNat 16 (ofBytes (memRead x.mem (at' ly i) 2))
    let next := { u with pc := u.pc + 1 }
    let stored := fun (on : Nat → Prop) (y : State) => y.unit key = next ∧ (∀ j, j ≠ key → y.unit j = s.unit j) ∧
      (∀ i, i < 4 → on i → sym y layer i = d) ∧
      (∀ a, (∀ i, i < 4 → on i → a < at' layer i ∨ at' layer i + 2 ≤ a) →
        (s.dev.state ≠ .boot → a < at' 8 0 ∨ at' 8 0 + 16 ≤ a) → memGet y.mem a = memGet s.mem a) ∧
      (s.dev.state ≠ .boot → (∀ i, i < 4 → sym y 8 i = 0xFFFF ∧ sym y 9 i = 0xFFFF) ∧
        (y.vault t v).rawRows = insertNat (p.bs * 16384 + p.row) (s.vault t v).rawRows)
    let drops := fun (y : State) => y.unit key = { next with stdrop := true } ∧ (∀ j, j ≠ key → y.unit j = s.unit j) ∧
      (y.vault t v).stdrop = BitVec.ofNat 16 (min 0xFFFF ((s.vault t v).stdrop.toNat + 1)) ∧ y.mem = s.mem
    let stop := fun (bad : Bool) (y : State) => ∃ pc, UnitBecomes key { s with free := s.free + 1 } y
      { u with ready := true, pc := pc, badop := bad }
    (s.reachCol t v layer k c = some p →
      (s.buAt t v layer k 6 = true → Answers (.buLd t v layer k) s fun y => UnitBecomes key s y
        { next with h := u.h.set (fld w 26 24) (sym s layer (fld w 17 16)) }) ∧
      (s.buAt t v layer k 13 = true →
        ((∀ i, i < 4 → sym s layer i = d) → Answers (.buChk t v layer k) s fun y => UnitBecomes key s y next) ∧
        ((∃ i, i < 4 ∧ sym s layer i ≠ d) → Answers (.buChk t v layer k) s fun y => UnitBecomes key s y
          { next with fail := true, fcol := if u.fail then u.fcol else BitVec.ofNat 8 c })) ∧
      (Memory.wf s.mem = true → layer < 8 ∧ (s.vault t v).erased = none ∨ s.dev.state = .boot →
        (s.buAt t v layer k 7 = true → Answers (.buSt t v layer k) s (stored (· = fld w 17 16))) ∧
        (s.buAt t v layer k 8 = true → Answers (.buStc t v layer k) s (stored fun _ => True)))) ∧
    (s.reachCol t v layer k c = none →
      (s.buAt t v layer k 6 = true → Answers (.buLd t v layer k) s fun y => UnitBecomes key s y
        { next with h := u.h.set (fld w 26 24) 0 }) ∧
      (s.buAt t v layer k 13 = true → Answers (.buChk t v layer k) s fun y => UnitBecomes key s y next) ∧
      (s.buAt t v layer k 7 = true → Answers (.buSt t v layer k) s drops) ∧
      (s.buAt t v layer k 8 = true → Answers (.buStc t v layer k) s drops)) ∧
    (s.reachCol t v layer k c = some p → s.dev.state ≠ .boot → 8 ≤ layer ∨ (s.vault t v).erased.isSome = true →
      (s.buAt t v layer k 7 = true → Answers (.buSt t v layer k) s drops) ∧
      (s.buAt t v layer k 8 = true → Answers (.buStc t v layer k) s drops)) ∧
    (s.buAt t v layer k 14 = true → Answers (.buHalt t v layer k) s (stop u.badop)) ∧
    (s.buAt t v layer k (fld w 31 27) = true → 15 ≤ fld w 31 27 → Answers (.buReservedOpcode t v layer k) s (stop true)))

/-- R265, R266, R261, R212: a frame acts, by the command in its header, on the units that its LAYER, PAIR and ALLP address
and on no other, and counts at the bank bus's crossings; LOAD and START on units that are not all ready, SPARE outside
BOOT and a reserved frame have no effect on the units and are counted in BADCMD; a header of another command is none of
its frames.
R266, R267, R212: what a frame answers: RDREG and RDACC the OR of the addressed units' values, POLL the AND of READY
and the OR of the flags, with PC and FCOL of the lowest layer; where no unit is addressed the words read 0. Nothing
changes but the bank bus's two crossings, which count the frame and its response. -/
def Obligations.BankBus : Prop :=
  (∀ (t v : Nat) (hdr w1 w2 w3 : BitVec 16) (s : State),
    let sel := fun (l k : Nat) => l < 10 ∧ k < 4 ∧ (fld hdr 11 8 = 15 ∨ fld hdr 11 8 = l) ∧ (tst hdr 5 = true ∨ fld hdr 7 6 = k)
    let arg := fld hdr 4 0
    let sent := busFrames s t v 1 0
    let does := fun (f : BankUnit → BankUnit) (y : State) =>
      (∀ l k, sel l k → y.unit (unitKey t v l k) = f (s.unit (unitKey t v l k))) ∧
      (∀ j, (∀ l k, sel l k → j ≠ unitKey t v l k) → y.unit j = s.unit j) ∧ y = { sent with units := y.units }
    let counted := fun (y : State) => VaultBecomes t v sent y
      { s.vault t v with badcmd := BitVec.ofNat 16 (min 0xFFFF ((s.vault t v).badcmd.toNat + 1)) }
    let rows : List (Instr × Nat) := [(.buIdle t v hdr, 0x0), (.buLoad t v hdr w1 w2 w3, 0x1), (.buStart t v hdr w1 w2, 0x2),
      (.buPoll t v hdr, 0x3), (.buRdreg t v hdr, 0x4), (.buRdacc t v hdr, 0x5), (.buWrreg t v hdr w1, 0x6), (.buHold t v hdr, 0x7),
      (.buResume t v hdr, 0x8), (.buReset t v hdr, 0x9), (.buSpare t v hdr w1 w2, 0xA)]
    s.busRuns t v = true →
    ((∀ l k, sel l k → (s.unit (unitKey t v l k)).ready = true) →
      (fld hdr 15 12 = 0x1 → Answers (.buLoad t v hdr w1 w2 w3) s (does fun u => { u with
        store := tset 0x70000000 u.store (fld w1 5 0) (BitVec.ofNat 32 (w2.toNat + w3.toNat * 2 ^ 16)) })) ∧
      (fld hdr 15 12 = 0x2 → Answers (.buStart t v hdr w1 w2) s (does fun u => { u with
        a0 := if arg.testBit 1 then 0 else u.a0, a1 := if arg.testBit 1 then 0 else u.a1
        h := if arg.testBit 2 then (u.h.set 0 w1).set 1 w2 else u.h
        bank := arg % 2, fail := false, fcol := 0, badop := false, stdrop := false, pc := 0, ready := false }))) ∧
    (∀ l k, sel l k → (s.unit (unitKey t v l k)).ready = false →
      (fld hdr 15 12 = 0x1 → Answers (.buLoad t v hdr w1 w2 w3) s counted) ∧
      (fld hdr 15 12 = 0x2 → Answers (.buStart t v hdr w1 w2) s counted)) ∧
    (fld hdr 15 12 = 0x6 → Answers (.buWrreg t v hdr w1) s (does fun u => if arg.testBit 3
      then (if arg % 2 = 0 then { u with a0 := 0 } else { u with a1 := 0 }) else { u with h := u.h.set (arg % 8) w1 })) ∧
    (fld hdr 15 12 = 0x7 → Answers (.buHold t v hdr) s (does fun u => { u with held := u.held || !u.ready })) ∧
    (fld hdr 15 12 = 0x8 → Answers (.buResume t v hdr) s (does fun u => { u with held := false })) ∧
    (fld hdr 15 12 = 0x9 → Answers (.buReset t v hdr) s
      (does fun u => { BankUnit.reset with store := u.store, repair := u.repair })) ∧
    (fld hdr 15 12 = 0xA → s.dev.state = .boot → Answers (.buSpare t v hdr w1 w2) s fun y =>
      (∀ l k, sel l k → ∃ rep, y.unit (unitKey t v l k) = { s.unit (unitKey t v l k) with repair := rep } ∧
        ∀ i, tget 0 rep i = if i = 32 * fld hdr 0 0 + fld w2 4 0 then BitVec.ofNat 15 (fld w1 13 0 + fld w2 15 15 * 2 ^ 14)
          else tget 0 (s.unit (unitKey t v l k)).repair i) ∧
      (∀ j, (∀ l k, sel l k → j ≠ unitKey t v l k) → y.unit j = s.unit j) ∧
      y = { sent with units := y.units, vaults := y.vaults } ∧
      (∃ n, y.vault t v = { s.vault t v with usedSpares := n }) ∧
      ∀ j, j ≠ 64 * t + v → tget Vault.reset y.vaults j = tget Vault.reset s.vaults j) ∧
    (fld hdr 15 12 = 0xA → s.dev.state ≠ .boot → Answers (.buSpare t v hdr w1 w2) s counted) ∧
    (0xB ≤ fld hdr 15 12 → Answers (.buReservedFrame t v hdr) s counted) ∧
    (fld hdr 15 12 = 0x0 → exec (.buIdle t v hdr) s = .next sent) ∧
    (∀ e ∈ rows, fld hdr 15 12 ≠ e.2 → exec e.1 s = .next s) ∧ (fld hdr 15 12 < 0xB → exec (.buReservedFrame t v hdr) s = .next s)) ∧
  (∀ (t v : Nat) (hdr : BitVec 16) (s : State),
    let sel := fun (l k : Nat) => l < 10 ∧ k < 4 ∧ (fld hdr 11 8 = 15 ∨ fld hdr 11 8 = l) ∧ (tst hdr 5 = true ∨ fld hdr 7 6 = k)
    let some' := fun (p : BankUnit → Prop) => ∃ l k, sel l k ∧ p (s.unit (unitKey t v l k))
    let key := fun (i : Nat) => xkey (32 + 64 * t + v) i
    let gives := fun (ws : List (BitVec 16)) (y : State) => y = { s with out := s.out ++ [.bus ws], xings := y.xings } ∧
      (∀ j, j ≠ key 0 → j ≠ key 1 → y.xing j = s.xing j) ∧
      ∀ i, i < 2 → y.xing (key i) = { s.xing (key i) with sent := (s.xing (key i)).sent + 1, taken := (s.xing (key i)).taken + 1 }
    s.busRuns t v = true →
    (fld hdr 15 12 = 0x4 → Answers (.buRdreg t v hdr) s (fun y => ∃ w : BitVec 16, gives [w] y ∧
      ∀ i, i < 16 → (w.getLsbD i = true ↔ some' fun u => (nth u.h (fld hdr 2 0) 0).getLsbD i = true))) ∧
    (fld hdr 15 12 = 0x5 → Answers (.buRdacc t v hdr) s (fun y => ∃ w0 w1 w2 : BitVec 16, gives [w0, w1, w2] y ∧
      ∀ i, i < 16 →
        (w0.getLsbD i = true ↔ some' fun u => (if fld hdr 0 0 = 0 then u.a0 else u.a1).getLsbD i = true) ∧
        (w1.getLsbD i = true ↔ some' fun u => (if fld hdr 0 0 = 0 then u.a0 else u.a1).getLsbD (16 + i) = true) ∧
        (w2.getLsbD i = true ↔ some' fun u => (if fld hdr 0 0 = 0 then u.a0 else u.a1).getLsbD (32 + i) = true))) ∧
    (fld hdr 15 12 = 0x3 → ¬some' (fun _ => True) → Answers (.buPoll t v hdr) s (gives [0, 0])) ∧
    (fld hdr 15 12 = 0x3 → some' (fun _ => True) → Answers (.buPoll t v hdr) s fun y => ∃ w0 w1 : BitVec 16, gives [w0, w1] y ∧
      (w0.getLsbD 15 = true ↔ ¬some' fun u => u.ready = false) ∧ (w0.getLsbD 14 = true ↔ some' fun u => u.held = true) ∧
      (w0.getLsbD 13 = true ↔ some' fun u => u.fail = true) ∧ (w0.getLsbD 12 = true ↔ some' fun u => u.badop = true) ∧
      (w0.getLsbD 11 = true ↔ some' fun u => u.stdrop = true) ∧
      (∀ l k, sel l k → tst hdr 5 = false → (∀ l', sel l' k → l ≤ l') →
        fld w0 5 0 = (s.unit (unitKey t v l k)).pc.toNat ∧
        ((s.unit (unitKey t v l k)).fail = true → w1.toNat = (s.unit (unitKey t v l k)).fcol.toNat))))

/-- R268, R266, R270, R276: when a group's READY line rises its kernel is over, and the sums of layers 0 to 7 are taken
into its block when the job reports results; the next kernel starts with H0 at the run's first column and H1 behind its
last, on its bank stack, held while that stack owes a refresh at once or a slot lasts; with none left, or after HALT,
the group is idle. A kernel at its limit is stopped by RESET and counted in KSTOP. -/
def Obligations.BankKernels : Prop :=
  ∀ (t v k : Nat) (s : State) (l : Long) (blocks : List (Nat × Nat × Nat × Bool)) (bs row lo hi : Nat)
    (kern : Nat × Nat × Nat × Nat) (more : List (Nat × Nat × Nat × Nat)),
    let x := s.vault t v
    let hold := nth x.refreshing bs false || x.calSlot || x.owesFour bs || x.neighbourDue bs
    let started := fun (y : State) => (y.vault t v).kernels = x.kernels.set k (some (bs, row, lo, hi)) ∧
      (y.vault t v).todo = x.todo.set k more ∧
      nth (y.vault t v).openRow bs none = (if hold then nth x.openRow bs none else some row) ∧
      ∀ layer, layer < 10 → ∃ u : BankUnit, y.unit (unitKey t v layer k) = u ∧ u.ready = false ∧ u.held = hold ∧ u.pc = 0 ∧
        u.bank = bs % 2 ∧ nth u.h 0 0 = BitVec.ofNat 16 lo ∧ nth u.h 1 0 = BitVec.ofNat 16 (hi + 1) ∧
        (jobB l.pkt ≠ 0 → u.a0 = 0 ∧ u.a1 = 0) ∧ u.store = (s.unit (unitKey t v layer k)).store
    let total := fun (i : Nat) => ((List.range 8).map fun ly => (s.unit (unitKey t v ly k)).acc i).sum
    let took := fun (stopped : Bool) (y : State) => ∃ l', y.dev.job = some (l', if jobB l.pkt = 0 then blocks
        else addBlock blocks (s.kernelBlock l t v kern) (if stopped then 0 else total 0) (if stopped then 0 else total 1) stopped) ∧
      l' = { l with w0 := l'.w0, w1 := if stopped then l.w1 + 1 else l.w1 }
    s.busRuns t v = true → k < 4 → nth x.kernels k none = some kern → s.dev.job = some (l, blocks) →
    x.kernels.length = 4 → x.todo.length = 4 → x.openRow.length = 8 → bs < 8 →
    (∀ layer, layer < 10 → (s.unit (unitKey t v layer k)).h.length = 8) →
    (nth x.todo k [] = (bs, row, lo, hi) :: more → s.dev.jobStop = false →
      (s.allReady (groupUnits t v k) = true → Answers (.groupReadyRise t v k) s fun y => started y ∧ took false y) ∧
      (s.allReady (groupUnits t v k) = false → Answers (.kernelLimit t v k) s fun y => started y ∧ took true y ∧
        (y.vault t v).kstop = BitVec.ofNat 16 (min 0xFFFF (x.kstop.toNat + 1)))) ∧
    (nth x.todo k [] = [] ∨ s.dev.jobStop = true →
      (s.allReady (groupUnits t v k) = true → Answers (.groupReadyRise t v k) s fun y =>
        y.vault t v = { x with kernels := x.kernels.set k none } ∧ took false y ∧ y.units = s.units ∧ SameMem s y) ∧
      (s.allReady (groupUnits t v k) = false → Answers (.kernelLimit t v k) s fun y =>
        y.vault t v = { x with kernels := x.kernels.set k none, kstop := BitVec.ofNat 16 (min 0xFFFF (x.kstop.toNat + 1)) } ∧
        took true y ∧ SameMem s y ∧ ∀ layer, layer < 10 → y.unit (unitKey t v layer k) = { BankUnit.reset with
          store := (s.unit (unitKey t v layer k)).store, repair := (s.unit (unitKey t v layer k)).repair }))

/-! ## Host ports -/

/-- R298, R294, R454: a link-loss event on a port that is up or trained starts its link-loss reset with the code of the table
*Link-loss reasons*; PERST holds a port in reset until it is released. Nothing else changes.
R285, R298, R374: BME_CLEARED, HOST_SLOW on a request that was sent and a recovery that ends below what BOOK found,
whether or not it lowered the link, post HOST_LINK_LOST with their reasons and halt a running step, and reset nothing;
so does the revocation of a locked translation. BME_CLEARED ends every request that was not sent. -/
def Obligations.HostLinkLosses : Prop :=
  (∀ (x : Nat) (s : State),
    let p := s.port x
    let meets := fun (i : Instr) (why : Nat) => Answers i s fun t => PortBecomes x s t
      { p with losing := some why, lastWhy := BitVec.ofNat 4 why, recovering := false }
    x < 2 →
    (s.awake = true → p.up = true ∨ p.rate ≠ 0 → p.losing = none →
      meets (.hostLinkDown x) 1 ∧ meets (.hotReset x) 2 ∧ meets (.flr x) 3 ∧ meets (.d3hot x) 4 ∧
      (p.recovering = true → meets (.recoveryLong x) 5) ∧
      (∀ c, p.recovering = false → p.lastRecovery = some c → s.cycles (.host x) < c + 2000000 → meets (.recoveryRepeat x) 6) ∧
      (p.bisnp ≠ [] → meets (.recallTimeout x) 7) ∧
      Answers (.perstAssert x) s fun t => PortBecomes x s t
        { p with losing := some 1, lastWhy := 1, recovering := false, perst := true }) ∧
    (p.up = false ∧ p.rate = 0 ∨ p.losing.isSome = true → Answers (.perstAssert x) s fun t =>
      PortBecomes x s t { p with perst := true }) ∧
    Answers (.perstRelease x) s fun t => PortBecomes x s t { p with perst := false }) ∧
  (∀ (x width rate log2 : Nat) (page : BitVec 45) (s : State),
    let p := s.port x
    let lost := fun (i : Instr) (why : BitVec 4) => Answers i s fun t =>
      (t.port x).lastWhy = why ∧ (t.port x).up = true ∧ (t.port x).losing = none ∧ (t.port x).filter = p.filter ∧
      t.dev.faultSeq = nextFaultSeq s.dev.faultSeq ∧ t.dev.plan = s.dev.plan ∧ SameMem s t ∧
      t.dev.state = if s.dev.state = .running then .halted else s.dev.state
    x < 2 → s.awake = true → p.up = true → p.losing = none → p.perst = false →
    (p.recovering = false →
      (p.bme = true → lost (.bmeCleared x) 9 ∧ Answers (.bmeCleared x) s fun t => (t.port x).bme = false ∧
        (t.port x).hostRqs = p.hostRqs.filter (·.sent)) ∧
      (s.planBooked = true → (∃ e ∈ p.hostRqs, e.sent = true) → lost (.hostSlow x) 0xB) ∧
      ((p.atsEn = true → ∀ e ∈ p.hostRqs, e.sent = true → pagesMeet (e.rq.da % 2 ^ 45) 6 page.toNat log2 = false) →
        (∃ e ∈ p.atc, e.locked = true ∧ pagesMeet e.page.toNat e.log2 page.toNat log2 = true) →
        lost (.atsInvalidation x page log2) 8)) ∧
    (p.recovering = true → s.planBooked = true → p.cxlCache = false ∨ 5 ≤ rate →
      width = 4 ∨ width = 8 ∨ width = 16 → width ≤ p.width → 1 ≤ rate → rate ≤ p.rate → width < p.bookWidth ∨ rate < p.bookRate →
        lost (.downtrained x width rate) 0xA) ∧
    (p.recovering = true → s.planBooked = true → p.cxlCache = false ∨ 5 ≤ p.rate → p.width < p.bookWidth ∨ p.rate < p.bookRate →
      lost (.hostLinkRecoveryDone x) 0xA))

/-- R280, R281, R296, R298, R297: a port comes up with CXL.cache and CXL.mem only where its partner offers them at 32 or
64 GT/s, in GREY as HP0 alone, x4 and at most 16 GT/s; a recovery holds its requests, is counted, and sends them when it
ends; one that ends narrower or slower leaves the port so, and below 32 GT/s without CXL.cache and CXL.mem (the model's
choice, log entry 163). A message due within a hold-off is sent when it ends.
R299, R24: a link-loss reset ends the port's requests, empties its caches, snoop filter, translations, decoders,
rings, MSI-X table and BARs, counts the loss and halts a running step; the other port's link, device memory, the booked plan
and otherwise the device state stay. -/
def Obligations.HostLinkStatesAndReset : Prop :=
  (∀ (x v width rate : Nat) (lnk : HostLinkEnv) (s : State),
    let p := s.port x
    let grey := decide (s.dev.state = .grey)
    let cache := lnk.cxlFlit && decide (5 ≤ lnk.rate) && !grey
    let asBooked := fun (w r : Nat) => s.planBooked = false ∨ p.bookWidth ≤ w ∧ p.bookRate ≤ r
    x < 2 → s.awake = true → p.losing = none → p.perst = false →
    ((p.up = true → p.bme = false) → (grey = true → x = 0) → lnk.width = 4 ∨ lnk.width = 8 ∨ lnk.width = 16 →
      1 ≤ lnk.rate → lnk.rate ≤ 6 →
      Answers (.hostLinkUp x lnk) s fun t => PortBecomes x s t { p with
        up := true, bme := true, rate := if grey then min 4 lnk.rate else lnk.rate, width := if grey then 4 else lnk.width
        lowLat := lnk.lowLat, cxlCache := cache, cxlMem := cache && lnk.backInv, recovering := false, bars := lnk.bars
        peers := lnk.peers }) ∧
    (p.up = true → p.recovering = false → (∀ c, p.lastRecovery = some c → c + 2000000 ≤ s.cycles (.host x)) →
      Answers (.hostLinkRecoveryStart x) s fun t =>
        PortBecomes x s t { p with recovering := true, lastRecovery := some (s.cycles (.host x)) }) ∧
    (p.recovering = true →
      (p.cxlCache = false ∨ 5 ≤ p.rate → p.heldMsix = List.replicate 8 (false, false) → (∀ e ∈ p.hostRqs, e.sent = true) →
        asBooked p.width p.rate → Answers (.hostLinkRecoveryDone x) s fun t => PortBecomes x s t
          { p with recovering := false, recov := BitVec.ofNat 16 (min 0xFFFF (p.recov.toNat + 1)) }) ∧
      Answers (.hostLinkRecoveryDone x) s (fun t => (t.port x).recovering = false ∧ ∀ e ∈ p.hostRqs, p.sendable e.rq = true →
        ∃ e' ∈ (t.port x).hostRqs, e'.rq = e.rq ∧ e'.sent = true) ∧
      (width = 4 ∨ width = 8 ∨ width = 16 → width ≤ p.width → 1 ≤ rate → rate ≤ p.rate →
        (p.cxlCache = false ∨ 5 ≤ rate → p.heldMsix = List.replicate 8 (false, false) → (∀ e ∈ p.hostRqs, e.sent = true) →
          asBooked width rate → Answers (.downtrained x width rate) s fun t => PortBecomes x s t { p with
            width := width, rate := rate, recovering := false, recov := BitVec.ofNat 16 (min 0xFFFF (p.recov.toNat + 1)) }) ∧
        (p.cxlCache = true → rate < 5 → p.heldRqs = [] → asBooked width rate → Answers (.downtrained x width rate) s fun t =>
          (t.port x).cxlCache = false ∧ (t.port x).cxlMem = false ∧ (t.port x).cache = [] ∧ (t.port x).filter = [] ∧
          (t.port x).width = width ∧ (t.port x).rate = rate))) ∧
    (nth p.heldMsix v (false, false) = (true, false) → Answers (.msixHoldoffExpiry x v) s fun t =>
      PortBecomes x s t { p with heldMsix := p.heldMsix.set v (false, false) }) ∧
    (nth p.heldMsix v (false, false) = (true, true) → p.recovering = true → Answers (.msixHoldoffExpiry x v) s fun t =>
      PortBecomes x s t { p with heldMsix := p.heldMsix.set v (false, true) }) ∧
    (nth p.heldMsix v (false, false) = (true, true) → p.up = true → p.bme = true → p.recovering = false →
      nth p.masked v true = false → v < p.heldMsix.length → Answers (.msixHoldoffExpiry x v) s fun t =>
        t.out = s.out ++ [.msix x v] ∧ t = { s with out := t.out, ports := t.ports } ∧ (∀ j, j ≠ x → t.port j = s.port j) ∧
        t.port x = { p with heldMsix := p.heldMsix.set v (decide (p.holdoff ≠ 0), false) })) ∧
  (∀ (x why : Nat) (s : State),
    x < 2 → s.awake = true → (s.port x).losing = some why →
    Answers (.linkLossReset x) s fun t =>
      let p := t.port x
      p.up = false ∧ p.bme = false ∧ p.losing = none ∧ p.recovering = false ∧ p.hostRqs = [] ∧ p.heldRqs = [] ∧ p.cache = [] ∧
      p.filter = [] ∧ p.bisnp = [] ∧ p.waitBi = [] ∧ p.recallWait = [] ∧ p.atc = [] ∧ p.atsReqs = [] ∧ p.pageReqs = [] ∧
      p.pageWait = [] ∧ p.bars = [0, 0, 0] ∧ p.hdm = [none, none] ∧ p.cmd.en = false ∧ (∀ a ∈ t.dev.arrivals, a ≠ .slot x) ∧
      p.stat.en = false ∧ p.fault.en = false ∧ p.masked = List.replicate 8 true ∧ p.pendingMsix = List.replicate 8 false ∧
      p.losses = BitVec.ofNat 8 (min 0xFF ((s.port x).losses.toNat + 1)) ∧
      (t.port (1 - x)).up = (s.port (1 - x)).up ∧ SameMem s t ∧ t.dev.plan = s.dev.plan ∧
      t.dev.state = if s.dev.state = .running then .halted else s.dev.state)

/-- R284, R286, R287, R288, R295: a write is acknowledged once the host has observed it, and lands in its bytes alone; read
data is passed on, and a line that the port keeps is kept; a snoop is answered with the data of a modified line, leaves
no modified line behind and an invalidation no line. An invalidated translation is gone; a granted one is kept and the
requests that waited for it are sent; one not granted is asked for through PRI, at most 256 pages at a time, and after
the page's success once more; where the page is refused the requests that wait for it end. -/
def Obligations.HostAnswers : Prop :=
  ∀ (x id log2 : Nat) (poison inv : Bool) (data : Line) (page : BitVec 45) (addr hpa : BitVec 52) (s : State) (r : Rq),
    let p := s.port x
    let a := s.hostPhys x (r.da % 2 ^ 45)
    let key := 2 ^ 52 * x + a % 2 ^ 52
    let line := addr.toNat / 64 * 64
    let gone := fun (l : List (BitVec 45)) => l.filter fun g => decide (g ≠ page)
    let pid := if p.pasidEn then some p.pasid else none
    s.portUp x = true →
    (p.rqOf id = some r → p.hasSent id = true → Memory.wf s.hostMem = true →
      (r.kind ≠ .read → Answers (.hostGoReceive x id) s fun t =>
        (t.port x).hostRqs = p.hostRqs.filter (fun h => decide (h.rq.id ≠ id)) ∧
        (∀ i, i < 64 → memGet t.hostMem (key + i) = if r.mask.getLsbD i then byteAt r.data i else memGet s.hostMem (key + i)) ∧
        (∀ j, j < key ∨ key + 64 ≤ j → memGet t.hostMem j = memGet s.hostMem j) ∧ SameMem s t) ∧
      (r.kind = .read → Answers (.hostDataReceive x id data poison) s fun t =>
        (t.port x).hostRqs = p.hostRqs.filter (fun h => decide (h.rq.id ≠ id)) ∧
        (s.keeps r = true → p.cxlCache = true → poison = false → p.peerAt a = false → ∃ e ∈ (t.port x).cache, e.1 = a) ∧
        (s.keeps r = false ∨ p.peerAt a = true → (t.port x).cache = p.cache) ∧
        (∀ i, i < 64 → memGet t.hostMem (key + i) = byteAt data i) ∧
        (∀ j, j < key ∨ key + 64 ≤ j → memGet t.hostMem j = memGet s.hostMem j) ∧ SameMem s t)) ∧
    Answers (.hostSnoop x addr inv) s (fun t => (∀ e ∈ (t.port x).cache, e.1 = line → inv = false ∧ e.2 = false) ∧
      (∃ l, t.out = s.out ++ l ++ [.snoopRsp x
        (if p.cache.any fun e => decide (e.1 = line) && e.2 then some (memLine s.hostMem (2 ^ 52 * x + line)) else none)]) ∧
      (∀ e ∈ p.cache, e.1 ≠ line → e ∈ (t.port x).cache) ∧ SameMem s t) ∧
    ((p.atsEn = true → ∀ e ∈ p.hostRqs, e.sent = true → pagesMeet (e.rq.da % 2 ^ 45) 6 page.toNat log2 = false) →
      (∀ e ∈ p.atc, e.locked = true → pagesMeet e.page.toNat e.log2 page.toNat log2 = false) →
      Answers (.atsInvalidation x page log2) s fun t => t.out = s.out ++ [.snoopRsp x none] ∧
        t.port x = { p with atc := p.atc.filter fun e => !pagesMeet e.page.toNat e.log2 page.toNat log2 } ∧
        (∀ j, j ≠ x → t.port j = s.port j) ∧ t = { s with out := t.out, ports := t.ports }) ∧
    (p.atsReqs.contains page = true →
      (p.atc.length < 4096 → 12 ≤ log2 → log2 ≤ 30 → Answers (.pageRequestResponse x page log2 true hpa) s fun t =>
        (t.port x).atc = p.atc ++
          [{ page := BitVec.ofNat 45 (page.toNat / 2 ^ log2 * 2 ^ log2), log2 := log2, hpa := hpa, locked := false }] ∧
        (∀ e ∈ p.hostRqs, page.toNat / 2 ^ log2 = e.rq.da % 2 ^ 45 / 2 ^ log2 → ∃ e' ∈ (t.port x).hostRqs, e'.rq = e.rq ∧ e'.sent = true) ∧
        (∀ j, j ≠ x → t.port j = s.port j) ∧ t = { s with out := t.out, ports := t.ports }) ∧
      (p.pageReqs.length < 256 → Answers (.pageRequestResponse x page log2 false hpa) s fun t =>
        t.out = s.out ++ [.pageReq x page pid] ∧ t.port x = { p with atsReqs := gone p.atsReqs, pageReqs := p.pageReqs ++ [page] } ∧
        (∀ j, j ≠ x → t.port j = s.port j) ∧ t = { s with out := t.out, ports := t.ports }) ∧
      (256 ≤ p.pageReqs.length → Answers (.pageRequestResponse x page log2 false hpa) s fun t =>
        PortBecomes x s t { p with atsReqs := gone p.atsReqs, pageWait := p.pageWait ++ [page] })) ∧
    (p.atsReqs.contains page = false → p.pageReqs.contains page = true → (gone p.pageReqs).length < 256 →
      (p.bme = true → page ∉ p.pageWait → Answers (.pageRequestResponse x page log2 true hpa) s fun t =>
        t.out = s.out ++ (p.pageWait.take 1).map (fun g => .pageReq x g pid) ++ [.atsReq x page pid] ∧
        t.port x = { p with atsReqs := p.atsReqs ++ [page], pageReqs := gone p.pageReqs ++ p.pageWait.take 1, pageWait := p.pageWait.tail } ∧
        (∀ j, j ≠ x → t.port j = s.port j) ∧ t = { s with out := t.out, ports := t.ports }) ∧
      Answers (.pageRequestResponse x page log2 false hpa) s fun t =>
        (t.port x).pageReqs = gone p.pageReqs ++ p.pageWait.take 1 ∧ (t.port x).pageWait = p.pageWait.tail ∧
        (t.port x).hostRqs = (p.hostRqs.filter fun e => e.sent || decide (e.rq.page ≠ page)) ∧ (t.port x).atc = p.atc ∧ SameMem s t)

/-- R289, R290, R291, R293, R295, R219: a host or peer access to a line fenced by the plan is answered at once, a read with
poison, a write without effect, and counted; during a map commit it is held, and so is a read whose set of the filter is
full, while a line of the set is recalled; else it goes on its way to its vault, and a CXL.mem read enters the filter. A
host's answer to a BISnpInv takes the line out of the filter, dirty data being written first. A decoder is committed
only inside stacked memory and clear of the other port's. -/
def Obligations.HostRequests : Prop :=
  ∀ (x d a victim : Nat) (hpa : BitVec 52) (da : Da) (mask : BitVec 64) (data : Line) (poison : Bool) (dec : HdmDecoder)
    (s : State) (pl : Place) (k : Nat) (rest : List Nat),
    let p := s.port x
    let l := da.toNat / 64 * 64
    let ops : List (Instr × Owner × RqKind) := [(.hostCxlmemRead x hpa, .host x, .read), (.hostCxlmemWrite x hpa mask data poison, .host x, .write),
      (.uioInbound x (.read hpa), .bar x 0 64, .read), (.uioInbound x (.write hpa mask data), .bar x 0 64, .write)]
    s.portUp x = true →
    (p.cxlMem = true → p.decode hpa.toNat = some a → ∀ e ∈ ops,
      (s.fencedByPlan a = true → Answers e.1 s fun t =>
        t.out = s.out ++ [if e.2.2 = .read then .data (BitVec.allOnes 512) true else .done true] ∧
        (t.port x).fenced = BitVec.ofNat 16 (min 0xFFFF (p.fenced.toNat + 1)) ∧ (t.port x).filter = p.filter ∧ SameMem s t) ∧
      (s.fencedByPlan a = false → s.dev.mapBusy = true → Answers e.1 s fun t => ∃ r : Rq,
        r.own = e.2.1 ∧ r.kind = e.2.2 ∧ r.da = a ∧
        PortBecomes x { s with nextRq := s.nextRq + 1 } t { p with heldRqs := p.heldRqs ++ [r] }) ∧
      (s.fencedByPlan a = false → s.dev.mapBusy = false → s.entering a = false → a < s.stackedTop →
        (p.victim a = none ∨ e.2.1 ≠ .host x ∨ e.2.2 ≠ .read → Answers e.1 s fun t =>
          t.nextRq = s.nextRq + 1 ∧ SameMem s t ∧ (t.port x).heldRqs = p.heldRqs ∧
          ((t.port x).filter = if e.2.1 = .host x ∧ e.2.2 = .read then dropNat a p.filter ++ [a] else p.filter) ∧
          (s.place a = some pl → s.inBankMode a = false → s.vaultUsable pl.tile pl.vault = true →
            s.path (.hostPort x) (.vault pl.tile pl.vault) = some (k :: rest) → s.deadXing k = false → ∃ r : Rq,
              r.own = e.2.1 ∧ r.kind = e.2.2 ∧ r.da = a ∧ r.tile = pl.tile ∧ r.vault = pl.vault ∧ r.line = pl.line ∧
              (e.2.2 = .write → r.mask = mask ∧ r.data = data) ∧
              (t.xing k).fifo ++ (t.xing k).back = (s.xing k).fifo ++ (s.xing k).back ++ [(.rq r, rest)])) ∧
        (p.victim a = some victim → victim % 64 = 0 → e.2.1 = .host x → e.2.2 = .read → p.bisnp.contains (victim + 1) = false → p.bisnp.length < 256 →
          Answers e.1 s fun t => t.out = s.out ++ [.bisnp x victim true] ∧
            (t.port x).filter = p.filter ∧ (t.port x).bisnp = p.bisnp ++ [victim + 1] ∧
            ∃ r : Rq, r.da = a ∧ r.kind = .read ∧ (t.port x).heldRqs = p.heldRqs ++ [r]))) ∧
    (p.bisnp.contains (l + 1) = true → p.waitBi = [] → p.heldRqs = [] → p.recallWait = [] →
      Answers (.bisnpResponse x da false data) s (fun t => PortBecomes x s t { p with
        filter := dropNat l p.filter, bisnp := p.bisnp.filter fun k => decide (k ≠ l) && decide (k ≠ l + 1) }) ∧
      (s.place l = some pl → s.vaultUsable pl.tile pl.vault = true → Answers (.bisnpResponse x da true data) s fun t =>
        (t.port x).filter = dropNat l p.filter ∧ ∃ r : Rq, r.da = l ∧ r.kind = .write ∧ r.line = pl.line ∧ r.mask = fullMask ∧
          r.data = data ∧ (t.vault pl.tile pl.vault).queue =
            { rq := r, passed := 0, acked := true } :: (s.vault pl.tile pl.vault).queue)) ∧
    (d < 2 → s.hdmOk x dec = true → Answers (.hdmDecoderCommit x d dec) s fun t => t.out = s.out ++ [.done true] ∧
      t.port x = { p with hdm := p.hdm.set d (some dec) } ∧ (∀ j, j ≠ x → t.port j = s.port j) ∧
      t = { s with out := t.out, ports := t.ports }) ∧
    (d < 2 → s.stackedTop < dec.dpaBase + dec.size / max 1 dec.ways ∨ (∃ e ∈ (s.port (1 - x)).hdm, ∃ o, e = some o ∧
        dec.dpaBase < o.dpaBase + o.size / max 1 o.ways ∧ o.dpaBase < dec.dpaBase + dec.size / max 1 dec.ways ∧
        0 < dec.size / max 1 dec.ways ∧ 0 < o.size / max 1 o.ways) →
      Answers (.hdmDecoderCommit x d dec) s fun t => t.out = s.out ++ [.done false] ∧
        t.port x = { p with hdm := p.hdm.set d none })

/-! ## The command protocol -/

/-- R308, R309, R312, R313, R314, R347: the checks of the table *Command checks* in their order, each refusal leaving
everything but its status record; and the table *Commands by state*, DEGRADED as READY. A SELFTEST or CALIBRATE with DEFER
is deferred where that table would refuse it with PLAN_ACTIVE, one at a time. In BOOT, FROZEN and OFF none is taken. The
result words of a refused BOOK are the model's reading (log entry 93). -/
def Obligations.CommandChecks : Prop :=
  ∀ (src : Src) (pkt : BitVec 512) (s : State), ∀ e ∈ commandRows src pkt,
    let p := setFld pkt 7 0 e.2
    let none3 : List Nat := if e.2 = 0x08 then [0xFFFFFFFF, 0xFFFFFFFF, 0xFFFFFFFF] else []
    let refused := fun (st : Nat) => exec e.1 s = .next (reply s src p st none3)
    let no : Option Nat := none
    let states : List (List Nat × List (Option Nat)) := [
      ([0x08], [no, some 5, some 5, some 5, some 5]), ([0x09], [some 0, no, some 5, no, some 0]),
      ([0x0A], [some 0xA, no, some 2, no, some 5]), ([0x0B], [some 0, some 0, no, some 0, no]),
      ([0x10, 0x11, 0x12, 0x23], [no, no, some 5, no, no]), ([0x13, 0x18, 0x20, 0x31], [no, some 5, some 5, some 5, no]),
      ([0x19], [some 8, some 8, some 8, some 8, no]), ([0x1A], [some 5, some 5, some 5, some 5, no]),
      ([0x28, 0x29, 0x41], [no, some 5, some 5, some 5, some 2]),
      ([0x00, 0x01, 0x02, 0x21, 0x22, 0x30, 0x38, 0x39, 0x40, 0x48, 0x4F], [no, no, no, no, no])]
    let column : List (DevState × Nat) := [(.ready, 0), (.degraded, 0), (.booked, 1), (.running, 2), (.halted, 3), (.bank, 4)]
    (s.takes src = false → exec e.1 s = .next s) ∧
    (s.takes src = true →
      (src = .partner → e.2 ∉ [0x20, 0x21, 0x22, 0x23] → refused 7) ∧
      (src ≠ .partner → e.2 ∈ [0x08, 0x0A, 0x30] → Src.code src ≠ s.dev.owner → refused 7) ∧
      ((src = .partner → e.2 ∈ [0x20, 0x21, 0x22, 0x23]) →
        (src ≠ .partner → e.2 ∈ [0x08, 0x0A, 0x30] → Src.code src = s.dev.owner) →
        (e.2 ∉ [0x00, 0x01, 0x02, 0x38, 0x39, 0x21] → (e.2 ∈ [0x48, 0x4F] → pktForce p = false) →
          pktGen p ≠ s.dev.gen.toNat → refused 6) ∧
        (pktGen p = s.dev.gen.toNat →
          (s.dev.long.isSome = true → e.2 ∉ [0x00, 0x01, 0x02, 0x0B, 0x38, 0x39, 0x21, 0x48, 0x4F] → refused 2) ∧
          (s.longBusy = false →
            (s.dev.state = .grey → e.2 ∉ [0x00, 0x01, 0x02, 0x38, 0x39, 0x40, 0x41, 0x4F, 0x48] → refused 0xA) ∧
            (∀ row ∈ states, e.2 ∈ row.1 → ∀ c ∈ column, s.dev.state = c.1 → match nth row.2 c.2 none with
              | none => s.gate src p = none
              | some st =>
                (st = 5 → e.2 ∈ [0x28, 0x29] → (pktFl p).testBit 0 = false) → refused st) ∧
            (e.2 ∈ [0x28, 0x29] → (pktFl p).testBit 0 = true → s.planBooked = true →
              (s.dev.deferred = none → exec e.1 s = .next ((reply s src p 1 []).updDev fun d =>
                { d with deferred := some { src := src, pkt := p, w0 := 0, w1 := 0 } })) ∧
              (s.dev.deferred.isSome = true → s.dev.long = none → refused 2))))))

/-- R304, R315, R297: a status record as a NOP of HP0 posts it: its fields, its lap byte, its CRC, and the ring's next slot;
a record number for each, and without an enabled ring no record. -/
def Obligations.StatusRecords : Prop :=
  ∀ (pkt : BitVec 512) (s : State),
    let p := s.port 0
    let lap := nextLap (tget 0 p.stat.slots p.stat.tail)
    s.takes .hp0 = true → ∃ t, exec (.nop .hp0 pkt) s = .next t ∧ t.dev = { s.dev with recno := s.dev.recno + 1 } ∧
      t.mirror = s.mirror ∧ SameMem s t ∧
      (p.stat.en = false → (s.port 1).stat.en = false → t = s.updDev fun d => { d with recno := d.recno + 1 }) ∧
      (p.live = true → p.stat.en = true → p.stat.tail < p.stat.size →
        (∃ bits : BitVec 512, .record 0 1 p.stat.tail bits ∈ t.out ∧ fld bits 7 0 = 1 ∧ fld bits 15 8 = lap.toNat ∧
          fld bits 31 16 = pktTag pkt ∧ fld bits 39 32 = 0 ∧ fld bits 47 40 = 0 ∧ fld bits 51 48 = s.dev.state.code ∧
          fld bits 55 52 = 0 ∧ fld bits 95 64 = s.dev.gen.toNat ∧ fld bits 127 96 = s.dev.recno.toNat ∧ fld bits 479 128 = 0 ∧
          fld bits 511 480 = (crc32c (bytesOf 60 bits.toNat)).toNat) ∧
        (t.port 0).stat.tail = (p.stat.tail + 1) % p.stat.size ∧ tget 0 (t.port 0).stat.slots p.stat.tail = lap)

/-- R302, R303, R305, R307, R308, R286, R301, R336, R423: enabling a ring sets its slots afresh, and a fault ring enabled
for the first time takes the records held from BOOT; a doorbell through the ring's own port makes slots candidates, which
are taken in the order of their arrival. A slot is read from the host unless the port holds its line; one that passes both
checks is consumed and its command taken, its expected byte going from 0xFF to 0x01; one that fails is read again, and
stops the ring with DOORBELL_EARLY in the end. A partner's packet joins the queue where its CRC matches; those whose turn
has come follow what was taken. -/
def Obligations.CommandRings : Prop :=
  ∀ (x r n : Nat) (slot : BitVec 512) (v : BitVec 32) (s : State),
    let p := s.port x
    let src : Src := if x = 0 then .hp0 else .hp1
    let want := tget 1 p.cmd.slots p.cmd.head
    let h := s.hostPhys x (p.cmd.base.toNat + 64 * p.cmd.head)
    let held := p.cache.any fun e => decide (e.1 = h)
    let got := s.slotLine x slot
    let f := fetchSlot s x slot
    let passes := fld got 15 8 = want.toNat ∧ fld got 511 480 = (crc32c (bytesOf 60 got.toNat)).toNat
    let consumed := fun (i : Instr) => ∃ u, u.port x = { f.port x with
        failing := none
        cmd := { p.cmd with
          head := (p.cmd.head + 1) % p.cmd.size
          slots := tset 1 p.cmd.slots p.cmd.head (if want = 0xFF then 1 else want + 1) } } ∧
      (∀ j, j ≠ x → u.port j = s.port j) ∧
      u = { f with ports := u.ports, dev := { s.dev with arrivals := s.dev.arrivals.erase (.slot x) } } ∧
      exec i s = .next (drainArrivals (command u src got))
    let failed := fun (t : State) => ∃ g, PortBecomes x f t { f.port x with failing := some g }
    let boots := s.dev.faults.filter fun e => decide (fld e.bits 47 44 = DevState.boot.code)
    x < 2 → s.awake = true →
    (p.cmd.en = true → Answers (.hpCmddbWrite x x v) s fun t =>
      t.port x = { p with cmd := { p.cmd with tail := fld v 15 0 % p.cmd.size }, stopped := false } ∧
      (∀ j, j ≠ x → t.port j = s.port j) ∧ (t = { s with ports := t.ports, dev := { s.dev with arrivals := t.dev.arrivals } }) ∧
      (t.dev.arrivals.filter fun e => decide (e = .slot x)).length = (t.port x).cmd.waiting ∧
      t.dev.arrivals.filter (fun e => decide (e ≠ .slot x)) = s.dev.arrivals.filter fun e => decide (e ≠ .slot x)) ∧
    (p.cmd.en = false → Answers (.hpCmddbWrite x x v) s fun t => PortBecomes x s t
      { p with baddb := BitVec.ofNat 16 (min 0xFFFF (p.baddb.toNat + 1)) }) ∧
    (r < 3 → (p.ring r).en = false → 6 ≤ fld v 4 0 → fld v 4 0 ≤ 16 → tst v 31 = true →
      (r = 2 → p.heldPosted = true ∨ p.live = false ∨ boots = []) →
      Answers (.hpRingcfgEnable x r v) s fun t => ((t.port x).ring r).en = true ∧ ((t.port x).ring r).head = 0 ∧
        ((t.port x).ring r).tail = 0 ∧ ((t.port x).ring r).slots = [] ∧ ((t.port x).ring r).log2n.toNat = fld v 4 0 ∧
        ∀ q, q < 3 → q ≠ r → (t.port x).ring q = p.ring q) ∧
    (p.fault.en = false → 6 ≤ fld v 4 0 → fld v 4 0 ≤ 16 → tst v 31 = true → p.heldPosted = false → p.live = true →
      Answers (.hpRingcfgEnable x 2 v) s fun t => (t.port x).heldPosted = true ∧ (t.port x).fault.en = true ∧
        (t.port x).fault.tail = boots.length % 2 ^ fld v 4 0) ∧
    (held = true → f = s ∧ got = memLine s.hostMem (2 ^ 52 * x + h % 2 ^ 52)) ∧
    (held = false → got = slot ∧ .hostReq x (p.readReq h true) h ∈ f.out ∧
      (p.cxlCache = true → p.peerAt h = false → ∃ e ∈ (f.port x).cache, e.1 = h)) ∧
    (s.candidate x = true →
      (p.failing = none → (passes → consumed (.commandSlotConsume x slot)) ∧
        (¬ passes → Answers (.commandSlotConsume x slot) s failed)) ∧
      (p.failing.isSome = true →
        (passes → consumed (.commandSlotReread x slot) ∧ consumed (.doorbellEarly x slot)) ∧
        (¬ passes → Answers (.commandSlotReread x slot) s failed ∧ ∃ w, exec (.doorbellEarly x slot) s = .next (drainArrivals w) ∧
          (w.port x).stopped = true ∧ (w.port x).cmd = p.cmd ∧ (w.port x).failing = none ∧
          w.dev = { s.dev with recno := s.dev.recno + 1, arrivals := s.dev.arrivals.filter fun e => decide (e ≠ .slot x) } ∧
          (w.port x).early = BitVec.ofNat 16 (min 0xFFFF (p.early.toNat + 1))))) ∧
    (∀ m u, takeControl s n 0xD = (some m, u) → m.src = u.mirror.partner.toNat → u.takes .partner = true →
      pktCrcOk (unitsLine m.body) = true → exec (.commandMsg n) s = .next (drainArrivals
        { u with dev := { u.dev with arrivals := u.dev.arrivals ++ [.msg (unitsLine m.body)] } })) ∧
    ((∀ q, s.nextArrival ≠ some (.msg q)) → drainArrivals s = s) ∧
    (∀ q, s.nextArrival = some (.msg q) → ∃ k, drainArrivals s =
      drainMsgs k (command { s with dev := { s.dev with arrivals := s.dev.arrivals.erase (.msg q) } } .partner q)) ∧
    (∀ (u : State) (o : Nat), o < 256 → o ∉ (commandRows src slot).map Prod.snd →
      command u src (setFld slot 7 0 o) = reply u src (setFld slot 7 0 o) 0xA [])

/-- R313, R317, R319, R24, R312, R339: the fast commands post OK with their result words; IDENTIFY and FAULT_READ write
their block first, and post OK once it is acknowledged (R316). HALT stops a running step into
HALTED with a generation more, and leaves a long command running but for BANK_RUN, whose job it asks to stop. -/
def Obligations.FastCommands : Prop :=
  ∀ (src : Src) (pkt : BitVec 512) (s : State),
    let at' := fun (o : Nat) => setFld pkt 7 0 o
    let grey := decide (s.dev.state = .grey)
    let ok := fun (i : Instr) (o : Nat) (ws : List Nat) => exec i s = .next (reply s src (at' o) 0 ws)
    let identity := [s.fuses.part.deviceId + 2 ^ 16 * (if grey then 0 else s.usableTileMask),
      if grey then 0 else s.usableLogical.length, if grey then 0 else s.lostVaults.length, s.sec.version.toNat]
    let after := fun (o : Nat) (ws : List Nat) (t : State) => t.dev.faults = s.dev.faults ∧ t.dev.state = s.dev.state ∧
      ((∃ u, t = reply u src (at' o) 0 ws ∧ u.dev.recno = s.dev.recno ∧ u.dev.posts = s.dev.posts) ∨
       t.dev.recno = s.dev.recno ∧ ∃ q : Post, q.left ≠ 0 ∧ q.src = src ∧ q.pkt = at' o ∧ q.words = ws ∧ t.dev.posts = s.dev.posts ++ [q])
    s.takes src = true → src ≠ .partner →
    ok (.nop src pkt) 0x00 [] ∧
    ok (.readState src pkt) 0x02 [s.dev.state.code + 16 * s.dev.owner, s.dev.gen.toNat, s.dev.step.toNat, s.dev.lastFault.toNat] ∧
    (pktP0 pkt % 64 = 0 → (∀ q ∈ s.dev.posts, q.left ≠ 0 ∧ q.op ≠ s.dev.hubNext) → s.dev.hubOp ≠ s.dev.hubNext →
      (pktP0 pkt = 0 → exec (.identify src pkt) s =
        .next (reply { s with dev := { s.dev with hubNext := s.dev.hubNext + 1 } } src (at' 0x01) 0 identity)) ∧
      Answers (.identify src pkt) s (after 0x01 identity) ∧
      (1 ≤ nfld (pktP4 pkt) 6 0 → nfld (pktP4 pkt) 6 0 ≤ 64 → Answers (.faultRead src pkt) s (after 0x38 [
        min (nfld (pktP4 pkt) 6 0) (s.dev.faults.filter fun f => serialGe (heldSeq f) (BitVec.ofNat 32 (pktP3 pkt))).length,
        (s.dev.faults.map fun f => (heldSeq f).toNat).headD 0, (s.dev.faults.map fun f => (heldSeq f).toNat).getLastD 0]))) ∧
    (pktP0 pkt % 64 ≠ 0 → exec (.identify src pkt) s = .next (reply s src (at' 0x01) 8 []) ∧
      exec (.faultRead src pkt) s = .next (reply s src (at' 0x38) 8 [])) ∧
    (s.dev.state ≠ .grey → ok (.mirrorStatus src pkt) 0x21
      [s.mirror.pair.code, s.mirror.partner.toNat, s.mirror.committed.toNat, s.dev.gen.toNat]) ∧
    Answers (.faultClear src pkt) s (fun t => t.dev.recno = s.dev.recno + 1 ∧ t.dev.state = s.dev.state ∧
      t.dev.faults = s.dev.faults.map fun f =>
        if serialGe (BitVec.ofNat 32 (pktP3 pkt)) (heldSeq f) then { f with cleared := true } else f) ∧
    (s.dev.state ≠ .grey → pktGen pkt = s.dev.gen.toNat →
      (s.dev.state ≠ .running → ∀ l, s.dev.long = some l → pktOpc l.pkt = 0x1A → s.dev.state = .bank →
        Answers (.halt src pkt) s fun t => t.dev = { s.dev with recno := s.dev.recno + 1, jobStop := true }) ∧
      (s.dev.state ≠ .running → s.longOf 0x1A = none → ok (.halt src pkt) 0x0B []) ∧
      (s.dev.state = .running → Answers (.halt src pkt) s fun t => t.dev.state = .halted ∧ t.dev.gen = s.dev.gen + 1 ∧
        t.dev.plan = s.dev.plan ∧ t.dev.step = s.dev.step ∧ t.dev.recno = s.dev.recno + 2 ∧ SameMem s t ∧
        ∀ c ∈ s.cores.map Prod.fst, (t.core c).seq.phase = .idle ∧ (t.core c).dem.timing = false))

/-- R24, R274, R285, R310, R336, R339, R369, R370, R417, R418, R434, R441: the short commands, once the checks have passed.
A START whose translations are missing asks for them and waits, no packet being taken meanwhile. -/
def Obligations.ShortCommands : Prop :=
  ∀ (src : Src) (pkt : BitVec 512) (s : State),
    let at' := fun (o : Nat) => setFld pkt 7 0 o
    let ok := fun (o : Nat) => s.takes src = true ∧ s.gate src (at' o) = none
    let w := pktP3 pkt
    (ok 0x09 → Answers (.unbook src pkt) s fun t => t.dev.plan = none ∧ t.dev.fences = [] ∧ t.dev.state = s.idleState ∧
      t.dev.gen = s.dev.gen + 1 ∧ t.dev.recno = s.dev.recno + 1 ∧ SameMem s t ∧ ∀ x, x < 2 → ∀ e ∈ (t.port x).atc, e.locked = false) ∧
    (∀ p, ok 0x0A → s.dev.plan = some p → s.stillAdmissible p = true → s.belowFloor = false → s.translated p = true →
      Answers (.startCmd src pkt) s fun t => t.dev.state = .running ∧ t.dev.gen = s.dev.gen + 1 ∧ t.dev.step = s.dev.step ∧
        t.dev.plan = some p ∧ t.dev.breaches = 0 ∧ t.dev.recno = s.dev.recno + 1) ∧
    (∀ p, ok 0x0A → s.dev.plan = some p → s.stillAdmissible p = true → s.canTranslate p = true → s.belowFloor = false →
      s.translated p = false → Answers (.startCmd src pkt) s fun t => t.dev.recno = s.dev.recno ∧ t.dev.state = s.dev.state ∧
        SameMem s t ∧ t.dev.starting = some { src := src, pkt := at' 0x0A, w0 := 0, w1 := 0 } ∧ t.nextArrival = none) ∧
    (∀ p, ok 0x0A → s.dev.plan = some p → s.stillAdmissible p = false ∨ s.canTranslate p = false →
      exec (.startCmd src pkt) s = .next (reply s src (at' 0x0A) 0xC [])) ∧
    (∀ p, ok 0x0A → s.dev.plan = some p → s.stillAdmissible p = true → s.canTranslate p = true → s.belowFloor = true →
      exec (.startCmd src pkt) s = .next (reply s src (at' 0x0A) 2 [])) ∧
    (∀ i, ok 0x19 → s.slotOf (pktP0 pkt) (pktP1 pkt) = some i → Answers (.bankExit src pkt) s fun t =>
      t.dev.ranges = s.dev.ranges.set i none ∧ SameMem s t ∧ t.dev.recno = s.dev.recno + 1 ∧
      t.dev.state = if (s.dev.ranges.set i none).all (·.isNone) then s.idleState else s.dev.state) ∧
    (ok 0x20 → nfld w 11 0 ≠ 0xFFF → nfld w 11 0 ≠ s.dev.devid.toNat → (onBits 24 (nfld (pktP4 pkt) 23 0)).length ≤ 8 →
      (onBits 24 (nfld (pktP4 pkt) 23 0)).all s.populated = true → src ≠ .partner → Answers (.mirrorSet src pkt) s fun t =>
        t.mirror.partner.toNat = nfld w 11 0 ∧ t.mirror.links.toNat = nfld (pktP4 pkt) 23 0 ∧ t.mirror.hvalid = false ∧
        t.mirror.commit = none ∧ t.mirror.en = (pktFl pkt).testBit 0 ∧
        (t.mirror.en = true → t.mirror.pair = .forming ∧ t.mirror.committed = 0 ∧ t.mirror.p = s.mirror.allGranules) ∧
        (t.mirror.en = false → t.mirror.pair = .off) ∧ t.dev = { s.dev with recno := s.dev.recno + 1 }) ∧
    (ok 0x30 → (w ≠ 0 → s.fuses.part.minLim ≤ w ∧ w ≤ s.fuses.part.maxLim ∧ (s.planBooked = true → s.fuses.floorLim ≤ w)) →
      Answers (.powerLimit src pkt) s fun t => t.power = { s.power with limit := if w = 0 then s.power.limit else w } ∧
        t.dev = { s.dev with
          recno := s.dev.recno + 1, owner := if (pktFl pkt).testBit 1 then 1 - s.dev.owner else s.dev.owner }) ∧
    (ok 0x31 → (pktFl pkt).testBit 0 = true → 70 ≤ nfld w 7 0 → nfld w 7 0 ≤ 93 → 5 ≤ nfld w 15 8 → nfld w 15 8 ≤ 100 →
      (pktFl pkt).testBit 1 = false → (pktFl pkt).testBit 2 = false → Answers (.thermalCfg src pkt) s fun t =>
        t.power = { s.power with target := BitVec.ofNat 8 (nfld w 7 0), riseLim := BitVec.ofNat 8 (nfld w 15 8) } ∧
        t.dev = { s.dev with recno := s.dev.recno + 1 }) ∧
    (ok 0x48 → Answers (.freeze src pkt) s fun t => t.dev.state = .frozen ∧ t.dev.preFreeze = s.dev.state ∧
      t.dev.gen = s.dev.gen + 1 ∧ t.dev.recno = s.dev.recno + 1 ∧ t.dev.long = none ∧ t.dev.deferred = none ∧ SameMem s t ∧
      ∀ x, x < 2 → (t.port x).up = false) ∧
    (ok 0x4F → Answers (.resetDevice src pkt) s fun t => t.dev = Dev.reset s.fuses.part ∧ t.sec.cause = 1 ∧ t.mem = [] ∧
      t.scratch = [] ∧ t.cores = [] ∧ t.fuses = s.fuses ∧ t.mirror = Mirror.reset ∧ t.power.inEnergy = s.power.inEnergy)

/-- R311, R312, R247, R269, R272, R318, R346, R348, R432, R438, R439: a long command whose parameters are valid posts
ACCEPTED, becomes the one in progress and changes neither the state nor a byte of stacked memory; CALIBRATE takes the vaults
of its usable tiles under calibration, TAKEOVER lets the pair be HELD, RESTORE_TO sends the map. FW_ACTIVATE makes the
other slot active and resets the device, or is refused with BAD_PACKET where that slot's image does not verify. -/
def Obligations.LongCommandsBegin : Prop :=
  ∀ (src : Src) (pkt : BitVec 512) (s : State),
    let at' := fun (o : Nat) => setFld pkt 7 0 o
    let a := pktP0 pkt
    let b := pktP1 pkt
    let begins := fun (i : Instr) (o : Nat) => Answers i s fun t => (∃ l, t.dev.long = some l ∧ l.src = src ∧ l.pkt = at' o) ∧
      t.dev.state = s.dev.state ∧ t.dev.gen = s.dev.gen ∧ t.dev.recno = s.dev.recno + 1 ∧ t.dev.deferred = s.dev.deferred ∧ SameMem s t
    let ok := fun (o : Nat) => s.takes src = true ∧ s.gate src (at' o) = none
    (ok 0x08 → begins (.book src pkt) 0x08) ∧
    (ok 0x10 → s.inStacked a b = true → s.discardHitsPlan a b = false → begins (.discard src pkt) 0x10) ∧
    (ok 0x10 → s.inStacked a b = true → s.discardHitsPlan a b = true →
      exec (.discard src pkt) s = .next (reply s src (at' 0x10) 5 [])) ∧
    (ok 0x11 → s.inStacked a b = true → a % 4 = 0 → b % 4 = 0 → begins (.fill src pkt) 0x11) ∧
    (ok 0x12 → s.copyRange a (pktP2 pkt) = true → s.copyRange b (pktP2 pkt) = true → begins (.copyCmd src pkt) 0x12) ∧
    (ok 0x12 → s.copyRange a (pktP2 pkt) = false → exec (.copyCmd src pkt) s = .next (reply s src (at' 0x12) 8 [])) ∧
    (ok 0x13 → s.inStacked a b = true → begins (.encode src pkt) 0x13) ∧
    (ok 0x18 → s.enterRefusal a b = none → begins (.bankEnter src pkt) 0x18) ∧
    (∀ e, ok 0x1A → s.rangeAt a = some e → s.jobFits pkt e.1 e.2 = true → s.kind b = .host 0 (b % 2 ^ 45) → b % 64 = 0 →
      (s.port 0).live = true → s.clocked = true → s.tileUsable 0 = true → s.dev.long = none → b + 256 < 2 ^ 46 + 2 ^ 45 →
      begins (.bankRun src pkt) 0x1A) ∧
    (ok 0x22 → src ≠ .partner → nfld (pktP3 pkt) 11 0 = s.mirror.partner.toNat → s.mirror.hvalid = true →
      Answers (.takeover src pkt) s fun t => (∃ l, t.dev.long = some l ∧ l.src = src ∧ l.pkt = at' 0x22) ∧
        t.mirror.pair = .held ∧ t.mirror.wb = [] ∧ t.mirror.hstep = s.mirror.hstep ∧ t.mirror.refuse = true ∧ SameMem s t) ∧
    (ok 0x23 → s.mirror.pair = .held → s.dev.devid ≠ 0xFFF → nfld (pktP3 pkt) 11 0 ≠ 0xFFF → nfld (pktP3 pkt) 11 0 ≠ s.dev.devid.toNat →
      s.restoreLinks (nfld (pktP4 pkt) 23 0) ≠ [] → (onBits 24 (nfld (pktP4 pkt) 23 0)).all s.populated = true → src ≠ .partner →
      begins (.restoreTo src pkt) 0x23) ∧
    (ok 0x23 → (onBits 24 (nfld (pktP4 pkt) 23 0)).all s.populated = false →
      exec (.restoreTo src pkt) s = .next (reply s src (at' 0x23) 8 [])) ∧
    (ok 0x28 → begins (.selftest src pkt) 0x28) ∧
    (ok 0x29 → begins (.calibrate src pkt) 0x29 ∧ Answers (.calibrate src pkt) s fun t =>
      ∀ k ∈ onBits 8 (pktP3 pkt), s.tileUsable k = true → ∀ v, v < 64 → s.vaultUsable k v = true → (t.vault k v).calibrating = true) ∧
    (ok 0x40 → pktP2 pkt ≤ 24 * 2 ^ 20 → s.dev.state ≠ .grey ∨ (∃ n, s.kind a = .host 0 n) → s.sec.qspiExt = false → begins (.fwStage src pkt) 0x40) ∧
    (ok 0x41 → s.sec.qspiExt = false → s.slotWhy (!s.sec.flash.activeB) = 0 → s.sec.flash.markers.length = 2 →
      (∀ m ∈ s.sec.flash.markers, m.counter ≠ 0xFFFFFFFF) → Answers (.fwActivate src pkt) s fun t =>
        t.dev = Dev.reset s.fuses.part ∧ t.sec.cause = 2 ∧ t.sec.flash.activeB = !s.sec.flash.activeB ∧
        t.sec.flash.slotA = s.sec.flash.slotA ∧ t.sec.flash.slotB = s.sec.flash.slotB) ∧
    (ok 0x41 → s.sec.qspiExt = false → s.slotWhy (!s.sec.flash.activeB) ≠ 0 →
      exec (.fwActivate src pkt) s = .next (reply s src (at' 0x41) 8 []))

/-- R311, R247, R270, R272, R275, R285, R293, R318, R346, R348, R367, R368, R373, R432, R438, R439: a long command first does
its own work, and ends with its final status and words once that is acknowledged: DISCARD clears the bits of the whole
granules; FILL, COPY and BANK_RUN issue the writes of their data; ENCODE encodes a raw line; BANK_ENTER makes its granules
valid and fences; BOOK fences only once every recall is answered, and admits with its written granules valid and no core
below PM_FLOORCLK; a deferred one starts once the plan is gone. -/
def Obligations.LongCommandsComplete : Prop :=
  ∀ (l : Long) (res : SelftestResult) (bad : List (Nat × Nat)) (s : State) (pl : Place) (k : Nat) (rest : List Nat) (e : Nat × BitVec 64),
    let a := pktP0 l.pkt
    let b := pktP1 l.pkt
    let n := pktP2 l.pkt
    let o := pktOpc l.pkt
    let stays := fun (t : State) => t.dev.state = s.dev.state ∧ t.dev.gen = s.dev.gen ∧ t.dev.plan = s.dev.plan
    let ends := fun (u : State) (st : Nat) (ws : List Nat) =>
      reply { u with dev := { u.dev with long := none, hubGot := [], hubAsk := [], hubLeft := none } } l.src l.pkt st ws
    let free := s.recalled a b = true ∧ s.unheld a b = true
    let way := s.place e.1 = some pl ∧ s.kind e.1 = .stacked ∧ s.vaultUsable pl.tile pl.vault = true ∧ s.deadXing k = false ∧
      s.path .control (.vault pl.tile pl.vault) = some (k :: rest)
    let writes := fun (t : State) (p : Rq → Prop) => ∃ r : Rq, r.kind = .write ∧ r.da = e.1 ∧ r.line = pl.line ∧ r.mask = e.2 ∧ p r ∧
      (.rq r, rest) ∈ (t.xing k).fifo ++ (t.xing k).back
    s.clocked = true →
    (s.dev.long = some l →
      (o = 0x10 →
        (s.dev.hubLeft = some 0 → Answers .discardComplete s fun t => LongEnds s t ∧ stays t ∧ SameMem s t) ∧
        (s.dev.hubLeft = none → free → s.discardReady a b = true → s.dev.ranges.all (·.isNone) = true →
          Answers .discardComplete s fun t => stays t ∧ SameMem s t ∧
            (∀ g ∈ s.discarded a b, g.2.2 ∉ (t.tile g.2.1).granules ∧ g.2.2 ∉ (t.tile g.2.1).filling) ∧
            ((∀ w ∈ s.windows, ∀ q ∈ (w.2.discardParts a b).2, q.2 = 0) → LongEnds s t))) ∧
      (o = 0x11 →
        (s.dev.hubLeft = some 0 → Answers .fillComplete s fun t => t = ends s 0 [] ∧ stays t ∧ SameMem s t) ∧
        (s.dev.hubLeft = none → s.inStacked a b = true → Answers .fillComplete s fun t => stays t ∧ SameMem s t ∧
          t.nextRq = s.nextRq + (rangeLines a b).length ∧
          (e ∈ rangeLines a b → way → writes t fun r => r.poison = false ∧
            ∀ i, i < 16 → fld r.data (32 * i + 31) (32 * i) = pktP3 l.pkt % 2 ^ 32))) ∧
      (o = 0x12 →
        (s.dev.hubLeft = some 0 → Answers .copyComplete s fun t => t = ends s 0 [l.w0] ∧ stays t ∧ SameMem s t) ∧
        (s.dev.hubLeft = none → s.dev.hubAsk = [] → Answers .copyComplete s fun t => stays t ∧ SameMem s t ∧
          (e ∈ rangeLines b n → way → writes t fun r =>
            (∀ i, i < 64 → e.2.getLsbD i = true → let x := a + (e.1 + i - b)
              byteAt r.data i = byteAt (s.takeLine (x / 64 * 64)).1 (x % 64)) ∧
            (r.poison = true ↔ ∃ i, i < 64 ∧ e.2.getLsbD i = true ∧ (s.takeLine ((a + (e.1 + i - b)) / 64 * 64)).2 = true)))) ∧
      (o = 0x13 → free → (s.rangePlaces a b).all s.lineQuiet = true →
        Answers .encodeComplete s (fun t => LongEnds s t ∧ stays t) ∧
        (a % 64 = 0 → b = 64 → s.place a = some pl → s.vaultUsable pl.tile pl.vault = true → s.rawRow pl = true →
          s.clotuOf pl = false → s.peek pl = .raw → tst (s.vault pl.tile pl.vault).flipctl 63 = false → Memory.wf s.mem = true →
          Answers .encodeComplete s fun t =>
            let erased := (s.vault pl.tile pl.vault).erased.isSome
            LineBecomes (lineKey pl.tile pl.vault pl.line) s t (encodeLine (lineOf ((s.stored pl).take 64)) erased) ∧
            ∃ u, t = reply u l.src l.pkt 0 (if erased then [0, 1] else [1, 0]))) ∧
      (∀ i, o = 0x18 → free → (s.granulesOf a b).all (fun g => s.granuleValid g.1 g.2 || s.granuleFree g.1 g.2) = true →
        s.dev.ranges.findIdx? (·.isNone) = some i → Answers .bankEnterComplete s fun t =>
          LongEnds s t ∧ t.dev.state = .bank ∧ (t.dev.gen = if s.dev.state = .bank then s.dev.gen else s.dev.gen + 1) ∧
          nth t.dev.ranges i none = some (a, b) ∧ (∀ g ∈ s.granulesOf a b, t.granuleValid g.1 g.2 = true)) ∧
      (o = 0x1A →
        (s.dev.job = none → s.dev.jobStop = true → Answers .bankRunComplete s fun t =>
          LongEnds s t ∧ stays t ∧ t.dev.jobStop = false ∧ SameMem s t) ∧
        (∀ j blocks, s.dev.job = some (j, blocks) →
          (s.dev.hubLeft = some 0 ∨ s.dev.hubLeft = none ∧ s.jobDone = true ∧ (jobB j.pkt = 0 ∨ s.dev.jobStop = true) →
            Answers .bankRunComplete s fun t => (∃ u, t = reply u l.src l.pkt 0 [j.w0, j.w1]) ∧ LongEnds s t ∧ stays t ∧
              t.dev.job = none ∧ t.dev.jobStop = false ∧ SameMem s t) ∧
          (∀ base m, s.dev.hubLeft = none → s.jobDone = true → jobB j.pkt ≠ 0 → s.dev.jobStop = false →
            s.rangeAt (pktP0 j.pkt) = some (base, m) → pktP2 j.pkt % 64 = 0 → (m / jobB j.pkt) % 4 = 0 →
            Answers .bankRunComplete s fun t => stays t ∧ SameMem s t ∧
              (e ∈ rangeLines (pktP2 j.pkt) (16 * (m / jobB j.pkt)) → way → writes t fun r => ∀ i, i < 64 →
                byteAt r.data i = nth (s.resultEntry j blocks ((e.1 - pktP2 j.pkt + i) / 16)) (i % 16) 0)))) ∧
      (o = 0x22 → exec .takeoverComplete s = .next (ends s 0 [s.mirror.hstep.toNat])) ∧
      (∀ d st, o = 0x23 → s.mirror.restoreTo = some (d, st) → 2 ≤ st → st ≤ 4 → exec .restoreToComplete s =
        .next (ends { s with mirror := { s.mirror with restoreTo := none } } (if st = 2 then 0 else if st = 3 then 4 else 0xD)
          (if st = 2 then [mib (4096 * s.mirror.heldValid.length)] else []))) ∧
      (o = 0x23 → s.restoreLinks (nfld (pktP4 l.pkt) 23 0) = [] → (∀ d st, s.mirror.restoreTo = some (d, st) → st < 2) →
        exec .restoreToComplete s = .next (ends { s with mirror := { s.mirror with restoreTo := none } } 0xD [])) ∧
      (o = 0x28 → pktP3 l.pkt = 0 → exec (.selftestComplete res) s = .next (ends s 0 [0])) ∧
      (o = 0x28 → pktP3 l.pkt = 1 → res.badCores.filter s.coreUsable = [] → Answers (.selftestComplete res) s fun t =>
        LongEnds s t ∧ stays t ∧ SameMem s t ∧ (∀ c ∈ s.cores.map Prod.fst, (t.core c).valid = []) ∧ ∃ u, t = reply u l.src l.pkt 0 [0]) ∧
      (o = 0x29 → Answers (.calibrateComplete []) s fun t => LongEnds s t ∧ stays t ∧
        ∀ k ∈ onBits 8 (pktP3 l.pkt), s.tileUsable k = true → ∀ v, v < 64 → s.vaultUsable k v = true → (t.vault k v).calibrating = false) ∧
      (o = 0x29 → (∀ e ∈ bad, e.2 < 64) → Answers (.calibrateComplete bad) s fun t => t.dev.long = none ∧
        ∀ e ∈ bad, e.1 ∈ onBits 8 (pktP3 l.pkt) → s.tileUsable e.1 = true → (t.vault e.1 e.2).lost = true) ∧
      (o = 0x40 → s.allCome = true →
        let r := takeBytes s a n
        let img := r.1.map Prod.fst
        (imageWhy s.fuses img = 0 → r.2 = 0 → s.sec.flash.readable = true → Answers .fwStageComplete s fun t => LongEnds s t ∧
          t.sec.flash = s.sec.flash.setSlot (!s.sec.flash.activeB) { bytes := img, invalid := false } ∧
          ∃ u, t = reply u l.src l.pkt 0 [imgVersion img]) ∧
        (imageWhy s.fuses img ≠ 0 ∨ 0 < r.2 ∨ s.sec.flash.readable = false → exec .fwStageComplete s = .next (ends s 0xB []))) ∧
      (∀ f, o = 0x08 → bookAdvance s = s → s.bookRefusal l = some f → Answers .bookComplete s fun t =>
        LongEnds s t ∧ t.dev.plan = none ∧ t.dev.fences = [] ∧ t.dev.bookLoss = none ∧ t.dev.state = s.dev.state ∧ SameMem s t ∧
        (∃ u, t = reply u l.src l.pkt (bookStatus f.w3) [f.w0, f.w1, f.w2, f.w3]) ∧
        ∀ x, x < 2 → ∀ e ∈ (t.port x).atc, e.locked = false) ∧
      (∀ p, o = 0x08 → l.w1 = 2 → s.dev.plan = some p → s.usableFail p = none → s.dev.bookLoss = none →
        (∃ f ∈ p.fenced, s.recalled f.1 f.2 = false) → exec .bookComplete s = .next s) ∧
      (∀ p, o = 0x08 → l.w1 = 4 → s.dev.plan = some p → s.usableFail p = none → s.dev.bookLoss = none → (s.admission p).1 = [] →
        s.fillReady (s.admission p).2 = true → s.dev.state ≠ .booked → Answers .bookComplete s fun t =>
          LongEnds s t ∧ t.dev.state = .booked ∧ t.dev.gen = s.dev.gen + 1 ∧ t.dev.step = 0 ∧
          t.dev.plan = some (s.admission p).2 ∧ (∀ c ∈ s.cores.map Prod.fst, (t.core c).valid = [] ∧ (t.core c).poison = []) ∧
          (∀ q ∈ s.writtenPlaces (s.admission p).2, t.granuleValid q.tile (s.granuleOf q) = true) ∧
          (∀ k ∈ s.tileList, s.tileUsable k = true → s.fuses.floorStep ≤ (s.tile k).step → s.fuses.floorClk ≤ (t.tile k).clk) ∧
          ∃ u, t = sendMsixBoth (reply u l.src l.pkt 0 [0xFFFFFFFF, 0xFFFFFFFF, (s.admission p).2.stepBound, 0]) 3)) ∧
    (s.dev.long = none → s.dev.deferred = some l → s.planBooked = false →
      Answers .deferredCommandStart s fun t => t.dev.long = some l ∧ t.dev.deferred = none ∧ stays t ∧ SameMem s t)

/-! ## Device links -/

/-- R321, R327, R328, R329, R456: training brings a link up, verified where the far end shows the same PAIR_ID and the other
role, or fails with more than two lanes out; lost light, a failed training and a laser fault take an up link down with its
reason and post LINK_DOWN; a failing lane is proposed to the far end as soon as the retry buffer has room and
replaced at the flit that both ends agree on, or with no spare left the link goes down. -/
def Obligations.LinksTrainAndGoDown : Prop :=
  ∀ (n e lane : Nat) (rx : Bool) (seq : BitVec 24) (tr : TrainResult) (s : State),
    let l := s.link n
    let down := fun (i : Instr) (why : BitVec 4) => Answers i s fun t =>
      (t.link n).state = .down ∧ (t.link n).lastWhy = why ∧ (t.link n).retryBuf = [] ∧
      (t.link n).losses = BitVec.ofNat 8 (min 0xFF (l.losses.toNat + 1)) ∧ t.dev.state = s.dev.state ∧
      t.dev.lastFault = s.dev.faultSeq ∧ SameMem s t ∧ ∀ k, k ≠ n → t.link k = s.link k
    let tx := addLanes l.txOut tr.txBad
    let rs := addLanes l.rxOut tr.rxBad
    s.clocked = true → s.populated n = true →
    (s.linkUp n = false → s.engineOk (n / 4) = true →
      Answers (.dlTrainingRetry n) s (fun t => LinkBecomes n s t { l with state := .training, lightOut := false }) ∧
      (l.lightOut = false → tx.length ≤ 2 → rs.length ≤ 2 → Answers (.dlTrainingDone n tr) s fun t =>
        (t.link n).state = (if tr.pairId.toNat = fld s.dev.straps 7 4 ∧ tr.role ≠ tst s.dev.straps 1 then .verified else .up) ∧
        (t.link n).nextSeq = 0 ∧ (t.link n).expSeq = 0 ∧ (t.link n).rqCred = 1024 ∧ (t.link n).rsCred = 1024 ∧
        (t.link n).retryBuf = [] ∧ (t.link n).txOut = tx ∧ (t.link n).rxOut = rs ∧ (t.link n).peerId = tr.peerId ∧
        (∀ k, k ≠ n → t.link k = s.link k) ∧ t = { s with links := t.links, mirror := { s.mirror with aliveRx := [] } }) ∧
      (l.lightOut = false → 2 < tx.length ∨ 2 < rs.length → Answers (.dlTrainingDone n tr) s fun t =>
        LinkBecomes n s t { l with state := .down })) ∧
    (e < 6 → tst s.dev.straps 3 = false → s.tileUsable (engineTile s.fuses.part e) = true → n / 4 = e → l.state = .down →
      Answers (.elsFltRelease e) s fun t => t.sec.elsFlt = s.sec.elsFlt.filter (· ≠ e) ∧ (t.link n).state = .training ∧
        t = { s with links := t.links, sec := { s.sec with elsFlt := t.sec.elsFlt } }) ∧
    (s.linkUp n = true → s.mirror.en = false →
      down (.dlTrainingFailed n) 4 ∧ (n / 4 < 6 → down (.lossOfLight (n / 4) (some (n % 4))) 1) ∧
      (n / 4 < 6 → Answers (.elsFltAssert (n / 4)) s fun t => n / 4 ∈ t.sec.elsFlt ∧ (t.link n).state = .down ∧ (t.link n).lastWhy = 1) ∧
      (laneInUse (l.out rx) lane = true → (l.failing rx).contains lane = false → 2 ≤ (l.failing rx).length →
        down (.laneSymbolThreshold n rx lane) 3 ∧ down (.laneLossOfSignal n rx lane) 3)) ∧
    (s.linkUp n = true → laneInUse (l.out rx) lane = true → (l.failing rx).contains lane = false → (l.failing rx).length < 2 →
      (∀ w ∈ l.switches, w.told = true) →
      (∀ i ∈ [(Instr.laneSymbolThreshold n rx lane, 1), (Instr.laneLossOfSignal n rx lane, 2)],
        (l.retryBuf.length < 4096 → Answers i.1 s fun t =>
          (t.link n).switches = l.switches ++ [{ rx := rx, lane := lane, seq := if rx then l.expSeq else l.nextSeq, reason := i.2
                                                 agreed := false, told := true }] ∧ (t.link n).nextSeq = l.nextSeq + 1 ∧
          (∃ f, t.out = s.out ++ [.flit n f] ∧ fld f 1965 1964 = 3) ∧ t.dev = s.dev ∧ SameMem s t) ∧
        (4096 ≤ l.retryBuf.length → Answers i.1 s fun t => LinkBecomes n s t
          { l with switches := l.switches ++ [{ rx := rx, lane := lane, seq := 0, reason := i.2, agreed := false, told := false }] })) ∧
      ((∀ w ∈ l.switches, w.rx ≠ rx ∨ w.lane ≠ lane) →
        Answers (.linkManagementFlit n rx lane seq) s fun t => ∃ why, LinkBecomes n { s with free := s.free + 1 } t
          { l with switches := l.switches ++
              [{ rx := rx, lane := lane, seq := seq, reason := why, agreed := true, told := true }] })) ∧
    (s.linkUp n = true → (∃ w ∈ l.switches, w.rx = rx ∧ w.lane = lane) →
      Answers (.linkManagementFlit n rx lane seq) s fun t => LinkBecomes n s t { l with
        switches := l.switches.map fun w => if w.rx = rx ∧ w.lane = lane then { w with seq := seq, agreed := true } else w }) ∧
    (∀ w, s.linkUp n = true → l.switches.find? l.due = some w → Answers (.laneSpared n) s fun t =>
      w.agreed = true ∧ ((if w.rx then l.expSeq else l.nextSeq) - w.seq).toNat < 2 ^ 22 ∧
      (t.link n).switches = l.switches.erase w ∧ w.lane ∈ (t.link n).out w.rx ∧ (t.link n).out (!w.rx) = l.out (!w.rx) ∧
      (t.link n).state = l.state ∧ t.dev.lastFault = s.dev.faultSeq ∧ t.dev.state = s.dev.state ∧ ∀ k, k ≠ n → t.link k = s.link k)

/-- R324, R325, R326, R333: a flit with a bad code word, a bad LCRC or a SEQ out of order is discarded and answered with a
NAK; an accepted one is counted, its messages wait in order and hold its buffer until they are taken, what its ACK covers leaves the retry buffer and its credits
are added; a NAK replays what is left; an idle flit takes no sequence number and is not kept. -/
def Obligations.FlitsAreRetried : Prop :=
  ∀ (n corr unc : Nat) (f : BitVec 2048) (fec : Bool) (s : State),
    let l := s.link n
    let kind := fld f 1965 1964
    let good := fec = true ∧ fld f 2047 2016 = (crc32c (bytesOf 252 f.toNat)).toNat ∧ fld f 2015 1992 = l.expSeq.toNat
    let counted := fun (x : Link) => x.corr = BitVec.ofNat 32 (min 0xFFFFFFFF (l.corr.toNat + corr)) ∧
      x.uncorr = BitVec.ofNat 32 (min 0xFFFFFFFF (l.uncorr.toNat + unc))
    let acked := l.retryBuf.filter fun e => !decide ((BitVec.ofNat 24 (fld f 1991 1968) - e.1).toNat < 2 ^ 22)
    s.clocked = true → s.linkUp n = true → (∀ w ∈ l.switches, w.told = true) →
    Answers (.idleFlitSend n) s (fun t => (∃ g, t.out = s.out ++ [.flit n g] ∧ fld g 1965 1964 = 2 ∧ fld g 1966 1966 = 0) ∧
      (t.link n).nextSeq = l.nextSeq ∧ (t.link n).retryBuf = l.retryBuf ∧ (t.link n).rqCred = l.rqCred ∧ t.dev = s.dev ∧ SameMem s t) ∧
    (¬ good → Answers (.flitReceive n f fec ⟨corr, unc⟩) s fun t => counted (t.link n) ∧
      (∃ g, t.out = s.out ++ [.flit n g] ∧ fld g 1965 1964 = 2 ∧ fld g 1966 1966 = 1 ∧
        fld g 1991 1968 = (l.expSeq - 1).toNat) ∧
      (t.link n).expSeq = l.expSeq ∧ (t.link n).rxMsgs = l.rxMsgs ∧ (t.link n).retryBuf = l.retryBuf ∧ t.dev = s.dev) ∧
    (good → l.txMsgs = [] → kind = 2 → fld f 1967 1967 = 0 → fld f 1966 1966 = 0 → Answers (.flitReceive n f fec ⟨corr, unc⟩) s fun t =>
      counted (t.link n) ∧ t.out = s.out ∧ (t.link n).retryBuf = acked ∧ (t.link n).expSeq = l.expSeq ∧
      (t.link n).rqCred = min 1024 (l.rqCred + fld f 1963 1958) ∧ (t.link n).rsCred = min 1024 (l.rsCred + fld f 1957 1952) ∧
      (t.link n).rxMsgs = l.rxMsgs) ∧
    (good → l.txMsgs = [] → kind = 2 → fld f 1967 1967 = 0 → fld f 1966 1966 = 1 → acked = l.retryBuf → l.retryBuf ≠ [] →
      (l.replays < 8 → Answers (.flitReceive n f fec ⟨corr, unc⟩) s fun t => t.out = s.out ++ l.retryBuf.map (fun e => .flit n e.2) ∧
        (t.link n).replays = l.replays + 1 ∧ (t.link n).retry = BitVec.ofNat 16 (min 0xFFFF (l.retry.toNat + 1)) ∧
        (t.link n).state = l.state) ∧
      (8 ≤ l.replays → s.mirror.en = false → Answers (.flitReceive n f fec ⟨corr, unc⟩) s fun t =>
        (t.link n).state = .down ∧ (t.link n).lastWhy = 2 ∧ t.dev.lastFault = s.dev.faultSeq)) ∧
    (good → l.txMsgs = [] → kind = 0 → fld f 1967 1967 = 1 → l.rxUnits = [] → fld f 31 28 = 3 → fld f 159 156 = 0 →
      s.dev.devid ≠ 0xFFF → Answers (.flitReceive n f fec ⟨corr, unc⟩) s fun t => counted (t.link n) ∧ t.out = s.out ∧
        (t.link n).rxMsgs = l.rxMsgs ++ [{ hdr := BitVec.ofNat 128 (fld f 127 0), body := [], cred := l.rqHeld + 1 }] ∧
        (t.link n).expSeq = l.expSeq + 1 ∧ (t.link n).rqBack = l.rqBack ∧ (t.link n).rqHeld = 0 ∧ (t.link n).rsBack = l.rsBack ∧
        (t.link n).retryBuf = l.retryBuf)

/-- R325, R331, R332, R335, R337, R338: a message taken gives the flits it held back as credits; a message for another device goes on with HOPS one higher, at 15 it ends; a request whose
CRC, folded with the step number, fails is discarded and counted, one that no export entry admits is denied and counted,
else each of its lines is issued; answers end the request they name, late ones nothing; a request without an answer in
time is ended, the first of a step posting a record while the link stays up. -/
def Obligations.PeerMessages : Prop :=
  ∀ (n : Nat) (m : Msg) (rest : List Msg) (s : State),
    let popped := popMsg s n
    let bad := { popped with dev := { s.dev with e2ebad := BitVec.ofNat 16 (min 0xFFFF (s.dev.e2ebad.toNat + 1)) } }
    let late := fun (w : BitVec 32) => m.crc ≠ (dataCrc m w).toNat
    let good := fun (w : BitVec 32) => m.crc = (dataCrc m w).toNat
    let w := stepFrom s.dev.step m.stl
    s.clocked = true → (s.link n).rxMsgs = m :: rest →
    ((popped.link n).rxMsgs = rest ∧ popped.dev = s.dev ∧
      (isResponse m.mt = false → (popped.link n).rqBack = (s.link n).rqBack + m.cred ∧ (popped.link n).rsBack = (s.link n).rsBack) ∧
      (isResponse m.mt = true → (popped.link n).rsBack = (s.link n).rsBack + m.cred ∧ (popped.link n).rqBack = (s.link n).rqBack)) ∧
    (∀ ls, s.forMe m = false → m.hops < 15 → s.route m.dst = .links ls → Answers (.messageForward n) s fun t =>
      (t.link n).rxMsgs = rest ∧ t.dev = s.dev ∧ SameMem s t ∧
      ∃ k ∈ nth ls 0 0 :: ls, t = sendMsg popped k { m with hdr := setFld m.hdr 15 12 (m.hops + 1) }) ∧
    (s.forMe m = false → m.hops = 15 → Answers (.messageForward n) s fun t => (t.link n).rxMsgs = rest ∧ SameMem s t ∧
      t.dev = { s.dev with hopdrop := BitVec.ofNat 16 (min 0xFFFF (s.dev.hopdrop.toNat + 1)) }) ∧
    (s.forMe m = true →
      (∀ i ∈ [(Instr.writeMsg n, 1, writeKind m.aop, m.nl + 1), (Instr.writeMasked n, 2, writeKind m.aop, 1),
          (Instr.readMsg n, 3, some RqKind.read, m.nl + 1)], m.mt = i.2.1 →
        (late w ∨ i.2.2.1 = none → exec i.1 s = .next bad) ∧
        (∀ kd, good w → i.2.2.1 = some kd →
          (s.exported m.src m.addr kd = none → Answers i.1 s fun t => (t.link n).rxMsgs = rest ∧
            t.nextRq = s.nextRq ∧ SameMem s t ∧ t.dev = { s.dev with expdeny := BitVec.ofNat 16 (min 0xFFFF (s.dev.expdeny.toNat + 1)) }) ∧
          ((s.exported m.src m.addr kd).isSome = true → Answers i.1 s fun t => (t.link n).rxMsgs = rest ∧
            t.nextRq = s.nextRq + i.2.2.2 ∧ SameMem s t ∧ t.dev.expdeny = s.dev.expdeny))) ∧
      (∀ i ∈ [(Instr.readResponse n, 4), (Instr.completionMsg n, 5)], m.mt = i.2 →
        (late w → exec i.1 s = .next bad) ∧ (good w → s.peerRq m.tag = none → exec i.1 s = .next popped)) ∧
      (∀ q, good w → s.peerRq m.tag = some q →
        (m.mt = 5 → Answers (.completionMsg n) s fun t => t.dev.peerRqs = s.dev.peerRqs.erase q ∧ SameMem s t) ∧
        (m.mt = 4 → (∀ r ∈ q.rqs, r.kind = .read ∧ m.addr / 64 ≤ r.da % 2 ^ 34 / 64 ∧ r.da % 2 ^ 34 / 64 ≤ m.addr / 64 + m.nl) →
          Answers (.readResponse n) s fun t => t.dev.peerRqs = s.dev.peerRqs.filter (fun p => decide (p ≠ q)) ∧ SameMem s t))) ∧
    (∀ id q, (s.dev.peerRqs.find? fun p => p.rqs.any fun x => x.id = id) = some q →
      Answers (.dlRequestTimeout id) s fun t => t.dev.peerRqs = s.dev.peerRqs.erase q ∧
        t.dev.timeout = BitVec.ofNat 16 (min 0xFFFF (s.dev.timeout.toNat + 1)) ∧ (t.link q.link).state = (s.link q.link).state ∧
        t.dev.state = s.dev.state ∧ SameMem s t ∧ t.dev.pathTimeout = (s.dev.pathTimeout || s.running) ∧
        (s.running = true → s.dev.pathTimeout = false → t.dev.lastFault = s.dev.faultSeq) ∧
        (s.running = false ∨ s.dev.pathTimeout = true → t.dev.lastFault = s.dev.lastFault))

/-! ## Mirrored pairs -/

/-- R336, R339 to R341, R343 to R346, R348: at the store: a mirrored write waits until the lines it needs are quiet, goes
into the copy that is not current and is counted; a commit whose messages have landed flips the copies it wrote, or is answered SHORT or RESYNC with nothing
flipped; a partner's map is taken where it fits; a roll call ends the silence and forms the pair; a TAKEOVER ends
mirroring here; a restore is accepted by a device prepared for it, and its lines are counted. -/
def Obligations.MirrorStore : Prop :=
  ∀ (n : Nat) (m : Msg) (s u : State),
    let k := s.mirror
    let b := nth m.body 0 0
    let keeps := fun (t : State) => t.mirror.cur = k.cur ∧ t.mirror.hstep = k.hstep ∧ t.mirror.hvalid = k.hvalid ∧
      t.mirror.heldValid = k.heldValid
    s.clocked = true →
    (s.headMsg n 6 = some m → s.fromPartner m = true →
      (m.crc = (dataCrc m k.expect).toNat → (m.das.flatMap k.neededDas).all s.storeReady = true →
        Answers (.mirrorWrite n) s (fun t => keeps t ∧ t.dev.state = s.dev.state ∧
          t.mirror.recv = k.recv.set (s.linkPos n) (nth k.recv (s.linkPos n) 0 + 1)) ∧
        (∀ x pl, m.nl = 0 → regionPos k.held m.addr = some x → x / 4096 ∈ k.wb →
          let da := k.store.1 + 8192 * (x / 4096) + 4096 * (if x / 4096 ∈ k.cur then 0 else 1) + x % 4096
          s.place da = some pl → s.inBankMode da = false → s.vaultUsable pl.tile pl.vault = true →
          s.granuleValid pl.tile (s.granuleOf pl) = true → s.clotuOf pl = false → tst (s.vault pl.tile pl.vault).flipctl 63 = false →
          Memory.wf s.mem = true → Answers (.mirrorWrite n) s fun t =>
            LineBecomes (lineKey pl.tile pl.vault pl.line) s t (encodeLine (m.line 0 0) m.pois))) ∧
      (m.crc = (dataCrc m k.expect).toNat → (m.das.flatMap k.neededDas).all s.storeReady = false →
        Answers (.mirrorWrite n) s fun t => t.mirror = k ∧ t.links = s.links ∧ SameMem s t) ∧
      (m.crc ≠ (dataCrc m k.expect).toNat → Answers (.mirrorWrite n) s fun t => SameMem s t ∧
        t.mirror = { k with recv := k.recv.set (s.linkPos n) (nth k.recv (s.linkPos n) 0 + 1), bad := true } ∧
        t.dev.e2ebad = BitVec.ofNat 16 (min 0xFFFF (s.dev.e2ebad.toNat + 1)))) ∧
    (∀ r, s.headMsg n 7 = some m → k.restoreIn = some r → m.src = k.restsrc.toNat →
      (m.crc = (dataCrc m r.step).toNat → m.das.all s.storeReady = true →
        Answers (.restoreWrite n) s fun t => ∃ q, t.mirror.restoreIn = some q ∧ q.got = r.got + 1 ∧ q.map = r.map ∧ q.step = r.step ∧
          (r.failed = true → q.failed = true)) ∧
      (m.crc ≠ (dataCrc m r.step).toNat → Answers (.restoreWrite n) s fun t => SameMem s t ∧
        t.mirror = { k with restoreIn := some { r with got := r.got + 1, failed := true } } ∧
        t.dev.e2ebad = BitVec.ofNat 16 (min 0xFFFF (s.dev.e2ebad.toNat + 1)))) ∧
    (∀ st counts, k.storeCommit = some (st, counts) →
      (k.recv = counts →
        (k.resync = true → Answers .storeCommitLanded s fun t => keeps t ∧ t.mirror.storeCommit = none ∧ t.mirror.resync = false ∧ SameMem s t) ∧
        (k.resync = false → k.bad = true ∨ st ≠ k.expect → Answers .storeCommitLanded s fun t => keeps t ∧
          t.mirror.storeCommit = none ∧ t.mirror.bad = false ∧ SameMem s t) ∧
        (k.resync = false → k.bad = false → st = k.expect → k.wb.Nodup → Answers .storeCommitLanded s fun t =>
          t.mirror.hstep = st ∧ t.mirror.hvalid = true ∧ t.mirror.wb = [] ∧ t.mirror.expect = st + 1 ∧ SameMem s t ∧
          t.mirror.storeCommit = none ∧ (∀ g, g ∈ t.mirror.cur ↔ (g ∈ k.cur ∧ g ∉ k.wb) ∨ (g ∉ k.cur ∧ g ∈ k.wb)) ∧
          ∀ g, g ∈ t.mirror.heldValid ↔ g ∈ k.heldValid ∨ g ∈ k.wb)) ∧
      (k.recv ≠ counts → Answers .commitLandingTimeout s fun t => keeps t ∧ t.mirror.storeCommit = none ∧
        t.mirror.recv = List.replicate 8 0 ∧ SameMem s t)) ∧
    (takeControl s n 8 = (some m, u) → u.fromPartner m = true → u.mirrorMask.contains n = true →
      Answers (.rollcall n) s fun t => t.mirror.silence = 0 ∧ t.mirror.partnerStep.toNat = fld b 127 96 ∧
        t.mirror.partnerState.toNat = fld b 55 52 ∧ t = { u with mirror := t.mirror } ∧
        (fld b 47 36 = u.dev.devid.toNat → (u.mirror.pair = .forming ∨ u.mirror.pair = .lost) →
          t.mirror.expect = BitVec.ofNat 32 (fld b 127 96) + 1) ∧
        t.mirror.pair = if fld b 47 36 = u.dev.devid.toNat ∧ (u.mirror.pair = .forming ∨ u.mirror.pair = .lost) then .active
          else u.mirror.pair) ∧
    (takeControl s n 9 = (some m, u) → u.fromPartner m = true → u.mirror.restoreIn = none →
      Answers (.commitMsg n) s fun t => t = { u with mirror := { u.mirror with storeCommit := some (m.word, unitCounts m.body) } }) ∧
    (∀ r, takeControl s n 9 = (some m, u) → u.mirror.restoreIn = some r → m.src = u.mirror.restsrc.toNat →
      Answers (.commitMsg n) s fun t => t = { u with mirror := { u.mirror with restoreIn := some { r with
        total := some ((unitCounts m.body).map (·.toNat)).sum, failed := r.failed || decide (m.word ≠ r.step) } } }) ∧
    (takeControl s n 0xB = (some m, u) → u.mirror.resten = true → m.src = u.mirror.restsrc.toNat →
      u.dev.state = .ready ∨ u.dev.state = .degraded → (u.fromPartner m = true → u.mirror.pair ≠ .active) →
      Answers (.mirmap n) s fun t => t.dev = u.dev ∧ SameMem s t ∧ t.mirror = { u.mirror with
        aliveTx := t.mirror.aliveTx
        restoreIn := some { map := m.body.map fun x => (fld x 47 0, fld x 95 48), step := m.word, got := 0, failed := false, total := none } }) ∧
    (takeControl s n 0xB = (some m, u) → u.mirror.resten = false → u.fromPartner m = true →
      let map := m.body.map fun x => (fld x 47 0, fld x 95 48)
      (u.mirror.storeLen ≠ 0 → regionLen map ≤ 2 ^ 38 → 2 * regionLen map ≤ u.mirror.store.2 →
        Answers (.mirmap n) s fun t => t.mirror.held = map ∧ t.mirror.expect = m.word ∧ t.dev = u.dev ∧
          (u.mirror.held = map → t.mirror.hvalid = u.mirror.hvalid) ∧ (u.mirror.held ≠ map → t.mirror.hvalid = false)) ∧
      (u.mirror.storeLen = 0 → Answers (.mirmap n) s fun t => t.mirror = { u.mirror with aliveTx := t.mirror.aliveTx } ∧ t.dev = u.dev)) ∧
    (takeControl s n 0xC = (some m, u) → u.mirror.en = true → m.src = u.mirror.partner.toNat → u.mirror.pair ≠ .held →
      u.mirror.commit = none → u.longOf 0x22 = none → Answers (.takeoverMsg n) s fun t => t.mirror.en = false ∧
        t.mirror.pair = .off ∧ t.dev.lastFault = u.dev.faultSeq ∧ t.dev.state = u.dev.state ∧ t.dev.plan = u.dev.plan) ∧
    (takeControl s n 0xE = (some m, u) → exec (.statusMsg n) s = .next (u.emit (.data (unitsLine m.body) false)))

/-- R341, R342, R344, R345: at the source: a roll call goes out on every up mirror link and carries the committed step, the
generation and the states; 1 ms of silence loses the pair, formed or forming; a commit ends at once where the pair is
not ACTIVE, else it waits for the vaults and a mirror link, is sent, and its answer decides: OK commits the step, SHORT sends the step's granules again, RESYNC every granule. An answer to
MIRMAP, or none in time, is kept for BOOK; a restore's answers make it go on, send again, or end (R348). -/
def Obligations.MirrorSource : Prop :=
  ∀ (n : Nat) (m : Msg) (c : CommitSt) (s u : State),
    let k := s.mirror
    let v := u.mirror
    s.clocked = true →
    (k.en = true → s.mirrorUp = [] → exec .rollcallSend s = .next s) ∧
    (k.en = true → s.mirrorUp = [n] → s.linkUp n = true → (s.link n).txMsgs = [] → (s.link n).retryBuf.length < 4096 →
      1 ≤ (s.link n).rqCred → s.tileUsable 0 = true → s.dev.devid ≠ 0xFFF → Answers .rollcallSend s fun t =>
        (∃ f, t.out = s.out ++ [.flit n f] ∧ fld f 31 28 = 8 ∧ fld f 55 44 = k.partner.toNat ∧ fld f 43 32 = s.dev.devid.toNat ∧
          fld f 255 224 = k.committed.toNat ∧ fld f 223 192 = s.dev.gen.toNat ∧ fld f 183 180 = s.dev.state.code ∧
          fld f 179 176 = k.pair.code ∧ fld f 175 164 = k.partner.toNat) ∧ t.dev = s.dev ∧ SameMem s t) ∧
    (k.en = true → k.pair = .active ∨ k.pair = .forming → 1000 ≤ k.silence.toNat → Answers .partnerSilence s fun t => t.mirror.pair = .lost ∧
      t.mirror.commit = none ∧ t.dev.lastFault = s.dev.faultSeq ∧ t.dev.state = s.dev.state ∧ t.dev.plan = s.dev.plan ∧ SameMem s t ∧
      (k.commit.isSome = true → t.dev.commitDone = some false)) ∧
    (s.running = true → s.legsFinished = true → s.planMirrors = true → k.commit = none → s.dev.commitDone = none →
      (k.pair ≠ .active → Answers .mirrorCommitBegin s fun t => t = { s with dev := { s.dev with commitDone := some false } }) ∧
      (k.pair = .active → s.mirrorUp = [] → exec .mirrorCommitBegin s = .next s) ∧
      (k.pair = .active → s.mirrorUp ≠ [] → s.commitReady = false → Answers .mirrorCommitBegin s fun t => t.mirror = k ∧ t.links = s.links ∧
        SameMem s t) ∧
      (k.pair = .active → s.mirrorUp ≠ [] → s.commitReady = true →
        Answers .mirrorCommitBegin s (fun t => t.mirror.commit = some { step := k.committed + 1, sent := true, shorts := 0 } ∧
          t.mirror.counts = List.replicate 8 0 ∧ t.mirror.p = k.p ∧ t.mirror.w = k.w ∧ t.dev.state = s.dev.state ∧
          t.dev.commitDone = none) ∧
        (s.toSend = [] → Answers .mirrorCommitBegin s fun t => t.dev = s.dev ∧ SameMem s t))) ∧
    (s.running = true → s.legsFinished = true → s.planMirrors = true → k.commit = some c → c.sent = false → s.dev.commitDone = none →
      k.pair = .active → s.mirrorUp ≠ [] → s.commitReady = true → Answers .mirrorCommitBegin s fun t =>
        t.mirror.commit = some { c with sent := true } ∧ t.mirror.counts = List.replicate 8 0) ∧
    (∀ st sh, (s.mirrorUp ≠ [] → (sendCommit s st sh).mirror.commit = some { step := st, sent := true, shorts := sh }) ∧
      (s.mirrorUp = [] → sendCommit s st sh = { s with mirror := { k with commit := some { step := st, sent := false, shorts := sh } } })) ∧
    (k.mapWait = true → Answers .mirmapTimeout s fun t => t = { s with mirror := { k with mapWait := false, mapAnswer := some 0xFF } }) ∧
    (takeControl s n 0xA = (some m, u) → (s.answerDas m.src).all s.daQuiet = true →
      (∀ d ph, v.restoreTo = some (d, ph) → m.src = d.toNat →
        (ph = 0 → m.res ≠ 0 → exec (.commitAck n) s = .next { u with mirror := { v with restoreTo := some (d, 3) } }) ∧
        (ph = 1 → m.res = 0 → exec (.commitAck n) s = .next { u with mirror := { v with restoreTo := some (d, 2) } }) ∧
        (ph = 1 → m.res ≠ 0 → 2 ≤ v.restoreShorts → exec (.commitAck n) s = .next { u with mirror := { v with restoreTo := some (d, 4) } }) ∧
        (ph = 1 → m.res ≠ 0 → v.restoreShorts < 2 → exec (.commitAck n) s =
          .next (sendRestore { u with mirror := { v with restoreShorts := v.restoreShorts + 1 } } d.toNat)) ∧
        (ph = 0 → m.res = 0 → exec (.commitAck n) s = .next (sendRestore u d.toNat))) ∧
      (v.restoreTo = none → m.src = v.partner.toNat →
        (v.mapWait = true → Answers (.commitAck n) s fun t =>
          t = { u with mirror := { v with mapWait := false, mapAnswer := some (BitVec.ofNat 8 m.res) } }) ∧
        (v.mapWait = false → v.commit = some c → c.sent = true → m.word = c.step →
          (m.res = 0 → Answers (.commitAck n) s fun t => t.mirror = { v with committed := c.step, w := [], p := [], commit := none } ∧
            t.dev = { u.dev with commitDone := if u.dev.state = .running then some true else u.dev.commitDone } ∧ SameMem s t) ∧
          (m.res = 1 → c.shorts < 2 → ∃ w, exec (.commitAck n) s = .next (sendCommit w c.step (c.shorts + 1)) ∧
            (∀ g, g ∈ w.mirror.p ↔ g ∈ v.w ∨ g ∈ v.p) ∧ w.mirror = { v with p := w.mirror.p } ∧ w.dev.lastFault = u.dev.faultSeq) ∧
          (m.res = 1 → 2 ≤ c.shorts → Answers (.commitAck n) s fun t => t.mirror.commit = none ∧ t.mirror.committed = v.committed ∧
            (∀ g, g ∈ t.mirror.p ↔ g ∈ v.w ∨ g ∈ v.p) ∧ t.dev.lastFault = u.dev.faultSeq) ∧
          (m.res = 3 → ∃ w, exec (.commitAck n) s = .next (sendCommit w c.step c.shorts) ∧ w.dev.lastFault = u.dev.faultSeq ∧
            w.mirror = { v with p := List.range (regionLen v.map / 4096), copied := [] }))))

/-! ## Steps and failures -/

/-- R21, R49, R163, R315, R355, R371, R372, R379: once every leg is done, and where the plan mirrors the commit is over, the step
ends: BOOKED, the step number one higher, its record posted. A leg timer or a declared wait past its bound plus 1% posts
DEADLINE_BREACH, and stops nothing; once a leg and once a wait, and none once a core of the step has exceeded its demand. -/
def Obligations.StepsEndAndBreach : Prop :=
  ∀ (c b ns o cmp da : Nat) (w : BitVec 32) (rq : Option Nat) (s : State),
    let k := s.core c
    let breach := fun (i : Instr) (reason bound word : Nat) (d : Demand) => Answers i s fun t =>
      t.core c = { k with dem := { d with breach := BitVec.ofNat 32 (min 0xFFFFFFFF (k.dem.breach.toNat + 1)) } } ∧
      (∀ j, j ≠ c → t.core j = s.core j) ∧ t.dev.breaches = BitVec.ofNat 32 (min 0xFFFFFFFF (s.dev.breaches.toNat + 1)) ∧
      Records s t 0x20 reason [c / 17, c, s.logicalWord c, k.seq.leg, bound, word] ∧
      t.dev.lastFault = s.dev.faultSeq ∧ t.dev.state = s.dev.state ∧ t.dev.gen = s.dev.gen ∧ SameMem s t
    s.clocked = true →
    (s.running = true → s.legsFinished = true → s.planMirrors = false ∨ s.dev.commitDone.isSome = true →
      Answers .stepComplete s fun t => t.dev.state = .booked ∧ t.dev.gen = s.dev.gen + 1 ∧ t.dev.step = s.dev.step + 1 ∧
        t.dev.plan = s.dev.plan ∧ t.dev.recno = s.dev.recno + 1 ∧ t.dev.commitDone = none ∧ SameMem s t ∧ SameScratch s t) ∧
    (s.coreRuns c = true → s.dev.stepOver = false →
      (s.legBound c = some b → k.dem.timing = true → k.dem.legPosted = false → breachTicks b < k.dem.legTimer.toNat →
        breach (.legTimerExpiry c) 1 b 0xFFFFFFFF { k.dem with legPosted := true }) ∧
      (k.seq.wait = .waitf cmp w da rq o → s.waitDeadline c o = some ns → k.dem.waitPosted.contains o = false →
        breachTicks ns < k.dem.stepTimer.toNat →
        breach (.waitDeadlineExpiry c) 2 ns o { k.dem with waitPosted := o :: k.dem.waitPosted })) ∧
    (s.dev.stepOver = true ∨ k.dem.legPosted = true ∨ k.dem.timing = false → exec (.legTimerExpiry c) s = .next s) ∧
    (k.seq.wait = .waitf cmp w da rq o → s.dev.stepOver = true ∨ k.dem.waitPosted.contains o = true →
      exec (.waitDeadlineExpiry c) s = .next s)

/-- R19, R24, R382 to R386, R390 to R392, R395: a core that fails hands its index to its tile's free spare, posting CORE_REMAPPED
and changing no state, the spare keeping its own counts and taking over the timers; with no free spare, or while another remap
of the tile is under way, its index is uncarried and a running step halts. A core that carries nothing is lost without more; in
BOOT a failure is left to the start. The spare begins the first leg not complete once nothing of the failed core is under way.
A lost tile takes its cores, vaults and links with it; with tiles 0 and 1 lost no tile is usable. -/
def Obligations.CoresAndTilesFail : Prop :=
  ∀ (c l sp tl why : Nat) (s : State),
    let k := s.core c
    let remapping := s.dev.remaps.any fun r => decide (r.tile = c / 17)
    let mid := s.midStep c l
    let run := mid && k.dem.timing && decide (k.seq.phase ≠ .flag)
    let leg := if mid && decide (s.legsOf l < s.planLegs l) then s.legsOf l else 0xFFFFFFFF
    s.clocked = true → 1 ≤ why → why ≤ 3 →
    (s.dev.state ≠ .boot → c < 17 * s.fuses.part.tiles → s.coreUsable c = true → s.logicalOf c = some l →
      (s.freeSpare (c / 17) = some sp → remapping = false → Answers (.coreFailed c why) s fun t =>
        t.holderOf l = some sp ∧ (∀ j, j ≠ l → t.holderOf j = s.holderOf j) ∧ (t.core c).lost = true ∧ (t.core sp).lost = false ∧
        (t.core sp).valid = [] ∧ (t.core sp).dem = { (s.core sp).dem with
          legTimer := k.dem.legTimer, stepTimer := k.dem.stepTimer, timing := k.dem.timing && decide (k.seq.phase ≠ .flag)
          legPosted := k.dem.legPosted, waitPosted := k.dem.waitPosted } ∧
        Records s t 0x01 why [c / 17, c, l, leg, if run then s.cycles (.fabric (c / 17)) - nth (s.tile (c / 17)).legStart (l % 16) 0
          else 0xFFFFFFFF, sp, if run then (if k.didAcc then 1 else 0) + (if k.didAddFlag then 2 else 0) else 0] ∧
        (mid = true → ∃ r ∈ t.dev.remaps, r.failed = c ∧ r.spare = sp ∧ r.index = l % 16) ∧
        t.dev.state = s.dev.state ∧ t.dev.gen = s.dev.gen ∧ t.dev.plan = s.dev.plan ∧ SameMem s t) ∧
      (s.freeSpare (c / 17) = none ∨ remapping = true → Answers (.coreFailed c why) s fun t =>
        t.holderOf l = none ∧ (∀ j, j ≠ l → t.holderOf j = s.holderOf j) ∧ (t.core c).lost = true ∧
        Records s t 0x02 why [c / 17, c, l, leg, (t.usableCores (c / 17)).length] ∧ t.dev.plan = s.dev.plan ∧ SameMem s t ∧
        (s.dev.state = .running → t.dev.state = .halted ∧ t.dev.gen = s.dev.gen + 1) ∧
        (s.dev.state ≠ .running → s.dev.state ≠ .ready → t.dev.state = s.dev.state ∧ t.dev.gen = s.dev.gen))) ∧
    (s.dev.state ≠ .boot → c < 17 * s.fuses.part.tiles → s.coreUsable c = true → s.logicalOf c = none →
      Answers (.coreFailed c why) s fun t => (t.core c).lost = true ∧ (∀ j, t.holderOf j = s.holderOf j) ∧
        Records s t 0x02 why [c / 17, c, 0xFFFFFFFF, 0xFFFFFFFF, (t.usableCores (c / 17)).length] ∧
        t.dev.state = s.dev.state ∧ t.dev.gen = s.dev.gen ∧ SameMem s t) ∧
    (s.dev.state = .boot → exec (.coreFailed c why) s = .next s) ∧
    (∀ r, (s.dev.remaps.find? fun r => r.spare = c) = some r → s.running = true → s.underWay r.failed = false →
      s.underWay c = false →
      let i := 16 * r.tile + r.index
      (s.legsOf i < s.planLegs i → Answers (.spareBeginLeg c) s fun t => (t.core c).seq.phase = .header ∧
        (t.core c).seq.leg = s.legsOf i ∧ t.dev.remaps = s.dev.remaps.filter (fun x => decide (x.spare ≠ c)) ∧
        t.dev.state = .running ∧ SameMem s t) ∧
      (s.planLegs i ≤ s.legsOf i → Answers (.spareBeginLeg c) s fun t =>
        t.core c = { k with seq := { k.seq with phase := .finished } } ∧ (∀ j, j ≠ c → t.core j = s.core j) ∧
        t.dev = { s.dev with remaps := s.dev.remaps.filter (fun x => decide (x.spare ≠ c)) })) ∧
    (s.tileUsable tl = true → Answers (.tileLost tl why) s fun t => (t.tile tl).lost = true ∧
      (∀ v, v < 64 → (t.vault tl v).lost = true) ∧ (∀ p, p < 17 → (t.core (17 * tl + p)).lost = true) ∧
      (∀ i, i < 16 → t.holderOf (16 * tl + i) = none) ∧ (∀ n ∈ s.tileLinks tl, t.linkUp n = false) ∧ t.dev.plan = s.dev.plan ∧
      Records s t 0x03 why [tl, s.windowsOn tl, ofBits (s.tileLinks tl)] ∧
      ((t.tile 0).lost = true → (t.tile 1).lost = true → ∀ j, t.tileUsable j = false) ∧
      ((t.tile 0).lost = false ∨ (t.tile 1).lost = false → ∀ j, j ≠ tl → t.tile j = s.tile j) ∧
      SameMem s t ∧ (s.dev.state = .running → t.dev.state = .halted) ∧
      (s.dev.state ≠ .running → s.dev.state ≠ .ready → t.dev.state = s.dev.state))

/-! ## Power and temperature -/

/-- R373, R397, R398, R400, R404, R406, R409, R410, R412, R415, R416: meters count on; the power loop lowers a clock by 100 MHz over
budget and raises it by 100 MHz under 95% of it, never below the floor of a booked plan; a clock change is applied; VIN below
40 V posts one record; bands follow the estimate; at 105 °C the shutdown begins, and ends in OFF with the input stage latched,
as a hardware trip does at once; a supply that fails ends in OFF too, each supply with its own hysteresis. -/
def Obligations.PowerAndTemperature : Prop :=
  ∀ (n uj k mv sensor : Nat) (sup : Supplies) (obs : ThermalObs) (s : State),
    let x := s.tile k
    let off := fun (t : State) => t.dev.state = .off ∧ t.mem = [] ∧ t.scratch = [] ∧ t.cores = [] ∧ t.fuses = s.fuses ∧ t.dev.plan = none
    let vinBelow := mv < 40000 ∧ s.vinHeld = false
    let stays := fun (was : Bool) (v hi lo : Nat) => decide ((was = true ∧ lo ≤ v) ∨ (was = false ∧ hi ≤ v))
    let vinOk := stays s.power.vinOk sup.vin 3800 3600
    let vauxOk := stays s.power.vauxOk sup.vaux 3000 2900
    let vioOk := stays s.power.vioOk sup.vio 1620 1550
    (s.awake = true →
      (s.metered n = true → Answers (.meterUpdate n uj) s fun t =>
        tget 0 t.power.meters n = tget 0 s.power.meters n + BitVec.ofNat 64 uj ∧
        (∀ j, j ≠ n → tget 0 t.power.meters j = tget 0 s.power.meters j) ∧
        t = { s with power := { s.power with meters := t.power.meters, inEnergy := s.power.inEnergy + BitVec.ofNat 64 uj } }) ∧
      (36000 ≤ mv → Answers (.vinLow mv) s fun t =>
        t.power = { s.power with
          supplies := { s.power.supplies with vin := mv / 10 }
          shown := { s.power.shown with vin := mv / 10 }
          vinLow := if mv < 40000 then true else s.vinHeld
          vinHigh := if 40500 ≤ mv then some ((s.power.vinHigh).getD (s.cycles .control)) else none } ∧
        t.dev.state = s.dev.state ∧ (vinBelow → t.dev.lastFault = s.dev.faultSeq ∧
          Records s t 0x28 5 [0xFFFFFFFF, 0xFFFFFFFF, 0xFFFFFFFF, 0xFFFFFFFF, 0]) ∧ (¬ vinBelow → t.dev = s.dev))) ∧
    (s.clocked = true →
      (s.power.shuttingDown = false → Answers .powerLoopTick s fun t => t.power.meters = s.power.meters ∧ t.dev = s.dev ∧ SameMem s t ∧
        t.power.shown = s.power.supplies ∧ ∀ j, s.tileUsable j = true →
          let y := s.tile j
          let m := max 1 (min 10 s.power.past.length)
          let e := s.tileEnergy (nth s.power.past (m - 1) []) j
          let budget := y.step * s.power.scaledLimit * (e.2 * 10 * m)
          let power := e.1 * 16 * s.fuses.part.tiles * 4000
          let least := s.leastClock y
          (t.tile j).clk = y.clk ∧ (t.tile j).step = y.step ∧ (t.tile j).power = e.1 / (e.2 * 10 * m) ∧
          (budget < power → (t.tile j).clock = max least (if least + 100 ≤ y.clock then y.clock - 100 else y.clock)) ∧
          (power ≤ budget → 100 * power < 95 * budget → 5 * y.rise < 4 * s.power.riseLim.toNat →
            (t.tile j).clock = max least (min 3600 (y.clock + 100))) ∧
          (power ≤ budget → 95 * budget ≤ 100 * power ∨ 4 * s.power.riseLim.toNat ≤ 5 * y.rise →
            (t.tile j).clock = max least y.clock)) ∧
      (∀ mhz, s.tileUsable k = true → x.newClk = some mhz → Answers (.clockChangeApply k) s fun t =>
        TileBecomes k s t { x with clk := max (s.leastClock x) mhz, newClk := none }) ∧
      (s.tileUsable k = true → obs.readings.length = 56 →
        Answers (.thermalModelStep k obs) s fun t =>
          let y := t.tile k
          (x.band ≤ 3 → 1504 ≤ y.hot → y.band = 3) ∧ (y.hot < 1152 → y.band = 0) ∧
          (x.band ≤ 3 → 1184 ≤ y.hot → y.hot < 1312 → y.band = 1) ∧
          (1680 ≤ y.hot → t.power.shuttingDown = true ∧ y.step = x.step) ∧
          (y.hot < 1680 → t.power.shuttingDown = s.power.shuttingDown) ∧
          (y.hot < 1680 → s.planBooked = false → 1 < x.step →
            (16 * s.power.target.toNat : Int) ≤ y.hot + y.rise ∨ 8 * s.power.riseLim.toNat < 5 * y.rise → y.step + 1 = x.step) ∧
          (y.step = x.step ∨ y.step + 1 = x.step ∨ y.step = x.step + 1) ∧
          t.dev.state = s.dev.state ∧ SameMem s t ∧ ∀ j, j ≠ k → t.tile j = s.tile j) ∧
      (∀ c, s.tileUsable k = true → x.residualSince = some c → c + 15000000 ≤ s.cycles .control → x.lastModelRec = none →
        Answers (.sensorModelResidual k) s fun t => TileBecomes k
            { s with dev := t.dev, power := t.power, ports := t.ports, hostMem := t.hostMem, out := t.out, xings := t.xings } t
            { x with lastModelRec := some (s.cycles .control) } ∧
          t.power = { s.power with disagrees := BitVec.ofNat 16 (min 0xFFFF (s.power.disagrees.toNat + 1)) } ∧
          Records s t 0x29 3 [k, 0xFFFFFFFF, 0xFFFFFFFF, 0xFFFFFFFF] ∧
          t.dev.lastFault = s.dev.faultSeq ∧ t.dev.state = s.dev.state)) ∧
    (s.power.shuttingDown = true → s.dev.state ≠ .off → Answers .powerLoopTick s fun t => off t ∧ t.power.latchedOff = true) ∧
    (s.dev.state ≠ .off → s.dev.state ≠ .grey → s.tilePresent k = true → sensor < 16 →
      Answers (.hardwareTrip k sensor) s fun t => off t ∧ t.power.latchedOff = true) ∧
    (sup.vin < 3600 ∨ sup.vaux < 2900 ∨ sup.vio < 1550 → Answers (.supplyInvalid sup) s fun t => off t ∧ t.power.valid = false ∧
      t.power.supplies = sup ∧ t.power.vinOk = vinOk ∧ t.power.vauxOk = vauxOk ∧ t.power.vioOk = vioOk ∧
      (sup.vin < 3600 → t.power.latchedOff = false) ∧ t.power.inEnergy = 0) ∧
    (vinOk = true → vauxOk = true → vioOk = true → s.power.valid = false →
      exec (.supplyValid sup) s = .next { s with power := { s.power with supplies := sup, vinOk := true, vauxOk := true, vioOk := true } })

/-! ## Start-up, security, debug -/

/-- R24, R310, R398, R420, R421, R427 to R430, R440, R441, R444, R453: a released reset latches the straps and begins the
start, or enters GREY where the BOOT_SRC strap or an unreadable flash says so; a start that succeeds ends in the idle state
with empty memory; one that fails is counted and resets the device, or at the third failure enters GREY; fuses only
advance; every freeze ends in FROZEN, and the resets wait in BOOT with their cause. -/
def Obligations.StartsFreezesResets : Prop :=
  ∀ (env : ResetEnv) (differ ns : Nat) (s : State),
    let fl := s.sec.flash
    let boots := fun (i : Instr) (cause : BitVec 4) => Answers i s fun t =>
      t.dev = Dev.reset s.fuses.part ∧ t.sec.cause = cause ∧ t.mem = [] ∧ t.cores = [] ∧ t.fuses = s.fuses
    let freezes := fun (i : Instr) => Answers i s fun t => t.dev.state = .frozen ∧ t.dev.preFreeze = s.dev.state ∧
      t.dev.gen = s.dev.gen + 1 ∧ t.dev.long = none ∧ t.dev.deferred = none ∧ SameMem s t ∧ SameScratch s t
    (s.mayRelease = true → s.flashFree = true → fl.governing.isSome = true →
      (tst env.straps 0 = false → Answers (.resetRelease env) s fun t => t.dev = { s.dev with
          state := .boot, inReset := false, straps := env.straps, owner := if tst env.straps 2 then 1 else 0 } ∧
        (t.port 0).perst = env.perst0 ∧ (t.port 1).perst = env.perst1 ∧ t.sec.freezeLow = env.freezeHeld) ∧
      (tst env.straps 0 = true → Answers (.resetRelease env) s fun t => t.dev.state = .grey ∧ t.dev.straps = env.straps)) ∧
    (s.mayRelease = true → s.flashFree = false ∨ fl.governing = none → Answers (.resetRelease env) s fun t => t.dev.state = .grey) ∧
    (s.starting = true →
      (s.sec.imageWhy = 0 → s.tileUsable 0 = true ∨ s.tileUsable 1 = true → Answers (.bootSuccess ⟨[], [], []⟩) s fun t =>
        t.dev.state = s.idleState ∧ t.dev.gen = s.dev.gen + 1 ∧ t.dev.recno = s.dev.recno + 1 ∧ t.mem = [] ∧
        (∀ k, k < s.fuses.part.tiles → (t.tile k).granules = []) ∧ t.fuses = s.fuses) ∧
      (∀ a, s.flashFree = true → fl.governing = some a → fl.attempts.length = 2 → (∀ b ∈ fl.attempts, b.counter ≠ 0xFFFFFFFF) →
        ∀ i ∈ [Instr.bootFail 3, Instr.bootFail 4, Instr.bootFail 5, Instr.bootWatchdog, Instr.bootTimeout] ++
            (if s.sec.imageWhy = 1 ∨ s.sec.imageWhy = 2 then [Instr.bootFail s.sec.imageWhy.toNat] else []),
          (a.fails < 2 → boots i 4 ∧ Answers i s fun t => ∃ b, t.sec.flash.governing = some b ∧ b.fails = a.fails + 1) ∧
          (2 ≤ a.fails → Answers i s fun t => t.dev.state = .grey ∧ t.mem = [] ∧ ∃ b, t.sec.flash.governing = some b ∧ b.fails = 3))) ∧
    (s.awake = true →
      (s.starting = false → s.sec.fuseDue = true → Answers .fuseAdvance s fun t =>
        t.fuses = { s.fuses with svn := max s.fuses.svn (min 64 s.sec.minsvn), revoked := t.fuses.revoked } ∧
        s.fuses.revoked &&& t.fuses.revoked = s.fuses.revoked ∧ t.sec.fuseDue = false ∧ t.dev = s.dev) ∧
      (Answers (.fuseShadowCheck differ) s fun t => t = { s with sec := { s.sec with
        fusemis := BitVec.ofNat 16 (min 0xFFFF (s.sec.fusemis.toNat + differ)) } }) ∧
      (s.power.valid = true → freezes .jtagFreeze) ∧ (s.sec.freezeLow = false → 1000 ≤ ns → freezes (.freezeNAssert ns)) ∧
      (s.power.valid = true → boots .devreset 5)) ∧
    (s.dev.state = .frozen → s.dev.inReset = false → boots (.smbusReset 0xA5) 3 ∧ (s.power.valid = true → boots .devreset 3)) ∧
    (s.sec.freezeLow = false → ns < 250 → Answers (.freezeNAssert ns) s fun t => t = { s with free := s.free + 1 }) ∧
    (∀ why, s.starting = true → why = 0x0A → Answers (.bootFail why) s fun t => t.dev.state = .grey ∧ t.mem = []) ∧
    (Answers .freezeNRelease s fun t => t = { s with sec := { s.sec with freezeLow := s.sec.freezeOut } })

/-- R443, R445, R446, R452, R460 to R465: in FROZEN the SMBus answers with 32 postcard bytes and moves its address on, in
no other state; MCTP and PLDM answer while the device is awake; the TAP works while the supplies are valid, a DBGACC read
returns what a register read would, a write does what a register write would and needs the DEBUGW fuse; QSPI_EXT_N takes the flash. -/
def Obligations.SidebandAndJtag : Prop :=
  ∀ (a : BitVec 32) (eid cmd code : BitVec 8) (id : Nat) (balls : List Bool) (adr : BitVec 40) (da : Da) (val : BitVec 64) (s : State),
    let frozen := s.dev.state = .frozen ∧ s.dev.inReset = false
    let nak := { s with out := s.out ++ [.nak] }
    let sec := fun (i : Instr) (x : Sec) => exec i s = .next { s with sec := x }
    (frozen → sec (.smbusSetAddress a) { s.sec with postAddr := a } ∧ Answers .smbusReadPostcard s fun t =>
      t.sec = { s.sec with postAddr := s.sec.postAddr + 32 } ∧ t.dev = s.dev ∧ SameMem s t ∧
      ∃ l, l.length = 32 ∧ t.out = s.out ++ [.bytes 0 l]) ∧
    (s.dev.state ≠ .frozen → s.dev.state ≠ .off →
      exec (.smbusSetAddress a) s = .next nak ∧ exec .smbusReadPostcard s = .next nak ∧ exec (.smbusReset cmd) s = .next nak) ∧
    (s.dev.state ≠ .off → exec .smbusClockTimeout s = .next nak) ∧
    (s.awake = true →
      (Answers (.setEndpointId eid) s fun t => t.sec = { s.sec with eid := eid } ∧ t.dev = s.dev ∧ ∃ l, t.out = s.out ++ [.bytes 20 l]) ∧
      (Answers (.mctpControlRequest cmd) s fun t => ∃ l, t = { s with out := s.out ++ [.bytes 20 l] }) ∧
      (∀ e ∈ [(1, (s.power.inputPower : Int)), (2, ((10 * s.power.shown.vin : Nat) : Int)), (3, (s.power.shown.vaux : Int)),
          (4, (s.power.shown.vio : Int)), (32, (s.dev.state.code : Int))],
        exec (.pldmRequest (.getSensor e.1)) s = .next { s with out := s.out ++ [.sensor e.1 (some e.2)] }) ∧
      (16 ≤ id → id < 24 → exec (.pldmRequest (.getSensor id)) s = .next { s with out := s.out ++ [.sensor id
        (if s.tileUsable (id - 16) then some (s.tile (id - 16)).hot else none)] }) ∧
      (Answers (.pldmRequest (.base cmd)) s fun t => ∃ l, t = { s with out := s.out ++ [.bytes 21 l] }) ∧
      Answers (.pldmRequest (.getPdr id)) s fun t => ∃ l, t = { s with out := s.out ++ [.bytes 21 l] }) ∧
    (s.power.valid = true →
      sec (.extest balls) { s.sec with
        ir := 0x00, bsr := balls, extest := decide (s.dev.state = .frozen) || decide (s.dev.state = .grey) } ∧
      sec (.samplePreload balls) { s.sec with ir := 0x01, bsr := balls, extest := false } ∧
      sec (.bypass code) { s.sec with ir := code, extest := false } ∧
      (Answers .idcode s fun t => t.sec = { s.sec with ir := 0x02, extest := false } ∧ t.dev = s.dev ∧
        ∃ l, l.length = 4 ∧ t.out = s.out ++ [.bytes 1 l] ∧ ofBytes l % 2 = 1 ∧ ofBytes l / 2 ^ 12 % 2 ^ 16 = s.fuses.part.deviceId) ∧
      (frozen → Answers (.postcard adr) s fun t => t.sec = { s.sec with ir := 0x11, extest := false, dbgUsed := true } ∧
        ∃ l, l.length = 8 ∧ t.out = s.out ++ [.bytes 1 l]) ∧
      (s.dev.state ≠ .frozen → sec (.postcard adr) { s.sec with ir := 0x11, extest := false }) ∧
      (Answers (.dbgacc da false val) s fun t => t.sec.ir = 0x10 ∧ t.sec.dbgUsed = true ∧
        ∃ o l, l.length = 8 ∧ t.out = o ++ [.bytes 1 l]) ∧
      (s.canReach .jtag = true → ∃ u,
        exec (.registerWrite .jtag da 8 val) { s with sec := { s.sec with ir := 0x10, extest := false, dbgUsed := true } } = .next u ∧
        exec (.dbgacc da true val) s = .next u) ∧
      (s.canReach .jtag = false → sec (.dbgacc da true val) { s.sec with ir := 0x10, extest := false, dbgUsed := true })) ∧
    sec .tapReset { s.sec with ir := 0x02, extest := false } ∧ sec .qspiExtRelease { s.sec with qspiExt := false } ∧
    (s.dev.long = none → sec .qspiExtAssert { s.sec with qspiExt := true }) ∧
    (∀ l, s.dev.long = some l → pktOpc l.pkt = 0x40 → s.awake = true → Answers .qspiExtAssert s fun t => t.sec.qspiExt = true ∧
      t.dev = { s.dev with long := none, recno := s.dev.recno + 1 } ∧ (t.sec.flash.slot (!s.sec.flash.activeB)).invalid = true)

/-- R435, R436, R437: a responder answers nothing but GET_VERSION before it; GET_VERSION starts the transcript afresh,
every later answered request joins it, and a signature takes it up and leaves it empty. Large responses go out in chunks of
4,096 bytes, large requests come in in order. Slots other than 0 hold no certificate. -/
def Obligations.SpdmResponders : Prop :=
  ∀ (r off len index handle : Nat) (slot : BitVec 8) (nonce : BitVec 256) (chunk : List Byte) (s : State),
    let x := s.spdmOf r
    let ok := fun (i : Instr) (y : Spdm) => Answers i s fun t => ∃ body, t = (s.setSpdm r y).emit (.spdm r true body)
    let large := fun (i : Instr) => Answers i s fun t => ∃ h body, (t.spdmOf r).chunkOut = some (h, 0, body) ∧
      t.out = s.out ++ [.spdm r false [0x0F, BitVec.ofNat 8 h]] ∧ t.dev = s.dev
    let refused := fun (i : Instr) (code : Byte) => exec i s = .next (s.emit (.spdm r false [code]))
    s.spdmUp r = true → s.sec.spdm.length = 3 →
    exec (.getVersion r) s = .next ((s.setSpdm r { Spdm.reset with version := 1, transcript := [0x84] }).emit
      (.spdm r true [0x12, 0x13])) ∧
    (x.version = 0 → ∀ i ∈ [Instr.getCapabilities r, .negotiateAlgorithms r, .getDigests r, .getCertificate r 0 off len,
      .challenge r 0 nonce, .getMeasurements r false 0 nonce], refused i 4) ∧
    (x.version ≠ 0 →
      ok (.getCapabilities r) { x with transcript := x.transcript ++ [0xE1] } ∧
      ok (.negotiateAlgorithms r) { x with transcript := x.transcript ++ [0xE3] } ∧
      ok (.getDigests r) { x with transcript := x.transcript ++ [0x81] } ∧
      ok (.getCertificate r 0 off len) { x with transcript := x.transcript ++ [0x82, off, len] } ∧
      ok (.challenge r 0 nonce) { x with transcript := [], signed := some (x.transcript ++ [0x83, nonce.toNat]) } ∧
      (index ≤ 6 ∨ index = 0xFF →
        ok (.getMeasurements r false index nonce) { x with transcript := x.transcript ++ [0xE0, index] } ∧
        ok (.getMeasurements r true index nonce) { x with
          transcript := [], signed := some (x.transcript ++ [0xE0, index, nonce.toNat]) })) ∧
    (slot ≠ 0 → refused (.getCertificate r slot off len) 1 ∧ refused (.challenge r slot nonce) 1) ∧
    large (.vendorGetSlhdsaCerts r) ∧ (x.signed.isSome = true → large (.vendorGetSlhdsaSignature r)) ∧
    (x.signed = none → refused (.vendorGetSlhdsaSignature r) 4) ∧
    (∀ n left, x.chunkOut = some (handle, n, left) → Answers (.chunkGet r handle n) s fun t =>
      t = (s.setSpdm r { x with
        chunkOut := if (left.drop 4096).isEmpty then none else some (handle, n + 1, left.drop 4096) }).emit (.spdm r true (left.take 4096))) ∧
    (chunk.length ≤ 4096 →
      ok (.chunkSend r handle 0 false chunk) { x with chunkIn := some (handle, 1, chunk) } ∧
      ∀ n got, n ≠ 0 → x.chunkIn = some (handle, n, got) → got.length + chunk.length ≤ 65536 →
        ok (.chunkSend r handle n false chunk) { x with chunkIn := some (handle, n + 1, got ++ chunk) } ∧
        ok (.chunkSend r handle n true chunk) { x with chunkIn := none })

/-! ## Rules kept across families -/

/-- R303: enabling a command ring sets every slot's expected byte to 0x01; consuming a slot takes its value one on, from
0xFF to 0x01, the others keeping theirs; no value is ever 0x00, so that a packet of zeros never passes; HP_CMDSEQ shows the
value of the slot at HEAD. -/
def Obligations.ExpectedSequenceBytes : Prop :=
  ∀ (x : Nat) (v : BitVec 32) (slot : BitVec 512) (s : State),
    let p := s.port x
    let want := fun (q : Port) (j : Nat) => tget 1 q.cmd.slots j
    x < 2 → s.awake = true →
    (p.cmd.en = false → tst v 31 = true → Answers (.hpRingcfgEnable x 0 v) s fun t => (t.port x).cmd.en = true ∧ ∀ j, want (t.port x) j = 1) ∧
    (s.candidate x = true → p.failing = none → pktCrcOk slot = true → fld slot 15 8 = (want p p.cmd.head).toNat →
      ∃ u, exec (.commandSlotConsume x slot) s = .next (command u (if x = 0 then .hp0 else .hp1) slot) ∧
        want (u.port x) p.cmd.head = (if want p p.cmd.head = 0xFF then 1 else want p p.cmd.head + 1) ∧
        (∀ j, j ≠ p.cmd.head → want (u.port x) j = want p j) ∧ ((∀ j, want p j ≠ 0) → ∀ j, want (u.port x) j ≠ 0)) ∧
    (s.candidate x = true → p.failing = none → want p p.cmd.head ≠ 0 → Answers (.commandSlotConsume x 0) s fun t =>
      (t.port x).failing = some (true, !pktCrcOk 0) ∧ (t.port x).cmd = p.cmd) ∧
    fld (readReg s .buaman (0x020004000160 + 0x10000 * x) 4).1 7 0 = (want p p.cmd.head).toNat

/-- R177: every core has 32 semaphores of 16 bits; an engine's signal adds 1, SEMS adds or subtracts AMT; an addition that
would pass 0xFFFF leaves 0xFFFF, sets the semaphore's bit in SEQ_SEMFLAGS.HI and increments SATHI; a subtraction that would
pass 0 leaves 0, sets its bit in LO and increments SATLO. -/
def Obligations.SemaphoreCounts : Prop :=
  State.reset.cores = [] ∧ (Core.reset.seq.sems : List (BitVec 16)) = List.replicate 32 0 ∧
  ∀ (c sem : Nat) (s : State) (amt : BitVec 16) (w : BitVec 64) (h : QCmd),
    let q := (s.core c).seq
    let n := (nth q.sems sem 0).toNat
    let d := fld w 57 53
    let k := (nth q.sems d 0).toNat
    (s.headOp c 0 (· = 0) = some h → sigEn h.word = true → Answers (.mxNop c) s fun t =>
      (t.core c).seq.signals = q.signals ++ [(sigSem h.word, 1, false)]) ∧
    (s.instrAt c (· = 7) = some w → q.specs = [] → q.midBody →
      (tst w 52 = false → k + fld w 15 0 ≤ 0xFFFF → Answers (.sems c) s fun t => SeqBecomes c s t { q with
        sems := q.sems.set d (BitVec.ofNat 16 (k + fld w 15 0)), pc := q.pc + 1 }) ∧
      (tst w 52 = true → fld w 15 0 ≤ k → Answers (.sems c) s fun t => SeqBecomes c s t { q with
        sems := q.sems.set d (BitVec.ofNat 16 (k - fld w 15 0)), pc := q.pc + 1 })) ∧
    (0xFFFF < n + amt.toNat →
      ((applySignal s c sem amt false).core c).seq = { q with
        sems := q.sems.set sem 0xFFFF, semHi := q.semHi ||| (1 <<< sem)
        sathi := BitVec.ofNat 16 (min 0xFFFF (q.sathi.toNat + 1)) }) ∧
    (n < amt.toNat →
      ((applySignal s c sem amt true).core c).seq = { q with
        sems := q.sems.set sem 0, semLo := q.semLo ||| (1 <<< sem)
        satlo := BitVec.ofNat 16 (min 0xFFFF (q.satlo.toNat + 1)) })

/-- R244, R221: a read of a line whose granule bit is 0 returns zero bytes without error: it opens no row, leaves the
vault's counters and latches as they were, and changes nothing of memory; a line of a lost vault or a lost tile reads as
poison whatever its bit. -/
def Obligations.InvalidGranulesReadZero : Prop :=
  ∀ (t v k : Nat) (s : State) (e : QEnt) (p : Place),
    let r := e.rq
    let q := placeOf t v r.line
    (s.mayServe t v k = some e → r.kind = .read → r.tile = t → r.vault = v → s.granuleValid t (s.granuleOf q) = false →
      ∃ u, exec (.vaultServe t v k) s = .next (answerFrom u (.vault t v)
          { id := r.id, own := r.own, da := r.ask, isRead := true, data := 0, bad := false }) ∧
        u.mem = s.mem ∧ u.dev = s.dev ∧ u = { s with vaults := u.vaults } ∧ (∀ j, j ≠ 64 * t + v → tget Vault.reset u.vaults j = tget Vault.reset s.vaults j) ∧
        u.vault t v = { s.vault t v with
          queue := (u.vault t v).queue, draining := (u.vault t v).draining }) ∧
    (s.granuleValid p.tile (s.granuleOf p) = false → s.vaultUsable p.tile p.vault = true → hubRead s p = ((0, false), s) ∧ s.lineValue p = (0, false)) ∧
    ((s.vault p.tile p.vault).lost = true ∨ (s.tile p.tile).lost = true → (hubRead s p).1.2 = true ∧ (hubRead s p).2 = s ∧ (s.lineValue p).2 = true)

/-- R378, R379, R319: a fault record carries its class, reason, flags and the device's state, step and generation as the
fault left them; sequence numbers go up by one, from 0xFFFF_FFFF to 1; the newest 4,096 are held; and posting one changes
nothing but the rings and the log. -/
def Obligations.FaultRecords : Prop :=
  ∀ (s : State) (cls reason : Nat) (ds : List Nat) (cause : BitVec 32) (more halted chg : Bool),
    let t := postFaultRec s cls reason ds cause more halted chg
    let q := s.dev.faultSeq
    cls < 256 → reason < 256 →
    t.dev = { s.dev with
      faultSeq := if q = 0xFFFFFFFF then 1 else q + 1, lastFault := q, faults := t.dev.faults } ∧
    (s.logOk → t.logOk) ∧ (s.dev.faults.length < 4096 → t.dev.faults.take s.dev.faults.length = s.dev.faults) ∧
    t = { s with dev := t.dev, ports := t.ports, hostMem := t.hostMem, out := t.out, xings := t.xings } ∧
    ∃ f, t.dev.faults.getLast? = some f ∧ f.cleared = false ∧ fld f.bits 7 0 = 0x10 ∧ fld f.bits 15 8 = 0 ∧
      fld f.bits 63 56 = cls ∧ fld f.bits 55 48 = reason ∧ fld f.bits 47 44 = s.dev.state.code ∧ tst f.bits 39 = more ∧
      tst f.bits 38 = halted ∧ tst f.bits 37 = chg ∧ fld f.bits 95 64 = s.dev.step.toNat ∧ fld f.bits 127 96 = s.dev.gen.toNat ∧
      fld f.bits 159 128 = q.toNat ∧ fld f.bits 191 160 = cause.toNat ∧
      (∀ i, i < 7 → fld f.bits (287 + 32 * i) (256 + 32 * i) = nth (ds.take 7) i 0 % 2 ^ 32) ∧
      fld f.bits 511 480 = (crc32c (bytesOf 60 f.bits.toNat)).toNat

/-- The block's queue: a step takes the command at its front and runs it on the state with the rest. -/
def Obligations.StepTakesTheFrontCommand : Prop :=
  ∀ (c : Instr) (rest : List Instr) (s : State), step { s with pending := c :: rest } = exec c { s with pending := rest }

/-- The model's choice (log entry 16): with no command waiting, time passes. A shutdown under way ends in OFF (R416); else without
clocks nothing changes (R398, R441); else the model's clock advances, statuses whose result blocks have been acknowledged are
posted (R316), and of the rest only timers and the partner's silence move while no START waits and no long command is in
progress. -/
def Obligations.EmptyQueueIsATick : Prop :=
  ∀ (s : State), s.pending = [] →
    (s.dev.state = .off → step s = .next s) ∧
    (s.power.shuttingDown = false → s.dev.state = .frozen ∨ s.dev.inReset = true → step s = .next s) ∧
    (s.power.shuttingDown = true → s.dev.state ≠ .off → ∃ t, step s = .next t ∧ t.dev.state = .off ∧ t.power.latchedOff = true) ∧
    (s.awake = true → s.power.shuttingDown = false →
      (∃ t, step s = .next t ∧ t.ticks = s.ticks + 1) ∧
      (s.dev.long = none → s.dev.starting = none → ∃ t, step s = .next t ∧
        t.dev = { s.dev with
          posts := s.dev.posts.filter fun p => decide (p.left ≠ 0)
          recno := s.dev.recno + BitVec.ofNat 32 (s.dev.posts.filter fun p => decide (p.left = 0)).length } ∧ SameMem s t) ∧
      (s.dev.long = none → s.dev.starting = none → (∀ p ∈ s.dev.posts, p.left ≠ 0) → ∃ t, step s = .next t ∧
        t = { s with ticks := t.ticks, cores := t.cores, mirror := t.mirror } ∧
        t.mirror = { s.mirror with silence := t.mirror.silence } ∧
        ∀ c, t.core c = { s.core c with dem := { (s.core c).dem with
          legTimer := (t.core c).dem.legTimer, stepTimer := (t.core c).dem.stepTimer } }))

/-- In every state every command and event answers a next state: none stops the block, and none touches the queue. -/
def Obligations.EveryCommandAnswers : Prop :=
  ∀ (c : Instr) (s : State), ∃ t, exec c s = .next t ∧ t.pending = s.pending

/-- R10, R23, R24, R55, R85, R100, R126, R220, R301, R303, R327: what reset leaves: BOOT, no plan and no command in
progress, accumulators +0, E4M3 layouts of 7 planes, masks of all ones, row states of −∞ and +0, bank units ready, rings
disabled and expecting 0x01, links down, the start-up windows. -/
def Obligations.ResetValues : Prop :=
  let s := State.reset
  s.dev.state = .boot ∧ s.dev.plan = none ∧ s.dev.long = none ∧ s.dev.deferred = none ∧ s.mirror.pair = .off ∧
  (∀ c, (s.core c).mx.layouts = List.replicate 8 { typ := 0x03, planes := 7, rowp := 1, pstr := 0 } ∧
    (∀ b, ((s.core c).mx.bankAt b).acc = []) ∧ (s.core c).vx.masks = List.replicate 8 (BitVec.allOnes 1024) ∧
    tget RowState.reset (s.core c).vx.rows 0 = { m := 0xFF800000, s := 0, kinf := 0, nan := false, live := false, entries := [], accums := 0 } ∧
    (s.core c).seq.sems = List.replicate 32 0 ∧ (s.core c).valid = []) ∧
  (∀ k, (s.unit k).ready = true ∧ (s.unit k).h = List.replicate 8 0) ∧
  (∀ x, (s.port x).up = false ∧ (s.port x).cmd.en = false ∧ (s.port x).expected = 1) ∧ (∀ n, (s.link n).state = .down) ∧
  (∀ da, da < 8 * 2 ^ 37 → ∃ p, s.place da = some p ∧ p.tile = da / 2 ^ 37) ∧
  ∀ t v, (s.vault t v).thresh = 0x0400 ∧ (s.vault t v).erased = none

/-- The state after reset is sound. -/
def Obligations.ResetIsSound : Prop :=
  State.reset.Inv

/-- Every step keeps the three memories in their canonical form, the log within its 4,096 records (R319), and a SELFTEST
apart from any plan (R312 to R314). -/
def Obligations.StepKeepsTheInvariant : Prop :=
  ∀ (s t : State), s.Inv → step s = .next t → t.Inv

/-- R427, R446, R467: fused values are for good: no command or event changes one but FUSE_ADVANCE, which lets the SVN
count rise and revokes key sets, and nothing else. -/
def Obligations.FusesOnlyRise : Prop :=
  ∀ (c : Instr) (s t : State), exec c s = .next t → Fuses.rises s.fuses t.fuses ∧ (c ≠ .fuseAdvance → t.fuses = s.fuses)

/-- R25, R22: outside resets, whatever one command or event does, the generation goes up by one exactly where the device
state has changed, and READ_STATE returns it; where packets of the partner wait behind a slot or a START, each is one such command.
A reset starts it afresh (the model's choice, log entry 3), as the model's own reset count tells. -/
def Obligations.GenerationCountsStateChanges : Prop :=
  let counts := fun (s t : State) => t.epoch = s.epoch →
    t.dev.gen = if t.dev.state = s.dev.state then s.dev.gen else s.dev.gen + 1
  (∀ (c : Instr) (s t : State), s.Inv → (∀ p, .msg p ∉ s.dev.arrivals) → exec c s = .next t → (∀ env, c ≠ .resetRelease env) → counts s t) ∧
  (∀ (src : Src) (p : BitVec 512) (s : State), s.Inv → counts s (command s src p) ∧ counts s (pumpStart s)) ∧
  ∀ (src : Src) (pkt : BitVec 512) (s : State), s.takes src = true → src ≠ .partner →
    ∃ u, exec (.readState src pkt) s = .next u ∧ u = reply s src (setFld pkt 7 0 2) 0
      [s.dev.state.code + 16 * s.dev.owner, s.dev.gen.toNat, s.dev.step.toNat, s.dev.lastFault.toNat]
end

