-- ==== Sys2Proof/Laws/Tab.lean ====
section
/-!
SUPPORT. Laws of finite tables: what an entry reads after a change, with no condition on the table's form.
-/
namespace Sys2Proof.Machine

variable {α : Type}

theorem tget_tput (d : α) (t : Tab α) (k j : Nat) (v : α) : tget d (tput t k v) j = if k = j then v else tget d t j := by
  induction t with
  | nil => simp [tput, tget]
  | cons e rest ih =>
    obtain ⟨i, w⟩ := e
    simp only [tput]
    split
    · simp [tget]
    · split
      · next h => subst h; simp only [tget]; split <;> rfl
      · next h => simp only [tget, ih]; split
                  · next h' => subst h'; simp [h]
                  · rfl

theorem tget_tdel (d : α) (t : Tab α) (k j : Nat) : tget d (tdel t k) j = if k = j then d else tget d t j := by
  induction t with
  | nil => simp [tdel, tget]
  | cons e rest ih =>
    obtain ⟨i, w⟩ := e
    simp only [tdel, tget]
    split
    · next h => subst h; simp only [ih]; split <;> rfl
    · next h =>
      simp only [tget, ih]
      split
      · next h' => subst h'; simp [Ne.symm h]
      · rfl

/-- An entry after a change of entry k. -/
theorem tget_tset [DecidableEq α] (d : α) (t : Tab α) (k j : Nat) (v : α) :
    tget d (tset d t k v) j = if k = j then v else tget d t j := by
  unfold tset
  split
  · next h => rw [tget_tdel, h]
  · exact tget_tput d t k j v

@[simp] theorem tget_tset_self [DecidableEq α] (d : α) (t : Tab α) (k : Nat) (v : α) : tget d (tset d t k v) k = v := by
  simp [tget_tset]

theorem tget_tset_ne [DecidableEq α] (d : α) (t : Tab α) {k j : Nat} (v : α) (h : k ≠ j) :
    tget d (tset d t k v) j = tget d t j := by
  simp [tget_tset, h]

@[simp] theorem tget_nil (d : α) (k : Nat) : tget d [] k = d := rfl

end Sys2Proof.Machine
end

