-- ==== Sys2Proof/Laws/State.lean ====
section
/-!
SUPPORT. What each update of a part of the state leaves: one lemma per field and update, true by definition, and what the
part reads after it.
-/
namespace Sys2Proof.Machine

variable (s : State)


/-! ### setCore -/

@[simp] theorem State.setCore_fuses (c : Nat) (x : Core) : (s.setCore c x).fuses = s.fuses := rfl
@[simp] theorem State.setCore_dev (c : Nat) (x : Core) : (s.setCore c x).dev = s.dev := rfl
@[simp] theorem State.setCore_power (c : Nat) (x : Core) : (s.setCore c x).power = s.power := rfl
@[simp] theorem State.setCore_sec (c : Nat) (x : Core) : (s.setCore c x).sec = s.sec := rfl
@[simp] theorem State.setCore_mirror (c : Nat) (x : Core) : (s.setCore c x).mirror = s.mirror := rfl
@[simp] theorem State.setCore_tiles (c : Nat) (x : Core) : (s.setCore c x).tiles = s.tiles := rfl
@[simp] theorem State.setCore_vaults (c : Nat) (x : Core) : (s.setCore c x).vaults = s.vaults := rfl
@[simp] theorem State.setCore_units (c : Nat) (x : Core) : (s.setCore c x).units = s.units := rfl
@[simp] theorem State.setCore_xings (c : Nat) (x : Core) : (s.setCore c x).xings = s.xings := rfl
@[simp] theorem State.setCore_ports (c : Nat) (x : Core) : (s.setCore c x).ports = s.ports := rfl
@[simp] theorem State.setCore_links (c : Nat) (x : Core) : (s.setCore c x).links = s.links := rfl
@[simp] theorem State.setCore_mem (c : Nat) (x : Core) : (s.setCore c x).mem = s.mem := rfl
@[simp] theorem State.setCore_scratch (c : Nat) (x : Core) : (s.setCore c x).scratch = s.scratch := rfl
@[simp] theorem State.setCore_hostMem (c : Nat) (x : Core) : (s.setCore c x).hostMem = s.hostMem := rfl
@[simp] theorem State.setCore_out (c : Nat) (x : Core) : (s.setCore c x).out = s.out := rfl
@[simp] theorem State.setCore_ticks (c : Nat) (x : Core) : (s.setCore c x).ticks = s.ticks := rfl
@[simp] theorem State.setCore_epoch (c : Nat) (x : Core) : (s.setCore c x).epoch = s.epoch := rfl
@[simp] theorem State.setCore_free (c : Nat) (x : Core) : (s.setCore c x).free = s.free := rfl
@[simp] theorem State.setCore_nextRq (c : Nat) (x : Core) : (s.setCore c x).nextRq = s.nextRq := rfl
@[simp] theorem State.setCore_pending (c : Nat) (x : Core) : (s.setCore c x).pending = s.pending := rfl
@[simp] theorem State.setCore_vault (c : Nat) (x : Core) (t' v' : Nat) : (s.setCore c x).vault t' v' = s.vault t' v' := rfl
@[simp] theorem State.setCore_tile (c : Nat) (x : Core) (d : Nat) : (s.setCore c x).tile d = s.tile d := rfl
@[simp] theorem State.setCore_port (c : Nat) (x : Core) (d : Nat) : (s.setCore c x).port d = s.port d := rfl
@[simp] theorem State.setCore_link (c : Nat) (x : Core) (d : Nat) : (s.setCore c x).link d = s.link d := rfl
@[simp] theorem State.setCore_xing (c : Nat) (x : Core) (d : Nat) : (s.setCore c x).xing d = s.xing d := rfl
@[simp] theorem State.setCore_unit (c : Nat) (x : Core) (d : Nat) : (s.setCore c x).unit d = s.unit d := rfl

/-! ### setVault -/

@[simp] theorem State.setVault_fuses (t v : Nat) (x : Vault) : (s.setVault t v x).fuses = s.fuses := rfl
@[simp] theorem State.setVault_dev (t v : Nat) (x : Vault) : (s.setVault t v x).dev = s.dev := rfl
@[simp] theorem State.setVault_power (t v : Nat) (x : Vault) : (s.setVault t v x).power = s.power := rfl
@[simp] theorem State.setVault_sec (t v : Nat) (x : Vault) : (s.setVault t v x).sec = s.sec := rfl
@[simp] theorem State.setVault_mirror (t v : Nat) (x : Vault) : (s.setVault t v x).mirror = s.mirror := rfl
@[simp] theorem State.setVault_tiles (t v : Nat) (x : Vault) : (s.setVault t v x).tiles = s.tiles := rfl
@[simp] theorem State.setVault_cores (t v : Nat) (x : Vault) : (s.setVault t v x).cores = s.cores := rfl
@[simp] theorem State.setVault_units (t v : Nat) (x : Vault) : (s.setVault t v x).units = s.units := rfl
@[simp] theorem State.setVault_xings (t v : Nat) (x : Vault) : (s.setVault t v x).xings = s.xings := rfl
@[simp] theorem State.setVault_ports (t v : Nat) (x : Vault) : (s.setVault t v x).ports = s.ports := rfl
@[simp] theorem State.setVault_links (t v : Nat) (x : Vault) : (s.setVault t v x).links = s.links := rfl
@[simp] theorem State.setVault_mem (t v : Nat) (x : Vault) : (s.setVault t v x).mem = s.mem := rfl
@[simp] theorem State.setVault_scratch (t v : Nat) (x : Vault) : (s.setVault t v x).scratch = s.scratch := rfl
@[simp] theorem State.setVault_hostMem (t v : Nat) (x : Vault) : (s.setVault t v x).hostMem = s.hostMem := rfl
@[simp] theorem State.setVault_out (t v : Nat) (x : Vault) : (s.setVault t v x).out = s.out := rfl
@[simp] theorem State.setVault_ticks (t v : Nat) (x : Vault) : (s.setVault t v x).ticks = s.ticks := rfl
@[simp] theorem State.setVault_epoch (t v : Nat) (x : Vault) : (s.setVault t v x).epoch = s.epoch := rfl
@[simp] theorem State.setVault_free (t v : Nat) (x : Vault) : (s.setVault t v x).free = s.free := rfl
@[simp] theorem State.setVault_nextRq (t v : Nat) (x : Vault) : (s.setVault t v x).nextRq = s.nextRq := rfl
@[simp] theorem State.setVault_pending (t v : Nat) (x : Vault) : (s.setVault t v x).pending = s.pending := rfl
@[simp] theorem State.setVault_core (t v : Nat) (x : Vault) (d : Nat) : (s.setVault t v x).core d = s.core d := rfl
@[simp] theorem State.setVault_tile (t v : Nat) (x : Vault) (d : Nat) : (s.setVault t v x).tile d = s.tile d := rfl
@[simp] theorem State.setVault_port (t v : Nat) (x : Vault) (d : Nat) : (s.setVault t v x).port d = s.port d := rfl
@[simp] theorem State.setVault_link (t v : Nat) (x : Vault) (d : Nat) : (s.setVault t v x).link d = s.link d := rfl
@[simp] theorem State.setVault_xing (t v : Nat) (x : Vault) (d : Nat) : (s.setVault t v x).xing d = s.xing d := rfl
@[simp] theorem State.setVault_unit (t v : Nat) (x : Vault) (d : Nat) : (s.setVault t v x).unit d = s.unit d := rfl

/-! ### setTile -/

@[simp] theorem State.setTile_fuses (t : Nat) (x : Tile) : (s.setTile t x).fuses = s.fuses := rfl
@[simp] theorem State.setTile_dev (t : Nat) (x : Tile) : (s.setTile t x).dev = s.dev := rfl
@[simp] theorem State.setTile_power (t : Nat) (x : Tile) : (s.setTile t x).power = s.power := rfl
@[simp] theorem State.setTile_sec (t : Nat) (x : Tile) : (s.setTile t x).sec = s.sec := rfl
@[simp] theorem State.setTile_mirror (t : Nat) (x : Tile) : (s.setTile t x).mirror = s.mirror := rfl
@[simp] theorem State.setTile_cores (t : Nat) (x : Tile) : (s.setTile t x).cores = s.cores := rfl
@[simp] theorem State.setTile_vaults (t : Nat) (x : Tile) : (s.setTile t x).vaults = s.vaults := rfl
@[simp] theorem State.setTile_units (t : Nat) (x : Tile) : (s.setTile t x).units = s.units := rfl
@[simp] theorem State.setTile_xings (t : Nat) (x : Tile) : (s.setTile t x).xings = s.xings := rfl
@[simp] theorem State.setTile_ports (t : Nat) (x : Tile) : (s.setTile t x).ports = s.ports := rfl
@[simp] theorem State.setTile_links (t : Nat) (x : Tile) : (s.setTile t x).links = s.links := rfl
@[simp] theorem State.setTile_mem (t : Nat) (x : Tile) : (s.setTile t x).mem = s.mem := rfl
@[simp] theorem State.setTile_scratch (t : Nat) (x : Tile) : (s.setTile t x).scratch = s.scratch := rfl
@[simp] theorem State.setTile_hostMem (t : Nat) (x : Tile) : (s.setTile t x).hostMem = s.hostMem := rfl
@[simp] theorem State.setTile_out (t : Nat) (x : Tile) : (s.setTile t x).out = s.out := rfl
@[simp] theorem State.setTile_ticks (t : Nat) (x : Tile) : (s.setTile t x).ticks = s.ticks := rfl
@[simp] theorem State.setTile_epoch (t : Nat) (x : Tile) : (s.setTile t x).epoch = s.epoch := rfl
@[simp] theorem State.setTile_free (t : Nat) (x : Tile) : (s.setTile t x).free = s.free := rfl
@[simp] theorem State.setTile_nextRq (t : Nat) (x : Tile) : (s.setTile t x).nextRq = s.nextRq := rfl
@[simp] theorem State.setTile_pending (t : Nat) (x : Tile) : (s.setTile t x).pending = s.pending := rfl
@[simp] theorem State.setTile_core (t : Nat) (x : Tile) (d : Nat) : (s.setTile t x).core d = s.core d := rfl
@[simp] theorem State.setTile_vault (t : Nat) (x : Tile) (t' v' : Nat) : (s.setTile t x).vault t' v' = s.vault t' v' := rfl
@[simp] theorem State.setTile_port (t : Nat) (x : Tile) (d : Nat) : (s.setTile t x).port d = s.port d := rfl
@[simp] theorem State.setTile_link (t : Nat) (x : Tile) (d : Nat) : (s.setTile t x).link d = s.link d := rfl
@[simp] theorem State.setTile_xing (t : Nat) (x : Tile) (d : Nat) : (s.setTile t x).xing d = s.xing d := rfl
@[simp] theorem State.setTile_unit (t : Nat) (x : Tile) (d : Nat) : (s.setTile t x).unit d = s.unit d := rfl

/-! ### setPort -/

@[simp] theorem State.setPort_fuses (p : Nat) (x : Port) : (s.setPort p x).fuses = s.fuses := rfl
@[simp] theorem State.setPort_dev (p : Nat) (x : Port) : (s.setPort p x).dev = s.dev := rfl
@[simp] theorem State.setPort_power (p : Nat) (x : Port) : (s.setPort p x).power = s.power := rfl
@[simp] theorem State.setPort_sec (p : Nat) (x : Port) : (s.setPort p x).sec = s.sec := rfl
@[simp] theorem State.setPort_mirror (p : Nat) (x : Port) : (s.setPort p x).mirror = s.mirror := rfl
@[simp] theorem State.setPort_tiles (p : Nat) (x : Port) : (s.setPort p x).tiles = s.tiles := rfl
@[simp] theorem State.setPort_cores (p : Nat) (x : Port) : (s.setPort p x).cores = s.cores := rfl
@[simp] theorem State.setPort_vaults (p : Nat) (x : Port) : (s.setPort p x).vaults = s.vaults := rfl
@[simp] theorem State.setPort_units (p : Nat) (x : Port) : (s.setPort p x).units = s.units := rfl
@[simp] theorem State.setPort_xings (p : Nat) (x : Port) : (s.setPort p x).xings = s.xings := rfl
@[simp] theorem State.setPort_links (p : Nat) (x : Port) : (s.setPort p x).links = s.links := rfl
@[simp] theorem State.setPort_mem (p : Nat) (x : Port) : (s.setPort p x).mem = s.mem := rfl
@[simp] theorem State.setPort_scratch (p : Nat) (x : Port) : (s.setPort p x).scratch = s.scratch := rfl
@[simp] theorem State.setPort_hostMem (p : Nat) (x : Port) : (s.setPort p x).hostMem = s.hostMem := rfl
@[simp] theorem State.setPort_out (p : Nat) (x : Port) : (s.setPort p x).out = s.out := rfl
@[simp] theorem State.setPort_ticks (p : Nat) (x : Port) : (s.setPort p x).ticks = s.ticks := rfl
@[simp] theorem State.setPort_epoch (p : Nat) (x : Port) : (s.setPort p x).epoch = s.epoch := rfl
@[simp] theorem State.setPort_free (p : Nat) (x : Port) : (s.setPort p x).free = s.free := rfl
@[simp] theorem State.setPort_nextRq (p : Nat) (x : Port) : (s.setPort p x).nextRq = s.nextRq := rfl
@[simp] theorem State.setPort_pending (p : Nat) (x : Port) : (s.setPort p x).pending = s.pending := rfl
@[simp] theorem State.setPort_core (p : Nat) (x : Port) (d : Nat) : (s.setPort p x).core d = s.core d := rfl
@[simp] theorem State.setPort_vault (p : Nat) (x : Port) (t' v' : Nat) : (s.setPort p x).vault t' v' = s.vault t' v' := rfl
@[simp] theorem State.setPort_tile (p : Nat) (x : Port) (d : Nat) : (s.setPort p x).tile d = s.tile d := rfl
@[simp] theorem State.setPort_link (p : Nat) (x : Port) (d : Nat) : (s.setPort p x).link d = s.link d := rfl
@[simp] theorem State.setPort_xing (p : Nat) (x : Port) (d : Nat) : (s.setPort p x).xing d = s.xing d := rfl
@[simp] theorem State.setPort_unit (p : Nat) (x : Port) (d : Nat) : (s.setPort p x).unit d = s.unit d := rfl

/-! ### setLink -/

@[simp] theorem State.setLink_fuses (n : Nat) (x : Link) : (s.setLink n x).fuses = s.fuses := rfl
@[simp] theorem State.setLink_dev (n : Nat) (x : Link) : (s.setLink n x).dev = s.dev := rfl
@[simp] theorem State.setLink_power (n : Nat) (x : Link) : (s.setLink n x).power = s.power := rfl
@[simp] theorem State.setLink_sec (n : Nat) (x : Link) : (s.setLink n x).sec = s.sec := rfl
@[simp] theorem State.setLink_mirror (n : Nat) (x : Link) : (s.setLink n x).mirror = s.mirror := rfl
@[simp] theorem State.setLink_tiles (n : Nat) (x : Link) : (s.setLink n x).tiles = s.tiles := rfl
@[simp] theorem State.setLink_cores (n : Nat) (x : Link) : (s.setLink n x).cores = s.cores := rfl
@[simp] theorem State.setLink_vaults (n : Nat) (x : Link) : (s.setLink n x).vaults = s.vaults := rfl
@[simp] theorem State.setLink_units (n : Nat) (x : Link) : (s.setLink n x).units = s.units := rfl
@[simp] theorem State.setLink_xings (n : Nat) (x : Link) : (s.setLink n x).xings = s.xings := rfl
@[simp] theorem State.setLink_ports (n : Nat) (x : Link) : (s.setLink n x).ports = s.ports := rfl
@[simp] theorem State.setLink_mem (n : Nat) (x : Link) : (s.setLink n x).mem = s.mem := rfl
@[simp] theorem State.setLink_scratch (n : Nat) (x : Link) : (s.setLink n x).scratch = s.scratch := rfl
@[simp] theorem State.setLink_hostMem (n : Nat) (x : Link) : (s.setLink n x).hostMem = s.hostMem := rfl
@[simp] theorem State.setLink_out (n : Nat) (x : Link) : (s.setLink n x).out = s.out := rfl
@[simp] theorem State.setLink_ticks (n : Nat) (x : Link) : (s.setLink n x).ticks = s.ticks := rfl
@[simp] theorem State.setLink_epoch (n : Nat) (x : Link) : (s.setLink n x).epoch = s.epoch := rfl
@[simp] theorem State.setLink_free (n : Nat) (x : Link) : (s.setLink n x).free = s.free := rfl
@[simp] theorem State.setLink_nextRq (n : Nat) (x : Link) : (s.setLink n x).nextRq = s.nextRq := rfl
@[simp] theorem State.setLink_pending (n : Nat) (x : Link) : (s.setLink n x).pending = s.pending := rfl
@[simp] theorem State.setLink_core (n : Nat) (x : Link) (d : Nat) : (s.setLink n x).core d = s.core d := rfl
@[simp] theorem State.setLink_vault (n : Nat) (x : Link) (t' v' : Nat) : (s.setLink n x).vault t' v' = s.vault t' v' := rfl
@[simp] theorem State.setLink_tile (n : Nat) (x : Link) (d : Nat) : (s.setLink n x).tile d = s.tile d := rfl
@[simp] theorem State.setLink_port (n : Nat) (x : Link) (d : Nat) : (s.setLink n x).port d = s.port d := rfl
@[simp] theorem State.setLink_xing (n : Nat) (x : Link) (d : Nat) : (s.setLink n x).xing d = s.xing d := rfl
@[simp] theorem State.setLink_unit (n : Nat) (x : Link) (d : Nat) : (s.setLink n x).unit d = s.unit d := rfl

/-! ### setXing -/

@[simp] theorem State.setXing_fuses (k : Nat) (x : Xing) : (s.setXing k x).fuses = s.fuses := rfl
@[simp] theorem State.setXing_dev (k : Nat) (x : Xing) : (s.setXing k x).dev = s.dev := rfl
@[simp] theorem State.setXing_power (k : Nat) (x : Xing) : (s.setXing k x).power = s.power := rfl
@[simp] theorem State.setXing_sec (k : Nat) (x : Xing) : (s.setXing k x).sec = s.sec := rfl
@[simp] theorem State.setXing_mirror (k : Nat) (x : Xing) : (s.setXing k x).mirror = s.mirror := rfl
@[simp] theorem State.setXing_tiles (k : Nat) (x : Xing) : (s.setXing k x).tiles = s.tiles := rfl
@[simp] theorem State.setXing_cores (k : Nat) (x : Xing) : (s.setXing k x).cores = s.cores := rfl
@[simp] theorem State.setXing_vaults (k : Nat) (x : Xing) : (s.setXing k x).vaults = s.vaults := rfl
@[simp] theorem State.setXing_units (k : Nat) (x : Xing) : (s.setXing k x).units = s.units := rfl
@[simp] theorem State.setXing_ports (k : Nat) (x : Xing) : (s.setXing k x).ports = s.ports := rfl
@[simp] theorem State.setXing_links (k : Nat) (x : Xing) : (s.setXing k x).links = s.links := rfl
@[simp] theorem State.setXing_mem (k : Nat) (x : Xing) : (s.setXing k x).mem = s.mem := rfl
@[simp] theorem State.setXing_scratch (k : Nat) (x : Xing) : (s.setXing k x).scratch = s.scratch := rfl
@[simp] theorem State.setXing_hostMem (k : Nat) (x : Xing) : (s.setXing k x).hostMem = s.hostMem := rfl
@[simp] theorem State.setXing_out (k : Nat) (x : Xing) : (s.setXing k x).out = s.out := rfl
@[simp] theorem State.setXing_ticks (k : Nat) (x : Xing) : (s.setXing k x).ticks = s.ticks := rfl
@[simp] theorem State.setXing_epoch (k : Nat) (x : Xing) : (s.setXing k x).epoch = s.epoch := rfl
@[simp] theorem State.setXing_free (k : Nat) (x : Xing) : (s.setXing k x).free = s.free := rfl
@[simp] theorem State.setXing_nextRq (k : Nat) (x : Xing) : (s.setXing k x).nextRq = s.nextRq := rfl
@[simp] theorem State.setXing_pending (k : Nat) (x : Xing) : (s.setXing k x).pending = s.pending := rfl
@[simp] theorem State.setXing_core (k : Nat) (x : Xing) (d : Nat) : (s.setXing k x).core d = s.core d := rfl
@[simp] theorem State.setXing_vault (k : Nat) (x : Xing) (t' v' : Nat) : (s.setXing k x).vault t' v' = s.vault t' v' := rfl
@[simp] theorem State.setXing_tile (k : Nat) (x : Xing) (d : Nat) : (s.setXing k x).tile d = s.tile d := rfl
@[simp] theorem State.setXing_port (k : Nat) (x : Xing) (d : Nat) : (s.setXing k x).port d = s.port d := rfl
@[simp] theorem State.setXing_link (k : Nat) (x : Xing) (d : Nat) : (s.setXing k x).link d = s.link d := rfl
@[simp] theorem State.setXing_unit (k : Nat) (x : Xing) (d : Nat) : (s.setXing k x).unit d = s.unit d := rfl

/-! ### setUnit -/

@[simp] theorem State.setUnit_fuses (k : Nat) (x : BankUnit) : (s.setUnit k x).fuses = s.fuses := rfl
@[simp] theorem State.setUnit_dev (k : Nat) (x : BankUnit) : (s.setUnit k x).dev = s.dev := rfl
@[simp] theorem State.setUnit_power (k : Nat) (x : BankUnit) : (s.setUnit k x).power = s.power := rfl
@[simp] theorem State.setUnit_sec (k : Nat) (x : BankUnit) : (s.setUnit k x).sec = s.sec := rfl
@[simp] theorem State.setUnit_mirror (k : Nat) (x : BankUnit) : (s.setUnit k x).mirror = s.mirror := rfl
@[simp] theorem State.setUnit_tiles (k : Nat) (x : BankUnit) : (s.setUnit k x).tiles = s.tiles := rfl
@[simp] theorem State.setUnit_cores (k : Nat) (x : BankUnit) : (s.setUnit k x).cores = s.cores := rfl
@[simp] theorem State.setUnit_vaults (k : Nat) (x : BankUnit) : (s.setUnit k x).vaults = s.vaults := rfl
@[simp] theorem State.setUnit_xings (k : Nat) (x : BankUnit) : (s.setUnit k x).xings = s.xings := rfl
@[simp] theorem State.setUnit_ports (k : Nat) (x : BankUnit) : (s.setUnit k x).ports = s.ports := rfl
@[simp] theorem State.setUnit_links (k : Nat) (x : BankUnit) : (s.setUnit k x).links = s.links := rfl
@[simp] theorem State.setUnit_mem (k : Nat) (x : BankUnit) : (s.setUnit k x).mem = s.mem := rfl
@[simp] theorem State.setUnit_scratch (k : Nat) (x : BankUnit) : (s.setUnit k x).scratch = s.scratch := rfl
@[simp] theorem State.setUnit_hostMem (k : Nat) (x : BankUnit) : (s.setUnit k x).hostMem = s.hostMem := rfl
@[simp] theorem State.setUnit_out (k : Nat) (x : BankUnit) : (s.setUnit k x).out = s.out := rfl
@[simp] theorem State.setUnit_ticks (k : Nat) (x : BankUnit) : (s.setUnit k x).ticks = s.ticks := rfl
@[simp] theorem State.setUnit_epoch (k : Nat) (x : BankUnit) : (s.setUnit k x).epoch = s.epoch := rfl
@[simp] theorem State.setUnit_free (k : Nat) (x : BankUnit) : (s.setUnit k x).free = s.free := rfl
@[simp] theorem State.setUnit_nextRq (k : Nat) (x : BankUnit) : (s.setUnit k x).nextRq = s.nextRq := rfl
@[simp] theorem State.setUnit_pending (k : Nat) (x : BankUnit) : (s.setUnit k x).pending = s.pending := rfl
@[simp] theorem State.setUnit_core (k : Nat) (x : BankUnit) (d : Nat) : (s.setUnit k x).core d = s.core d := rfl
@[simp] theorem State.setUnit_vault (k : Nat) (x : BankUnit) (t' v' : Nat) : (s.setUnit k x).vault t' v' = s.vault t' v' := rfl
@[simp] theorem State.setUnit_tile (k : Nat) (x : BankUnit) (d : Nat) : (s.setUnit k x).tile d = s.tile d := rfl
@[simp] theorem State.setUnit_port (k : Nat) (x : BankUnit) (d : Nat) : (s.setUnit k x).port d = s.port d := rfl
@[simp] theorem State.setUnit_link (k : Nat) (x : BankUnit) (d : Nat) : (s.setUnit k x).link d = s.link d := rfl
@[simp] theorem State.setUnit_xing (k : Nat) (x : BankUnit) (d : Nat) : (s.setUnit k x).xing d = s.xing d := rfl

/-! ### updCore -/

@[simp] theorem State.updCore_fuses (c : Nat) (f : Core → Core) : (s.updCore c f).fuses = s.fuses := rfl
@[simp] theorem State.updCore_dev (c : Nat) (f : Core → Core) : (s.updCore c f).dev = s.dev := rfl
@[simp] theorem State.updCore_power (c : Nat) (f : Core → Core) : (s.updCore c f).power = s.power := rfl
@[simp] theorem State.updCore_sec (c : Nat) (f : Core → Core) : (s.updCore c f).sec = s.sec := rfl
@[simp] theorem State.updCore_mirror (c : Nat) (f : Core → Core) : (s.updCore c f).mirror = s.mirror := rfl
@[simp] theorem State.updCore_tiles (c : Nat) (f : Core → Core) : (s.updCore c f).tiles = s.tiles := rfl
@[simp] theorem State.updCore_vaults (c : Nat) (f : Core → Core) : (s.updCore c f).vaults = s.vaults := rfl
@[simp] theorem State.updCore_units (c : Nat) (f : Core → Core) : (s.updCore c f).units = s.units := rfl
@[simp] theorem State.updCore_xings (c : Nat) (f : Core → Core) : (s.updCore c f).xings = s.xings := rfl
@[simp] theorem State.updCore_ports (c : Nat) (f : Core → Core) : (s.updCore c f).ports = s.ports := rfl
@[simp] theorem State.updCore_links (c : Nat) (f : Core → Core) : (s.updCore c f).links = s.links := rfl
@[simp] theorem State.updCore_mem (c : Nat) (f : Core → Core) : (s.updCore c f).mem = s.mem := rfl
@[simp] theorem State.updCore_scratch (c : Nat) (f : Core → Core) : (s.updCore c f).scratch = s.scratch := rfl
@[simp] theorem State.updCore_hostMem (c : Nat) (f : Core → Core) : (s.updCore c f).hostMem = s.hostMem := rfl
@[simp] theorem State.updCore_out (c : Nat) (f : Core → Core) : (s.updCore c f).out = s.out := rfl
@[simp] theorem State.updCore_ticks (c : Nat) (f : Core → Core) : (s.updCore c f).ticks = s.ticks := rfl
@[simp] theorem State.updCore_epoch (c : Nat) (f : Core → Core) : (s.updCore c f).epoch = s.epoch := rfl
@[simp] theorem State.updCore_free (c : Nat) (f : Core → Core) : (s.updCore c f).free = s.free := rfl
@[simp] theorem State.updCore_nextRq (c : Nat) (f : Core → Core) : (s.updCore c f).nextRq = s.nextRq := rfl
@[simp] theorem State.updCore_pending (c : Nat) (f : Core → Core) : (s.updCore c f).pending = s.pending := rfl
@[simp] theorem State.updCore_vault (c : Nat) (f : Core → Core) (t' v' : Nat) : (s.updCore c f).vault t' v' = s.vault t' v' := rfl
@[simp] theorem State.updCore_tile (c : Nat) (f : Core → Core) (d : Nat) : (s.updCore c f).tile d = s.tile d := rfl
@[simp] theorem State.updCore_port (c : Nat) (f : Core → Core) (d : Nat) : (s.updCore c f).port d = s.port d := rfl
@[simp] theorem State.updCore_link (c : Nat) (f : Core → Core) (d : Nat) : (s.updCore c f).link d = s.link d := rfl
@[simp] theorem State.updCore_xing (c : Nat) (f : Core → Core) (d : Nat) : (s.updCore c f).xing d = s.xing d := rfl
@[simp] theorem State.updCore_unit (c : Nat) (f : Core → Core) (d : Nat) : (s.updCore c f).unit d = s.unit d := rfl

/-! ### updVault -/

@[simp] theorem State.updVault_fuses (t v : Nat) (f : Vault → Vault) : (s.updVault t v f).fuses = s.fuses := rfl
@[simp] theorem State.updVault_dev (t v : Nat) (f : Vault → Vault) : (s.updVault t v f).dev = s.dev := rfl
@[simp] theorem State.updVault_power (t v : Nat) (f : Vault → Vault) : (s.updVault t v f).power = s.power := rfl
@[simp] theorem State.updVault_sec (t v : Nat) (f : Vault → Vault) : (s.updVault t v f).sec = s.sec := rfl
@[simp] theorem State.updVault_mirror (t v : Nat) (f : Vault → Vault) : (s.updVault t v f).mirror = s.mirror := rfl
@[simp] theorem State.updVault_tiles (t v : Nat) (f : Vault → Vault) : (s.updVault t v f).tiles = s.tiles := rfl
@[simp] theorem State.updVault_cores (t v : Nat) (f : Vault → Vault) : (s.updVault t v f).cores = s.cores := rfl
@[simp] theorem State.updVault_units (t v : Nat) (f : Vault → Vault) : (s.updVault t v f).units = s.units := rfl
@[simp] theorem State.updVault_xings (t v : Nat) (f : Vault → Vault) : (s.updVault t v f).xings = s.xings := rfl
@[simp] theorem State.updVault_ports (t v : Nat) (f : Vault → Vault) : (s.updVault t v f).ports = s.ports := rfl
@[simp] theorem State.updVault_links (t v : Nat) (f : Vault → Vault) : (s.updVault t v f).links = s.links := rfl
@[simp] theorem State.updVault_mem (t v : Nat) (f : Vault → Vault) : (s.updVault t v f).mem = s.mem := rfl
@[simp] theorem State.updVault_scratch (t v : Nat) (f : Vault → Vault) : (s.updVault t v f).scratch = s.scratch := rfl
@[simp] theorem State.updVault_hostMem (t v : Nat) (f : Vault → Vault) : (s.updVault t v f).hostMem = s.hostMem := rfl
@[simp] theorem State.updVault_out (t v : Nat) (f : Vault → Vault) : (s.updVault t v f).out = s.out := rfl
@[simp] theorem State.updVault_ticks (t v : Nat) (f : Vault → Vault) : (s.updVault t v f).ticks = s.ticks := rfl
@[simp] theorem State.updVault_epoch (t v : Nat) (f : Vault → Vault) : (s.updVault t v f).epoch = s.epoch := rfl
@[simp] theorem State.updVault_free (t v : Nat) (f : Vault → Vault) : (s.updVault t v f).free = s.free := rfl
@[simp] theorem State.updVault_nextRq (t v : Nat) (f : Vault → Vault) : (s.updVault t v f).nextRq = s.nextRq := rfl
@[simp] theorem State.updVault_pending (t v : Nat) (f : Vault → Vault) : (s.updVault t v f).pending = s.pending := rfl
@[simp] theorem State.updVault_core (t v : Nat) (f : Vault → Vault) (d : Nat) : (s.updVault t v f).core d = s.core d := rfl
@[simp] theorem State.updVault_tile (t v : Nat) (f : Vault → Vault) (d : Nat) : (s.updVault t v f).tile d = s.tile d := rfl
@[simp] theorem State.updVault_port (t v : Nat) (f : Vault → Vault) (d : Nat) : (s.updVault t v f).port d = s.port d := rfl
@[simp] theorem State.updVault_link (t v : Nat) (f : Vault → Vault) (d : Nat) : (s.updVault t v f).link d = s.link d := rfl
@[simp] theorem State.updVault_xing (t v : Nat) (f : Vault → Vault) (d : Nat) : (s.updVault t v f).xing d = s.xing d := rfl
@[simp] theorem State.updVault_unit (t v : Nat) (f : Vault → Vault) (d : Nat) : (s.updVault t v f).unit d = s.unit d := rfl

/-! ### updTile -/

@[simp] theorem State.updTile_fuses (t : Nat) (f : Tile → Tile) : (s.updTile t f).fuses = s.fuses := rfl
@[simp] theorem State.updTile_dev (t : Nat) (f : Tile → Tile) : (s.updTile t f).dev = s.dev := rfl
@[simp] theorem State.updTile_power (t : Nat) (f : Tile → Tile) : (s.updTile t f).power = s.power := rfl
@[simp] theorem State.updTile_sec (t : Nat) (f : Tile → Tile) : (s.updTile t f).sec = s.sec := rfl
@[simp] theorem State.updTile_mirror (t : Nat) (f : Tile → Tile) : (s.updTile t f).mirror = s.mirror := rfl
@[simp] theorem State.updTile_cores (t : Nat) (f : Tile → Tile) : (s.updTile t f).cores = s.cores := rfl
@[simp] theorem State.updTile_vaults (t : Nat) (f : Tile → Tile) : (s.updTile t f).vaults = s.vaults := rfl
@[simp] theorem State.updTile_units (t : Nat) (f : Tile → Tile) : (s.updTile t f).units = s.units := rfl
@[simp] theorem State.updTile_xings (t : Nat) (f : Tile → Tile) : (s.updTile t f).xings = s.xings := rfl
@[simp] theorem State.updTile_ports (t : Nat) (f : Tile → Tile) : (s.updTile t f).ports = s.ports := rfl
@[simp] theorem State.updTile_links (t : Nat) (f : Tile → Tile) : (s.updTile t f).links = s.links := rfl
@[simp] theorem State.updTile_mem (t : Nat) (f : Tile → Tile) : (s.updTile t f).mem = s.mem := rfl
@[simp] theorem State.updTile_scratch (t : Nat) (f : Tile → Tile) : (s.updTile t f).scratch = s.scratch := rfl
@[simp] theorem State.updTile_hostMem (t : Nat) (f : Tile → Tile) : (s.updTile t f).hostMem = s.hostMem := rfl
@[simp] theorem State.updTile_out (t : Nat) (f : Tile → Tile) : (s.updTile t f).out = s.out := rfl
@[simp] theorem State.updTile_ticks (t : Nat) (f : Tile → Tile) : (s.updTile t f).ticks = s.ticks := rfl
@[simp] theorem State.updTile_epoch (t : Nat) (f : Tile → Tile) : (s.updTile t f).epoch = s.epoch := rfl
@[simp] theorem State.updTile_free (t : Nat) (f : Tile → Tile) : (s.updTile t f).free = s.free := rfl
@[simp] theorem State.updTile_nextRq (t : Nat) (f : Tile → Tile) : (s.updTile t f).nextRq = s.nextRq := rfl
@[simp] theorem State.updTile_pending (t : Nat) (f : Tile → Tile) : (s.updTile t f).pending = s.pending := rfl
@[simp] theorem State.updTile_core (t : Nat) (f : Tile → Tile) (d : Nat) : (s.updTile t f).core d = s.core d := rfl
@[simp] theorem State.updTile_vault (t : Nat) (f : Tile → Tile) (t' v' : Nat) : (s.updTile t f).vault t' v' = s.vault t' v' := rfl
@[simp] theorem State.updTile_port (t : Nat) (f : Tile → Tile) (d : Nat) : (s.updTile t f).port d = s.port d := rfl
@[simp] theorem State.updTile_link (t : Nat) (f : Tile → Tile) (d : Nat) : (s.updTile t f).link d = s.link d := rfl
@[simp] theorem State.updTile_xing (t : Nat) (f : Tile → Tile) (d : Nat) : (s.updTile t f).xing d = s.xing d := rfl
@[simp] theorem State.updTile_unit (t : Nat) (f : Tile → Tile) (d : Nat) : (s.updTile t f).unit d = s.unit d := rfl

/-! ### updPort -/

@[simp] theorem State.updPort_fuses (p : Nat) (f : Port → Port) : (s.updPort p f).fuses = s.fuses := rfl
@[simp] theorem State.updPort_dev (p : Nat) (f : Port → Port) : (s.updPort p f).dev = s.dev := rfl
@[simp] theorem State.updPort_power (p : Nat) (f : Port → Port) : (s.updPort p f).power = s.power := rfl
@[simp] theorem State.updPort_sec (p : Nat) (f : Port → Port) : (s.updPort p f).sec = s.sec := rfl
@[simp] theorem State.updPort_mirror (p : Nat) (f : Port → Port) : (s.updPort p f).mirror = s.mirror := rfl
@[simp] theorem State.updPort_tiles (p : Nat) (f : Port → Port) : (s.updPort p f).tiles = s.tiles := rfl
@[simp] theorem State.updPort_cores (p : Nat) (f : Port → Port) : (s.updPort p f).cores = s.cores := rfl
@[simp] theorem State.updPort_vaults (p : Nat) (f : Port → Port) : (s.updPort p f).vaults = s.vaults := rfl
@[simp] theorem State.updPort_units (p : Nat) (f : Port → Port) : (s.updPort p f).units = s.units := rfl
@[simp] theorem State.updPort_xings (p : Nat) (f : Port → Port) : (s.updPort p f).xings = s.xings := rfl
@[simp] theorem State.updPort_links (p : Nat) (f : Port → Port) : (s.updPort p f).links = s.links := rfl
@[simp] theorem State.updPort_mem (p : Nat) (f : Port → Port) : (s.updPort p f).mem = s.mem := rfl
@[simp] theorem State.updPort_scratch (p : Nat) (f : Port → Port) : (s.updPort p f).scratch = s.scratch := rfl
@[simp] theorem State.updPort_hostMem (p : Nat) (f : Port → Port) : (s.updPort p f).hostMem = s.hostMem := rfl
@[simp] theorem State.updPort_out (p : Nat) (f : Port → Port) : (s.updPort p f).out = s.out := rfl
@[simp] theorem State.updPort_ticks (p : Nat) (f : Port → Port) : (s.updPort p f).ticks = s.ticks := rfl
@[simp] theorem State.updPort_epoch (p : Nat) (f : Port → Port) : (s.updPort p f).epoch = s.epoch := rfl
@[simp] theorem State.updPort_free (p : Nat) (f : Port → Port) : (s.updPort p f).free = s.free := rfl
@[simp] theorem State.updPort_nextRq (p : Nat) (f : Port → Port) : (s.updPort p f).nextRq = s.nextRq := rfl
@[simp] theorem State.updPort_pending (p : Nat) (f : Port → Port) : (s.updPort p f).pending = s.pending := rfl
@[simp] theorem State.updPort_core (p : Nat) (f : Port → Port) (d : Nat) : (s.updPort p f).core d = s.core d := rfl
@[simp] theorem State.updPort_vault (p : Nat) (f : Port → Port) (t' v' : Nat) : (s.updPort p f).vault t' v' = s.vault t' v' := rfl
@[simp] theorem State.updPort_tile (p : Nat) (f : Port → Port) (d : Nat) : (s.updPort p f).tile d = s.tile d := rfl
@[simp] theorem State.updPort_link (p : Nat) (f : Port → Port) (d : Nat) : (s.updPort p f).link d = s.link d := rfl
@[simp] theorem State.updPort_xing (p : Nat) (f : Port → Port) (d : Nat) : (s.updPort p f).xing d = s.xing d := rfl
@[simp] theorem State.updPort_unit (p : Nat) (f : Port → Port) (d : Nat) : (s.updPort p f).unit d = s.unit d := rfl

/-! ### updLink -/

@[simp] theorem State.updLink_fuses (n : Nat) (f : Link → Link) : (s.updLink n f).fuses = s.fuses := rfl
@[simp] theorem State.updLink_dev (n : Nat) (f : Link → Link) : (s.updLink n f).dev = s.dev := rfl
@[simp] theorem State.updLink_power (n : Nat) (f : Link → Link) : (s.updLink n f).power = s.power := rfl
@[simp] theorem State.updLink_sec (n : Nat) (f : Link → Link) : (s.updLink n f).sec = s.sec := rfl
@[simp] theorem State.updLink_mirror (n : Nat) (f : Link → Link) : (s.updLink n f).mirror = s.mirror := rfl
@[simp] theorem State.updLink_tiles (n : Nat) (f : Link → Link) : (s.updLink n f).tiles = s.tiles := rfl
@[simp] theorem State.updLink_cores (n : Nat) (f : Link → Link) : (s.updLink n f).cores = s.cores := rfl
@[simp] theorem State.updLink_vaults (n : Nat) (f : Link → Link) : (s.updLink n f).vaults = s.vaults := rfl
@[simp] theorem State.updLink_units (n : Nat) (f : Link → Link) : (s.updLink n f).units = s.units := rfl
@[simp] theorem State.updLink_xings (n : Nat) (f : Link → Link) : (s.updLink n f).xings = s.xings := rfl
@[simp] theorem State.updLink_ports (n : Nat) (f : Link → Link) : (s.updLink n f).ports = s.ports := rfl
@[simp] theorem State.updLink_mem (n : Nat) (f : Link → Link) : (s.updLink n f).mem = s.mem := rfl
@[simp] theorem State.updLink_scratch (n : Nat) (f : Link → Link) : (s.updLink n f).scratch = s.scratch := rfl
@[simp] theorem State.updLink_hostMem (n : Nat) (f : Link → Link) : (s.updLink n f).hostMem = s.hostMem := rfl
@[simp] theorem State.updLink_out (n : Nat) (f : Link → Link) : (s.updLink n f).out = s.out := rfl
@[simp] theorem State.updLink_ticks (n : Nat) (f : Link → Link) : (s.updLink n f).ticks = s.ticks := rfl
@[simp] theorem State.updLink_epoch (n : Nat) (f : Link → Link) : (s.updLink n f).epoch = s.epoch := rfl
@[simp] theorem State.updLink_free (n : Nat) (f : Link → Link) : (s.updLink n f).free = s.free := rfl
@[simp] theorem State.updLink_nextRq (n : Nat) (f : Link → Link) : (s.updLink n f).nextRq = s.nextRq := rfl
@[simp] theorem State.updLink_pending (n : Nat) (f : Link → Link) : (s.updLink n f).pending = s.pending := rfl
@[simp] theorem State.updLink_core (n : Nat) (f : Link → Link) (d : Nat) : (s.updLink n f).core d = s.core d := rfl
@[simp] theorem State.updLink_vault (n : Nat) (f : Link → Link) (t' v' : Nat) : (s.updLink n f).vault t' v' = s.vault t' v' := rfl
@[simp] theorem State.updLink_tile (n : Nat) (f : Link → Link) (d : Nat) : (s.updLink n f).tile d = s.tile d := rfl
@[simp] theorem State.updLink_port (n : Nat) (f : Link → Link) (d : Nat) : (s.updLink n f).port d = s.port d := rfl
@[simp] theorem State.updLink_xing (n : Nat) (f : Link → Link) (d : Nat) : (s.updLink n f).xing d = s.xing d := rfl
@[simp] theorem State.updLink_unit (n : Nat) (f : Link → Link) (d : Nat) : (s.updLink n f).unit d = s.unit d := rfl

/-! ### updXing -/

@[simp] theorem State.updXing_fuses (k : Nat) (f : Xing → Xing) : (s.updXing k f).fuses = s.fuses := rfl
@[simp] theorem State.updXing_dev (k : Nat) (f : Xing → Xing) : (s.updXing k f).dev = s.dev := rfl
@[simp] theorem State.updXing_power (k : Nat) (f : Xing → Xing) : (s.updXing k f).power = s.power := rfl
@[simp] theorem State.updXing_sec (k : Nat) (f : Xing → Xing) : (s.updXing k f).sec = s.sec := rfl
@[simp] theorem State.updXing_mirror (k : Nat) (f : Xing → Xing) : (s.updXing k f).mirror = s.mirror := rfl
@[simp] theorem State.updXing_tiles (k : Nat) (f : Xing → Xing) : (s.updXing k f).tiles = s.tiles := rfl
@[simp] theorem State.updXing_cores (k : Nat) (f : Xing → Xing) : (s.updXing k f).cores = s.cores := rfl
@[simp] theorem State.updXing_vaults (k : Nat) (f : Xing → Xing) : (s.updXing k f).vaults = s.vaults := rfl
@[simp] theorem State.updXing_units (k : Nat) (f : Xing → Xing) : (s.updXing k f).units = s.units := rfl
@[simp] theorem State.updXing_ports (k : Nat) (f : Xing → Xing) : (s.updXing k f).ports = s.ports := rfl
@[simp] theorem State.updXing_links (k : Nat) (f : Xing → Xing) : (s.updXing k f).links = s.links := rfl
@[simp] theorem State.updXing_mem (k : Nat) (f : Xing → Xing) : (s.updXing k f).mem = s.mem := rfl
@[simp] theorem State.updXing_scratch (k : Nat) (f : Xing → Xing) : (s.updXing k f).scratch = s.scratch := rfl
@[simp] theorem State.updXing_hostMem (k : Nat) (f : Xing → Xing) : (s.updXing k f).hostMem = s.hostMem := rfl
@[simp] theorem State.updXing_out (k : Nat) (f : Xing → Xing) : (s.updXing k f).out = s.out := rfl
@[simp] theorem State.updXing_ticks (k : Nat) (f : Xing → Xing) : (s.updXing k f).ticks = s.ticks := rfl
@[simp] theorem State.updXing_epoch (k : Nat) (f : Xing → Xing) : (s.updXing k f).epoch = s.epoch := rfl
@[simp] theorem State.updXing_free (k : Nat) (f : Xing → Xing) : (s.updXing k f).free = s.free := rfl
@[simp] theorem State.updXing_nextRq (k : Nat) (f : Xing → Xing) : (s.updXing k f).nextRq = s.nextRq := rfl
@[simp] theorem State.updXing_pending (k : Nat) (f : Xing → Xing) : (s.updXing k f).pending = s.pending := rfl
@[simp] theorem State.updXing_core (k : Nat) (f : Xing → Xing) (d : Nat) : (s.updXing k f).core d = s.core d := rfl
@[simp] theorem State.updXing_vault (k : Nat) (f : Xing → Xing) (t' v' : Nat) : (s.updXing k f).vault t' v' = s.vault t' v' := rfl
@[simp] theorem State.updXing_tile (k : Nat) (f : Xing → Xing) (d : Nat) : (s.updXing k f).tile d = s.tile d := rfl
@[simp] theorem State.updXing_port (k : Nat) (f : Xing → Xing) (d : Nat) : (s.updXing k f).port d = s.port d := rfl
@[simp] theorem State.updXing_link (k : Nat) (f : Xing → Xing) (d : Nat) : (s.updXing k f).link d = s.link d := rfl
@[simp] theorem State.updXing_unit (k : Nat) (f : Xing → Xing) (d : Nat) : (s.updXing k f).unit d = s.unit d := rfl

/-! ### updUnit -/

@[simp] theorem State.updUnit_fuses (k : Nat) (f : BankUnit → BankUnit) : (s.updUnit k f).fuses = s.fuses := rfl
@[simp] theorem State.updUnit_dev (k : Nat) (f : BankUnit → BankUnit) : (s.updUnit k f).dev = s.dev := rfl
@[simp] theorem State.updUnit_power (k : Nat) (f : BankUnit → BankUnit) : (s.updUnit k f).power = s.power := rfl
@[simp] theorem State.updUnit_sec (k : Nat) (f : BankUnit → BankUnit) : (s.updUnit k f).sec = s.sec := rfl
@[simp] theorem State.updUnit_mirror (k : Nat) (f : BankUnit → BankUnit) : (s.updUnit k f).mirror = s.mirror := rfl
@[simp] theorem State.updUnit_tiles (k : Nat) (f : BankUnit → BankUnit) : (s.updUnit k f).tiles = s.tiles := rfl
@[simp] theorem State.updUnit_cores (k : Nat) (f : BankUnit → BankUnit) : (s.updUnit k f).cores = s.cores := rfl
@[simp] theorem State.updUnit_vaults (k : Nat) (f : BankUnit → BankUnit) : (s.updUnit k f).vaults = s.vaults := rfl
@[simp] theorem State.updUnit_xings (k : Nat) (f : BankUnit → BankUnit) : (s.updUnit k f).xings = s.xings := rfl
@[simp] theorem State.updUnit_ports (k : Nat) (f : BankUnit → BankUnit) : (s.updUnit k f).ports = s.ports := rfl
@[simp] theorem State.updUnit_links (k : Nat) (f : BankUnit → BankUnit) : (s.updUnit k f).links = s.links := rfl
@[simp] theorem State.updUnit_mem (k : Nat) (f : BankUnit → BankUnit) : (s.updUnit k f).mem = s.mem := rfl
@[simp] theorem State.updUnit_scratch (k : Nat) (f : BankUnit → BankUnit) : (s.updUnit k f).scratch = s.scratch := rfl
@[simp] theorem State.updUnit_hostMem (k : Nat) (f : BankUnit → BankUnit) : (s.updUnit k f).hostMem = s.hostMem := rfl
@[simp] theorem State.updUnit_out (k : Nat) (f : BankUnit → BankUnit) : (s.updUnit k f).out = s.out := rfl
@[simp] theorem State.updUnit_ticks (k : Nat) (f : BankUnit → BankUnit) : (s.updUnit k f).ticks = s.ticks := rfl
@[simp] theorem State.updUnit_epoch (k : Nat) (f : BankUnit → BankUnit) : (s.updUnit k f).epoch = s.epoch := rfl
@[simp] theorem State.updUnit_free (k : Nat) (f : BankUnit → BankUnit) : (s.updUnit k f).free = s.free := rfl
@[simp] theorem State.updUnit_nextRq (k : Nat) (f : BankUnit → BankUnit) : (s.updUnit k f).nextRq = s.nextRq := rfl
@[simp] theorem State.updUnit_pending (k : Nat) (f : BankUnit → BankUnit) : (s.updUnit k f).pending = s.pending := rfl
@[simp] theorem State.updUnit_core (k : Nat) (f : BankUnit → BankUnit) (d : Nat) : (s.updUnit k f).core d = s.core d := rfl
@[simp] theorem State.updUnit_vault (k : Nat) (f : BankUnit → BankUnit) (t' v' : Nat) : (s.updUnit k f).vault t' v' = s.vault t' v' := rfl
@[simp] theorem State.updUnit_tile (k : Nat) (f : BankUnit → BankUnit) (d : Nat) : (s.updUnit k f).tile d = s.tile d := rfl
@[simp] theorem State.updUnit_port (k : Nat) (f : BankUnit → BankUnit) (d : Nat) : (s.updUnit k f).port d = s.port d := rfl
@[simp] theorem State.updUnit_link (k : Nat) (f : BankUnit → BankUnit) (d : Nat) : (s.updUnit k f).link d = s.link d := rfl
@[simp] theorem State.updUnit_xing (k : Nat) (f : BankUnit → BankUnit) (d : Nat) : (s.updUnit k f).xing d = s.xing d := rfl

/-! ### updSeq -/

@[simp] theorem State.updSeq_fuses (c : Nat) (f : Seq → Seq) : (s.updSeq c f).fuses = s.fuses := rfl
@[simp] theorem State.updSeq_dev (c : Nat) (f : Seq → Seq) : (s.updSeq c f).dev = s.dev := rfl
@[simp] theorem State.updSeq_power (c : Nat) (f : Seq → Seq) : (s.updSeq c f).power = s.power := rfl
@[simp] theorem State.updSeq_sec (c : Nat) (f : Seq → Seq) : (s.updSeq c f).sec = s.sec := rfl
@[simp] theorem State.updSeq_mirror (c : Nat) (f : Seq → Seq) : (s.updSeq c f).mirror = s.mirror := rfl
@[simp] theorem State.updSeq_tiles (c : Nat) (f : Seq → Seq) : (s.updSeq c f).tiles = s.tiles := rfl
@[simp] theorem State.updSeq_vaults (c : Nat) (f : Seq → Seq) : (s.updSeq c f).vaults = s.vaults := rfl
@[simp] theorem State.updSeq_units (c : Nat) (f : Seq → Seq) : (s.updSeq c f).units = s.units := rfl
@[simp] theorem State.updSeq_xings (c : Nat) (f : Seq → Seq) : (s.updSeq c f).xings = s.xings := rfl
@[simp] theorem State.updSeq_ports (c : Nat) (f : Seq → Seq) : (s.updSeq c f).ports = s.ports := rfl
@[simp] theorem State.updSeq_links (c : Nat) (f : Seq → Seq) : (s.updSeq c f).links = s.links := rfl
@[simp] theorem State.updSeq_mem (c : Nat) (f : Seq → Seq) : (s.updSeq c f).mem = s.mem := rfl
@[simp] theorem State.updSeq_scratch (c : Nat) (f : Seq → Seq) : (s.updSeq c f).scratch = s.scratch := rfl
@[simp] theorem State.updSeq_hostMem (c : Nat) (f : Seq → Seq) : (s.updSeq c f).hostMem = s.hostMem := rfl
@[simp] theorem State.updSeq_out (c : Nat) (f : Seq → Seq) : (s.updSeq c f).out = s.out := rfl
@[simp] theorem State.updSeq_ticks (c : Nat) (f : Seq → Seq) : (s.updSeq c f).ticks = s.ticks := rfl
@[simp] theorem State.updSeq_epoch (c : Nat) (f : Seq → Seq) : (s.updSeq c f).epoch = s.epoch := rfl
@[simp] theorem State.updSeq_free (c : Nat) (f : Seq → Seq) : (s.updSeq c f).free = s.free := rfl
@[simp] theorem State.updSeq_nextRq (c : Nat) (f : Seq → Seq) : (s.updSeq c f).nextRq = s.nextRq := rfl
@[simp] theorem State.updSeq_pending (c : Nat) (f : Seq → Seq) : (s.updSeq c f).pending = s.pending := rfl
@[simp] theorem State.updSeq_vault (c : Nat) (f : Seq → Seq) (t' v' : Nat) : (s.updSeq c f).vault t' v' = s.vault t' v' := rfl
@[simp] theorem State.updSeq_tile (c : Nat) (f : Seq → Seq) (d : Nat) : (s.updSeq c f).tile d = s.tile d := rfl
@[simp] theorem State.updSeq_port (c : Nat) (f : Seq → Seq) (d : Nat) : (s.updSeq c f).port d = s.port d := rfl
@[simp] theorem State.updSeq_link (c : Nat) (f : Seq → Seq) (d : Nat) : (s.updSeq c f).link d = s.link d := rfl
@[simp] theorem State.updSeq_xing (c : Nat) (f : Seq → Seq) (d : Nat) : (s.updSeq c f).xing d = s.xing d := rfl
@[simp] theorem State.updSeq_unit (c : Nat) (f : Seq → Seq) (d : Nat) : (s.updSeq c f).unit d = s.unit d := rfl

/-! ### updMx -/

@[simp] theorem State.updMx_fuses (c : Nat) (f : Mx → Mx) : (s.updMx c f).fuses = s.fuses := rfl
@[simp] theorem State.updMx_dev (c : Nat) (f : Mx → Mx) : (s.updMx c f).dev = s.dev := rfl
@[simp] theorem State.updMx_power (c : Nat) (f : Mx → Mx) : (s.updMx c f).power = s.power := rfl
@[simp] theorem State.updMx_sec (c : Nat) (f : Mx → Mx) : (s.updMx c f).sec = s.sec := rfl
@[simp] theorem State.updMx_mirror (c : Nat) (f : Mx → Mx) : (s.updMx c f).mirror = s.mirror := rfl
@[simp] theorem State.updMx_tiles (c : Nat) (f : Mx → Mx) : (s.updMx c f).tiles = s.tiles := rfl
@[simp] theorem State.updMx_vaults (c : Nat) (f : Mx → Mx) : (s.updMx c f).vaults = s.vaults := rfl
@[simp] theorem State.updMx_units (c : Nat) (f : Mx → Mx) : (s.updMx c f).units = s.units := rfl
@[simp] theorem State.updMx_xings (c : Nat) (f : Mx → Mx) : (s.updMx c f).xings = s.xings := rfl
@[simp] theorem State.updMx_ports (c : Nat) (f : Mx → Mx) : (s.updMx c f).ports = s.ports := rfl
@[simp] theorem State.updMx_links (c : Nat) (f : Mx → Mx) : (s.updMx c f).links = s.links := rfl
@[simp] theorem State.updMx_mem (c : Nat) (f : Mx → Mx) : (s.updMx c f).mem = s.mem := rfl
@[simp] theorem State.updMx_scratch (c : Nat) (f : Mx → Mx) : (s.updMx c f).scratch = s.scratch := rfl
@[simp] theorem State.updMx_hostMem (c : Nat) (f : Mx → Mx) : (s.updMx c f).hostMem = s.hostMem := rfl
@[simp] theorem State.updMx_out (c : Nat) (f : Mx → Mx) : (s.updMx c f).out = s.out := rfl
@[simp] theorem State.updMx_ticks (c : Nat) (f : Mx → Mx) : (s.updMx c f).ticks = s.ticks := rfl
@[simp] theorem State.updMx_epoch (c : Nat) (f : Mx → Mx) : (s.updMx c f).epoch = s.epoch := rfl
@[simp] theorem State.updMx_free (c : Nat) (f : Mx → Mx) : (s.updMx c f).free = s.free := rfl
@[simp] theorem State.updMx_nextRq (c : Nat) (f : Mx → Mx) : (s.updMx c f).nextRq = s.nextRq := rfl
@[simp] theorem State.updMx_pending (c : Nat) (f : Mx → Mx) : (s.updMx c f).pending = s.pending := rfl
@[simp] theorem State.updMx_vault (c : Nat) (f : Mx → Mx) (t' v' : Nat) : (s.updMx c f).vault t' v' = s.vault t' v' := rfl
@[simp] theorem State.updMx_tile (c : Nat) (f : Mx → Mx) (d : Nat) : (s.updMx c f).tile d = s.tile d := rfl
@[simp] theorem State.updMx_port (c : Nat) (f : Mx → Mx) (d : Nat) : (s.updMx c f).port d = s.port d := rfl
@[simp] theorem State.updMx_link (c : Nat) (f : Mx → Mx) (d : Nat) : (s.updMx c f).link d = s.link d := rfl
@[simp] theorem State.updMx_xing (c : Nat) (f : Mx → Mx) (d : Nat) : (s.updMx c f).xing d = s.xing d := rfl
@[simp] theorem State.updMx_unit (c : Nat) (f : Mx → Mx) (d : Nat) : (s.updMx c f).unit d = s.unit d := rfl

/-! ### updVx -/

@[simp] theorem State.updVx_fuses (c : Nat) (f : Vx → Vx) : (s.updVx c f).fuses = s.fuses := rfl
@[simp] theorem State.updVx_dev (c : Nat) (f : Vx → Vx) : (s.updVx c f).dev = s.dev := rfl
@[simp] theorem State.updVx_power (c : Nat) (f : Vx → Vx) : (s.updVx c f).power = s.power := rfl
@[simp] theorem State.updVx_sec (c : Nat) (f : Vx → Vx) : (s.updVx c f).sec = s.sec := rfl
@[simp] theorem State.updVx_mirror (c : Nat) (f : Vx → Vx) : (s.updVx c f).mirror = s.mirror := rfl
@[simp] theorem State.updVx_tiles (c : Nat) (f : Vx → Vx) : (s.updVx c f).tiles = s.tiles := rfl
@[simp] theorem State.updVx_vaults (c : Nat) (f : Vx → Vx) : (s.updVx c f).vaults = s.vaults := rfl
@[simp] theorem State.updVx_units (c : Nat) (f : Vx → Vx) : (s.updVx c f).units = s.units := rfl
@[simp] theorem State.updVx_xings (c : Nat) (f : Vx → Vx) : (s.updVx c f).xings = s.xings := rfl
@[simp] theorem State.updVx_ports (c : Nat) (f : Vx → Vx) : (s.updVx c f).ports = s.ports := rfl
@[simp] theorem State.updVx_links (c : Nat) (f : Vx → Vx) : (s.updVx c f).links = s.links := rfl
@[simp] theorem State.updVx_mem (c : Nat) (f : Vx → Vx) : (s.updVx c f).mem = s.mem := rfl
@[simp] theorem State.updVx_scratch (c : Nat) (f : Vx → Vx) : (s.updVx c f).scratch = s.scratch := rfl
@[simp] theorem State.updVx_hostMem (c : Nat) (f : Vx → Vx) : (s.updVx c f).hostMem = s.hostMem := rfl
@[simp] theorem State.updVx_out (c : Nat) (f : Vx → Vx) : (s.updVx c f).out = s.out := rfl
@[simp] theorem State.updVx_ticks (c : Nat) (f : Vx → Vx) : (s.updVx c f).ticks = s.ticks := rfl
@[simp] theorem State.updVx_epoch (c : Nat) (f : Vx → Vx) : (s.updVx c f).epoch = s.epoch := rfl
@[simp] theorem State.updVx_free (c : Nat) (f : Vx → Vx) : (s.updVx c f).free = s.free := rfl
@[simp] theorem State.updVx_nextRq (c : Nat) (f : Vx → Vx) : (s.updVx c f).nextRq = s.nextRq := rfl
@[simp] theorem State.updVx_pending (c : Nat) (f : Vx → Vx) : (s.updVx c f).pending = s.pending := rfl
@[simp] theorem State.updVx_vault (c : Nat) (f : Vx → Vx) (t' v' : Nat) : (s.updVx c f).vault t' v' = s.vault t' v' := rfl
@[simp] theorem State.updVx_tile (c : Nat) (f : Vx → Vx) (d : Nat) : (s.updVx c f).tile d = s.tile d := rfl
@[simp] theorem State.updVx_port (c : Nat) (f : Vx → Vx) (d : Nat) : (s.updVx c f).port d = s.port d := rfl
@[simp] theorem State.updVx_link (c : Nat) (f : Vx → Vx) (d : Nat) : (s.updVx c f).link d = s.link d := rfl
@[simp] theorem State.updVx_xing (c : Nat) (f : Vx → Vx) (d : Nat) : (s.updVx c f).xing d = s.xing d := rfl
@[simp] theorem State.updVx_unit (c : Nat) (f : Vx → Vx) (d : Nat) : (s.updVx c f).unit d = s.unit d := rfl

/-! ### updCk -/

@[simp] theorem State.updCk_fuses (c : Nat) (f : Ck → Ck) : (s.updCk c f).fuses = s.fuses := rfl
@[simp] theorem State.updCk_dev (c : Nat) (f : Ck → Ck) : (s.updCk c f).dev = s.dev := rfl
@[simp] theorem State.updCk_power (c : Nat) (f : Ck → Ck) : (s.updCk c f).power = s.power := rfl
@[simp] theorem State.updCk_sec (c : Nat) (f : Ck → Ck) : (s.updCk c f).sec = s.sec := rfl
@[simp] theorem State.updCk_mirror (c : Nat) (f : Ck → Ck) : (s.updCk c f).mirror = s.mirror := rfl
@[simp] theorem State.updCk_tiles (c : Nat) (f : Ck → Ck) : (s.updCk c f).tiles = s.tiles := rfl
@[simp] theorem State.updCk_vaults (c : Nat) (f : Ck → Ck) : (s.updCk c f).vaults = s.vaults := rfl
@[simp] theorem State.updCk_units (c : Nat) (f : Ck → Ck) : (s.updCk c f).units = s.units := rfl
@[simp] theorem State.updCk_xings (c : Nat) (f : Ck → Ck) : (s.updCk c f).xings = s.xings := rfl
@[simp] theorem State.updCk_ports (c : Nat) (f : Ck → Ck) : (s.updCk c f).ports = s.ports := rfl
@[simp] theorem State.updCk_links (c : Nat) (f : Ck → Ck) : (s.updCk c f).links = s.links := rfl
@[simp] theorem State.updCk_mem (c : Nat) (f : Ck → Ck) : (s.updCk c f).mem = s.mem := rfl
@[simp] theorem State.updCk_scratch (c : Nat) (f : Ck → Ck) : (s.updCk c f).scratch = s.scratch := rfl
@[simp] theorem State.updCk_hostMem (c : Nat) (f : Ck → Ck) : (s.updCk c f).hostMem = s.hostMem := rfl
@[simp] theorem State.updCk_out (c : Nat) (f : Ck → Ck) : (s.updCk c f).out = s.out := rfl
@[simp] theorem State.updCk_ticks (c : Nat) (f : Ck → Ck) : (s.updCk c f).ticks = s.ticks := rfl
@[simp] theorem State.updCk_epoch (c : Nat) (f : Ck → Ck) : (s.updCk c f).epoch = s.epoch := rfl
@[simp] theorem State.updCk_free (c : Nat) (f : Ck → Ck) : (s.updCk c f).free = s.free := rfl
@[simp] theorem State.updCk_nextRq (c : Nat) (f : Ck → Ck) : (s.updCk c f).nextRq = s.nextRq := rfl
@[simp] theorem State.updCk_pending (c : Nat) (f : Ck → Ck) : (s.updCk c f).pending = s.pending := rfl
@[simp] theorem State.updCk_vault (c : Nat) (f : Ck → Ck) (t' v' : Nat) : (s.updCk c f).vault t' v' = s.vault t' v' := rfl
@[simp] theorem State.updCk_tile (c : Nat) (f : Ck → Ck) (d : Nat) : (s.updCk c f).tile d = s.tile d := rfl
@[simp] theorem State.updCk_port (c : Nat) (f : Ck → Ck) (d : Nat) : (s.updCk c f).port d = s.port d := rfl
@[simp] theorem State.updCk_link (c : Nat) (f : Ck → Ck) (d : Nat) : (s.updCk c f).link d = s.link d := rfl
@[simp] theorem State.updCk_xing (c : Nat) (f : Ck → Ck) (d : Nat) : (s.updCk c f).xing d = s.xing d := rfl
@[simp] theorem State.updCk_unit (c : Nat) (f : Ck → Ck) (d : Nat) : (s.updCk c f).unit d = s.unit d := rfl

/-! ### updChan -/

@[simp] theorem State.updChan_fuses (c ch : Nat) (f : Chan → Chan) : (s.updChan c ch f).fuses = s.fuses := rfl
@[simp] theorem State.updChan_dev (c ch : Nat) (f : Chan → Chan) : (s.updChan c ch f).dev = s.dev := rfl
@[simp] theorem State.updChan_power (c ch : Nat) (f : Chan → Chan) : (s.updChan c ch f).power = s.power := rfl
@[simp] theorem State.updChan_sec (c ch : Nat) (f : Chan → Chan) : (s.updChan c ch f).sec = s.sec := rfl
@[simp] theorem State.updChan_mirror (c ch : Nat) (f : Chan → Chan) : (s.updChan c ch f).mirror = s.mirror := rfl
@[simp] theorem State.updChan_tiles (c ch : Nat) (f : Chan → Chan) : (s.updChan c ch f).tiles = s.tiles := rfl
@[simp] theorem State.updChan_vaults (c ch : Nat) (f : Chan → Chan) : (s.updChan c ch f).vaults = s.vaults := rfl
@[simp] theorem State.updChan_units (c ch : Nat) (f : Chan → Chan) : (s.updChan c ch f).units = s.units := rfl
@[simp] theorem State.updChan_xings (c ch : Nat) (f : Chan → Chan) : (s.updChan c ch f).xings = s.xings := rfl
@[simp] theorem State.updChan_ports (c ch : Nat) (f : Chan → Chan) : (s.updChan c ch f).ports = s.ports := rfl
@[simp] theorem State.updChan_links (c ch : Nat) (f : Chan → Chan) : (s.updChan c ch f).links = s.links := rfl
@[simp] theorem State.updChan_mem (c ch : Nat) (f : Chan → Chan) : (s.updChan c ch f).mem = s.mem := rfl
@[simp] theorem State.updChan_scratch (c ch : Nat) (f : Chan → Chan) : (s.updChan c ch f).scratch = s.scratch := rfl
@[simp] theorem State.updChan_hostMem (c ch : Nat) (f : Chan → Chan) : (s.updChan c ch f).hostMem = s.hostMem := rfl
@[simp] theorem State.updChan_out (c ch : Nat) (f : Chan → Chan) : (s.updChan c ch f).out = s.out := rfl
@[simp] theorem State.updChan_ticks (c ch : Nat) (f : Chan → Chan) : (s.updChan c ch f).ticks = s.ticks := rfl
@[simp] theorem State.updChan_epoch (c ch : Nat) (f : Chan → Chan) : (s.updChan c ch f).epoch = s.epoch := rfl
@[simp] theorem State.updChan_free (c ch : Nat) (f : Chan → Chan) : (s.updChan c ch f).free = s.free := rfl
@[simp] theorem State.updChan_nextRq (c ch : Nat) (f : Chan → Chan) : (s.updChan c ch f).nextRq = s.nextRq := rfl
@[simp] theorem State.updChan_pending (c ch : Nat) (f : Chan → Chan) : (s.updChan c ch f).pending = s.pending := rfl
@[simp] theorem State.updChan_vault (c ch : Nat) (f : Chan → Chan) (t' v' : Nat) : (s.updChan c ch f).vault t' v' = s.vault t' v' := rfl
@[simp] theorem State.updChan_tile (c ch : Nat) (f : Chan → Chan) (d : Nat) : (s.updChan c ch f).tile d = s.tile d := rfl
@[simp] theorem State.updChan_port (c ch : Nat) (f : Chan → Chan) (d : Nat) : (s.updChan c ch f).port d = s.port d := rfl
@[simp] theorem State.updChan_link (c ch : Nat) (f : Chan → Chan) (d : Nat) : (s.updChan c ch f).link d = s.link d := rfl
@[simp] theorem State.updChan_xing (c ch : Nat) (f : Chan → Chan) (d : Nat) : (s.updChan c ch f).xing d = s.xing d := rfl
@[simp] theorem State.updChan_unit (c ch : Nat) (f : Chan → Chan) (d : Nat) : (s.updChan c ch f).unit d = s.unit d := rfl

/-! ### updDev -/

@[simp] theorem State.updDev_fuses (f : Dev → Dev) : (s.updDev f).fuses = s.fuses := rfl
@[simp] theorem State.updDev_power (f : Dev → Dev) : (s.updDev f).power = s.power := rfl
@[simp] theorem State.updDev_sec (f : Dev → Dev) : (s.updDev f).sec = s.sec := rfl
@[simp] theorem State.updDev_mirror (f : Dev → Dev) : (s.updDev f).mirror = s.mirror := rfl
@[simp] theorem State.updDev_tiles (f : Dev → Dev) : (s.updDev f).tiles = s.tiles := rfl
@[simp] theorem State.updDev_cores (f : Dev → Dev) : (s.updDev f).cores = s.cores := rfl
@[simp] theorem State.updDev_vaults (f : Dev → Dev) : (s.updDev f).vaults = s.vaults := rfl
@[simp] theorem State.updDev_units (f : Dev → Dev) : (s.updDev f).units = s.units := rfl
@[simp] theorem State.updDev_xings (f : Dev → Dev) : (s.updDev f).xings = s.xings := rfl
@[simp] theorem State.updDev_ports (f : Dev → Dev) : (s.updDev f).ports = s.ports := rfl
@[simp] theorem State.updDev_links (f : Dev → Dev) : (s.updDev f).links = s.links := rfl
@[simp] theorem State.updDev_mem (f : Dev → Dev) : (s.updDev f).mem = s.mem := rfl
@[simp] theorem State.updDev_scratch (f : Dev → Dev) : (s.updDev f).scratch = s.scratch := rfl
@[simp] theorem State.updDev_hostMem (f : Dev → Dev) : (s.updDev f).hostMem = s.hostMem := rfl
@[simp] theorem State.updDev_out (f : Dev → Dev) : (s.updDev f).out = s.out := rfl
@[simp] theorem State.updDev_ticks (f : Dev → Dev) : (s.updDev f).ticks = s.ticks := rfl
@[simp] theorem State.updDev_epoch (f : Dev → Dev) : (s.updDev f).epoch = s.epoch := rfl
@[simp] theorem State.updDev_free (f : Dev → Dev) : (s.updDev f).free = s.free := rfl
@[simp] theorem State.updDev_nextRq (f : Dev → Dev) : (s.updDev f).nextRq = s.nextRq := rfl
@[simp] theorem State.updDev_pending (f : Dev → Dev) : (s.updDev f).pending = s.pending := rfl
@[simp] theorem State.updDev_core (f : Dev → Dev) (d : Nat) : (s.updDev f).core d = s.core d := rfl
@[simp] theorem State.updDev_vault (f : Dev → Dev) (t' v' : Nat) : (s.updDev f).vault t' v' = s.vault t' v' := rfl
@[simp] theorem State.updDev_tile (f : Dev → Dev) (d : Nat) : (s.updDev f).tile d = s.tile d := rfl
@[simp] theorem State.updDev_port (f : Dev → Dev) (d : Nat) : (s.updDev f).port d = s.port d := rfl
@[simp] theorem State.updDev_link (f : Dev → Dev) (d : Nat) : (s.updDev f).link d = s.link d := rfl
@[simp] theorem State.updDev_xing (f : Dev → Dev) (d : Nat) : (s.updDev f).xing d = s.xing d := rfl
@[simp] theorem State.updDev_unit (f : Dev → Dev) (d : Nat) : (s.updDev f).unit d = s.unit d := rfl

/-! ### updMirror -/

@[simp] theorem State.updMirror_fuses (f : Mirror → Mirror) : (s.updMirror f).fuses = s.fuses := rfl
@[simp] theorem State.updMirror_dev (f : Mirror → Mirror) : (s.updMirror f).dev = s.dev := rfl
@[simp] theorem State.updMirror_power (f : Mirror → Mirror) : (s.updMirror f).power = s.power := rfl
@[simp] theorem State.updMirror_sec (f : Mirror → Mirror) : (s.updMirror f).sec = s.sec := rfl
@[simp] theorem State.updMirror_tiles (f : Mirror → Mirror) : (s.updMirror f).tiles = s.tiles := rfl
@[simp] theorem State.updMirror_cores (f : Mirror → Mirror) : (s.updMirror f).cores = s.cores := rfl
@[simp] theorem State.updMirror_vaults (f : Mirror → Mirror) : (s.updMirror f).vaults = s.vaults := rfl
@[simp] theorem State.updMirror_units (f : Mirror → Mirror) : (s.updMirror f).units = s.units := rfl
@[simp] theorem State.updMirror_xings (f : Mirror → Mirror) : (s.updMirror f).xings = s.xings := rfl
@[simp] theorem State.updMirror_ports (f : Mirror → Mirror) : (s.updMirror f).ports = s.ports := rfl
@[simp] theorem State.updMirror_links (f : Mirror → Mirror) : (s.updMirror f).links = s.links := rfl
@[simp] theorem State.updMirror_mem (f : Mirror → Mirror) : (s.updMirror f).mem = s.mem := rfl
@[simp] theorem State.updMirror_scratch (f : Mirror → Mirror) : (s.updMirror f).scratch = s.scratch := rfl
@[simp] theorem State.updMirror_hostMem (f : Mirror → Mirror) : (s.updMirror f).hostMem = s.hostMem := rfl
@[simp] theorem State.updMirror_out (f : Mirror → Mirror) : (s.updMirror f).out = s.out := rfl
@[simp] theorem State.updMirror_ticks (f : Mirror → Mirror) : (s.updMirror f).ticks = s.ticks := rfl
@[simp] theorem State.updMirror_epoch (f : Mirror → Mirror) : (s.updMirror f).epoch = s.epoch := rfl
@[simp] theorem State.updMirror_free (f : Mirror → Mirror) : (s.updMirror f).free = s.free := rfl
@[simp] theorem State.updMirror_nextRq (f : Mirror → Mirror) : (s.updMirror f).nextRq = s.nextRq := rfl
@[simp] theorem State.updMirror_pending (f : Mirror → Mirror) : (s.updMirror f).pending = s.pending := rfl
@[simp] theorem State.updMirror_core (f : Mirror → Mirror) (d : Nat) : (s.updMirror f).core d = s.core d := rfl
@[simp] theorem State.updMirror_vault (f : Mirror → Mirror) (t' v' : Nat) : (s.updMirror f).vault t' v' = s.vault t' v' := rfl
@[simp] theorem State.updMirror_tile (f : Mirror → Mirror) (d : Nat) : (s.updMirror f).tile d = s.tile d := rfl
@[simp] theorem State.updMirror_port (f : Mirror → Mirror) (d : Nat) : (s.updMirror f).port d = s.port d := rfl
@[simp] theorem State.updMirror_link (f : Mirror → Mirror) (d : Nat) : (s.updMirror f).link d = s.link d := rfl
@[simp] theorem State.updMirror_xing (f : Mirror → Mirror) (d : Nat) : (s.updMirror f).xing d = s.xing d := rfl
@[simp] theorem State.updMirror_unit (f : Mirror → Mirror) (d : Nat) : (s.updMirror f).unit d = s.unit d := rfl

/-! ### updPower -/

@[simp] theorem State.updPower_fuses (f : Power → Power) : (s.updPower f).fuses = s.fuses := rfl
@[simp] theorem State.updPower_dev (f : Power → Power) : (s.updPower f).dev = s.dev := rfl
@[simp] theorem State.updPower_sec (f : Power → Power) : (s.updPower f).sec = s.sec := rfl
@[simp] theorem State.updPower_mirror (f : Power → Power) : (s.updPower f).mirror = s.mirror := rfl
@[simp] theorem State.updPower_tiles (f : Power → Power) : (s.updPower f).tiles = s.tiles := rfl
@[simp] theorem State.updPower_cores (f : Power → Power) : (s.updPower f).cores = s.cores := rfl
@[simp] theorem State.updPower_vaults (f : Power → Power) : (s.updPower f).vaults = s.vaults := rfl
@[simp] theorem State.updPower_units (f : Power → Power) : (s.updPower f).units = s.units := rfl
@[simp] theorem State.updPower_xings (f : Power → Power) : (s.updPower f).xings = s.xings := rfl
@[simp] theorem State.updPower_ports (f : Power → Power) : (s.updPower f).ports = s.ports := rfl
@[simp] theorem State.updPower_links (f : Power → Power) : (s.updPower f).links = s.links := rfl
@[simp] theorem State.updPower_mem (f : Power → Power) : (s.updPower f).mem = s.mem := rfl
@[simp] theorem State.updPower_scratch (f : Power → Power) : (s.updPower f).scratch = s.scratch := rfl
@[simp] theorem State.updPower_hostMem (f : Power → Power) : (s.updPower f).hostMem = s.hostMem := rfl
@[simp] theorem State.updPower_out (f : Power → Power) : (s.updPower f).out = s.out := rfl
@[simp] theorem State.updPower_ticks (f : Power → Power) : (s.updPower f).ticks = s.ticks := rfl
@[simp] theorem State.updPower_epoch (f : Power → Power) : (s.updPower f).epoch = s.epoch := rfl
@[simp] theorem State.updPower_free (f : Power → Power) : (s.updPower f).free = s.free := rfl
@[simp] theorem State.updPower_nextRq (f : Power → Power) : (s.updPower f).nextRq = s.nextRq := rfl
@[simp] theorem State.updPower_pending (f : Power → Power) : (s.updPower f).pending = s.pending := rfl
@[simp] theorem State.updPower_core (f : Power → Power) (d : Nat) : (s.updPower f).core d = s.core d := rfl
@[simp] theorem State.updPower_vault (f : Power → Power) (t' v' : Nat) : (s.updPower f).vault t' v' = s.vault t' v' := rfl
@[simp] theorem State.updPower_tile (f : Power → Power) (d : Nat) : (s.updPower f).tile d = s.tile d := rfl
@[simp] theorem State.updPower_port (f : Power → Power) (d : Nat) : (s.updPower f).port d = s.port d := rfl
@[simp] theorem State.updPower_link (f : Power → Power) (d : Nat) : (s.updPower f).link d = s.link d := rfl
@[simp] theorem State.updPower_xing (f : Power → Power) (d : Nat) : (s.updPower f).xing d = s.xing d := rfl
@[simp] theorem State.updPower_unit (f : Power → Power) (d : Nat) : (s.updPower f).unit d = s.unit d := rfl

/-! ### updSec -/

@[simp] theorem State.updSec_fuses (f : Sec → Sec) : (s.updSec f).fuses = s.fuses := rfl
@[simp] theorem State.updSec_dev (f : Sec → Sec) : (s.updSec f).dev = s.dev := rfl
@[simp] theorem State.updSec_power (f : Sec → Sec) : (s.updSec f).power = s.power := rfl
@[simp] theorem State.updSec_mirror (f : Sec → Sec) : (s.updSec f).mirror = s.mirror := rfl
@[simp] theorem State.updSec_tiles (f : Sec → Sec) : (s.updSec f).tiles = s.tiles := rfl
@[simp] theorem State.updSec_cores (f : Sec → Sec) : (s.updSec f).cores = s.cores := rfl
@[simp] theorem State.updSec_vaults (f : Sec → Sec) : (s.updSec f).vaults = s.vaults := rfl
@[simp] theorem State.updSec_units (f : Sec → Sec) : (s.updSec f).units = s.units := rfl
@[simp] theorem State.updSec_xings (f : Sec → Sec) : (s.updSec f).xings = s.xings := rfl
@[simp] theorem State.updSec_ports (f : Sec → Sec) : (s.updSec f).ports = s.ports := rfl
@[simp] theorem State.updSec_links (f : Sec → Sec) : (s.updSec f).links = s.links := rfl
@[simp] theorem State.updSec_mem (f : Sec → Sec) : (s.updSec f).mem = s.mem := rfl
@[simp] theorem State.updSec_scratch (f : Sec → Sec) : (s.updSec f).scratch = s.scratch := rfl
@[simp] theorem State.updSec_hostMem (f : Sec → Sec) : (s.updSec f).hostMem = s.hostMem := rfl
@[simp] theorem State.updSec_out (f : Sec → Sec) : (s.updSec f).out = s.out := rfl
@[simp] theorem State.updSec_ticks (f : Sec → Sec) : (s.updSec f).ticks = s.ticks := rfl
@[simp] theorem State.updSec_epoch (f : Sec → Sec) : (s.updSec f).epoch = s.epoch := rfl
@[simp] theorem State.updSec_free (f : Sec → Sec) : (s.updSec f).free = s.free := rfl
@[simp] theorem State.updSec_nextRq (f : Sec → Sec) : (s.updSec f).nextRq = s.nextRq := rfl
@[simp] theorem State.updSec_pending (f : Sec → Sec) : (s.updSec f).pending = s.pending := rfl
@[simp] theorem State.updSec_core (f : Sec → Sec) (d : Nat) : (s.updSec f).core d = s.core d := rfl
@[simp] theorem State.updSec_vault (f : Sec → Sec) (t' v' : Nat) : (s.updSec f).vault t' v' = s.vault t' v' := rfl
@[simp] theorem State.updSec_tile (f : Sec → Sec) (d : Nat) : (s.updSec f).tile d = s.tile d := rfl
@[simp] theorem State.updSec_port (f : Sec → Sec) (d : Nat) : (s.updSec f).port d = s.port d := rfl
@[simp] theorem State.updSec_link (f : Sec → Sec) (d : Nat) : (s.updSec f).link d = s.link d := rfl
@[simp] theorem State.updSec_xing (f : Sec → Sec) (d : Nat) : (s.updSec f).xing d = s.xing d := rfl
@[simp] theorem State.updSec_unit (f : Sec → Sec) (d : Nat) : (s.updSec f).unit d = s.unit d := rfl

/-! ### emit -/

@[simp] theorem State.emit_fuses (o : Out) : (s.emit o).fuses = s.fuses := rfl
@[simp] theorem State.emit_dev (o : Out) : (s.emit o).dev = s.dev := rfl
@[simp] theorem State.emit_power (o : Out) : (s.emit o).power = s.power := rfl
@[simp] theorem State.emit_sec (o : Out) : (s.emit o).sec = s.sec := rfl
@[simp] theorem State.emit_mirror (o : Out) : (s.emit o).mirror = s.mirror := rfl
@[simp] theorem State.emit_tiles (o : Out) : (s.emit o).tiles = s.tiles := rfl
@[simp] theorem State.emit_cores (o : Out) : (s.emit o).cores = s.cores := rfl
@[simp] theorem State.emit_vaults (o : Out) : (s.emit o).vaults = s.vaults := rfl
@[simp] theorem State.emit_units (o : Out) : (s.emit o).units = s.units := rfl
@[simp] theorem State.emit_xings (o : Out) : (s.emit o).xings = s.xings := rfl
@[simp] theorem State.emit_ports (o : Out) : (s.emit o).ports = s.ports := rfl
@[simp] theorem State.emit_links (o : Out) : (s.emit o).links = s.links := rfl
@[simp] theorem State.emit_mem (o : Out) : (s.emit o).mem = s.mem := rfl
@[simp] theorem State.emit_scratch (o : Out) : (s.emit o).scratch = s.scratch := rfl
@[simp] theorem State.emit_hostMem (o : Out) : (s.emit o).hostMem = s.hostMem := rfl
@[simp] theorem State.emit_ticks (o : Out) : (s.emit o).ticks = s.ticks := rfl
@[simp] theorem State.emit_epoch (o : Out) : (s.emit o).epoch = s.epoch := rfl
@[simp] theorem State.emit_free (o : Out) : (s.emit o).free = s.free := rfl
@[simp] theorem State.emit_nextRq (o : Out) : (s.emit o).nextRq = s.nextRq := rfl
@[simp] theorem State.emit_pending (o : Out) : (s.emit o).pending = s.pending := rfl
@[simp] theorem State.emit_core (o : Out) (d : Nat) : (s.emit o).core d = s.core d := rfl
@[simp] theorem State.emit_vault (o : Out) (t' v' : Nat) : (s.emit o).vault t' v' = s.vault t' v' := rfl
@[simp] theorem State.emit_tile (o : Out) (d : Nat) : (s.emit o).tile d = s.tile d := rfl
@[simp] theorem State.emit_port (o : Out) (d : Nat) : (s.emit o).port d = s.port d := rfl
@[simp] theorem State.emit_link (o : Out) (d : Nat) : (s.emit o).link d = s.link d := rfl
@[simp] theorem State.emit_xing (o : Out) (d : Nat) : (s.emit o).xing d = s.xing d := rfl
@[simp] theorem State.emit_unit (o : Out) (d : Nat) : (s.emit o).unit d = s.unit d := rfl

/-! ### drawn -/

@[simp] theorem State.drawn_fuses : (s.drawn).fuses = s.fuses := rfl
@[simp] theorem State.drawn_dev : (s.drawn).dev = s.dev := rfl
@[simp] theorem State.drawn_power : (s.drawn).power = s.power := rfl
@[simp] theorem State.drawn_sec : (s.drawn).sec = s.sec := rfl
@[simp] theorem State.drawn_mirror : (s.drawn).mirror = s.mirror := rfl
@[simp] theorem State.drawn_tiles : (s.drawn).tiles = s.tiles := rfl
@[simp] theorem State.drawn_cores : (s.drawn).cores = s.cores := rfl
@[simp] theorem State.drawn_vaults : (s.drawn).vaults = s.vaults := rfl
@[simp] theorem State.drawn_units : (s.drawn).units = s.units := rfl
@[simp] theorem State.drawn_xings : (s.drawn).xings = s.xings := rfl
@[simp] theorem State.drawn_ports : (s.drawn).ports = s.ports := rfl
@[simp] theorem State.drawn_links : (s.drawn).links = s.links := rfl
@[simp] theorem State.drawn_mem : (s.drawn).mem = s.mem := rfl
@[simp] theorem State.drawn_scratch : (s.drawn).scratch = s.scratch := rfl
@[simp] theorem State.drawn_hostMem : (s.drawn).hostMem = s.hostMem := rfl
@[simp] theorem State.drawn_out : (s.drawn).out = s.out := rfl
@[simp] theorem State.drawn_ticks : (s.drawn).ticks = s.ticks := rfl
@[simp] theorem State.drawn_epoch : (s.drawn).epoch = s.epoch := rfl
@[simp] theorem State.drawn_nextRq : (s.drawn).nextRq = s.nextRq := rfl
@[simp] theorem State.drawn_pending : (s.drawn).pending = s.pending := rfl
@[simp] theorem State.drawn_core (d : Nat) : (s.drawn).core d = s.core d := rfl
@[simp] theorem State.drawn_vault (t' v' : Nat) : (s.drawn).vault t' v' = s.vault t' v' := rfl
@[simp] theorem State.drawn_tile (d : Nat) : (s.drawn).tile d = s.tile d := rfl
@[simp] theorem State.drawn_port (d : Nat) : (s.drawn).port d = s.port d := rfl
@[simp] theorem State.drawn_link (d : Nat) : (s.drawn).link d = s.link d := rfl
@[simp] theorem State.drawn_xing (d : Nat) : (s.drawn).xing d = s.xing d := rfl
@[simp] theorem State.drawn_unit (d : Nat) : (s.drawn).unit d = s.unit d := rfl

/-! ### The part that changes -/

@[simp] theorem State.setCore_core (c : Nat) (x : Core) : (s.setCore c x).core c = x := tget_tset_self _ _ _ _
theorem State.setCore_core_ne {c d : Nat} (x : Core) (h : c ≠ d) : (s.setCore c x).core d = s.core d := tget_tset_ne _ _ _ h
@[simp] theorem State.updCore_core (c : Nat) (f : Core → Core) : (s.updCore c f).core c = f (s.core c) := tget_tset_self _ _ _ _
theorem State.updCore_core_ne {c d : Nat} (f : Core → Core) (h : c ≠ d) : (s.updCore c f).core d = s.core d := tget_tset_ne _ _ _ h

@[simp] theorem State.setTile_tile (c : Nat) (x : Tile) : (s.setTile c x).tile c = x := tget_tset_self _ _ _ _
theorem State.setTile_tile_ne {c d : Nat} (x : Tile) (h : c ≠ d) : (s.setTile c x).tile d = s.tile d := tget_tset_ne _ _ _ h
@[simp] theorem State.updTile_tile (c : Nat) (f : Tile → Tile) : (s.updTile c f).tile c = f (s.tile c) := tget_tset_self _ _ _ _
theorem State.updTile_tile_ne {c d : Nat} (f : Tile → Tile) (h : c ≠ d) : (s.updTile c f).tile d = s.tile d := tget_tset_ne _ _ _ h

@[simp] theorem State.setPort_port (c : Nat) (x : Port) : (s.setPort c x).port c = x := tget_tset_self _ _ _ _
theorem State.setPort_port_ne {c d : Nat} (x : Port) (h : c ≠ d) : (s.setPort c x).port d = s.port d := tget_tset_ne _ _ _ h
@[simp] theorem State.updPort_port (c : Nat) (f : Port → Port) : (s.updPort c f).port c = f (s.port c) := tget_tset_self _ _ _ _
theorem State.updPort_port_ne {c d : Nat} (f : Port → Port) (h : c ≠ d) : (s.updPort c f).port d = s.port d := tget_tset_ne _ _ _ h

@[simp] theorem State.setLink_link (c : Nat) (x : Link) : (s.setLink c x).link c = x := tget_tset_self _ _ _ _
theorem State.setLink_link_ne {c d : Nat} (x : Link) (h : c ≠ d) : (s.setLink c x).link d = s.link d := tget_tset_ne _ _ _ h
@[simp] theorem State.updLink_link (c : Nat) (f : Link → Link) : (s.updLink c f).link c = f (s.link c) := tget_tset_self _ _ _ _
theorem State.updLink_link_ne {c d : Nat} (f : Link → Link) (h : c ≠ d) : (s.updLink c f).link d = s.link d := tget_tset_ne _ _ _ h

@[simp] theorem State.setXing_xing (c : Nat) (x : Xing) : (s.setXing c x).xing c = x := tget_tset_self _ _ _ _
theorem State.setXing_xing_ne {c d : Nat} (x : Xing) (h : c ≠ d) : (s.setXing c x).xing d = s.xing d := tget_tset_ne _ _ _ h
@[simp] theorem State.updXing_xing (c : Nat) (f : Xing → Xing) : (s.updXing c f).xing c = f (s.xing c) := tget_tset_self _ _ _ _
theorem State.updXing_xing_ne {c d : Nat} (f : Xing → Xing) (h : c ≠ d) : (s.updXing c f).xing d = s.xing d := tget_tset_ne _ _ _ h

@[simp] theorem State.setUnit_unit (c : Nat) (x : BankUnit) : (s.setUnit c x).unit c = x := tget_tset_self _ _ _ _
theorem State.setUnit_unit_ne {c d : Nat} (x : BankUnit) (h : c ≠ d) : (s.setUnit c x).unit d = s.unit d := tget_tset_ne _ _ _ h
@[simp] theorem State.updUnit_unit (c : Nat) (f : BankUnit → BankUnit) : (s.updUnit c f).unit c = f (s.unit c) := tget_tset_self _ _ _ _
theorem State.updUnit_unit_ne {c d : Nat} (f : BankUnit → BankUnit) (h : c ≠ d) : (s.updUnit c f).unit d = s.unit d := tget_tset_ne _ _ _ h

@[simp] theorem State.setVault_vault (t v : Nat) (x : Vault) : (s.setVault t v x).vault t v = x := tget_tset_self _ _ _ _
theorem State.setVault_vault_ne {t v t' v' : Nat} (x : Vault) (h : 64 * t + v ≠ 64 * t' + v') :
    (s.setVault t v x).vault t' v' = s.vault t' v' := tget_tset_ne _ _ _ h
@[simp] theorem State.updVault_vault (t v : Nat) (f : Vault → Vault) : (s.updVault t v f).vault t v = f (s.vault t v) :=
  tget_tset_self _ _ _ _
theorem State.updVault_vault_ne {t v t' v' : Nat} (f : Vault → Vault) (h : 64 * t + v ≠ 64 * t' + v') :
    (s.updVault t v f).vault t' v' = s.vault t' v' := tget_tset_ne _ _ _ h
@[simp] theorem State.updDev_dev (f : Dev → Dev) : (s.updDev f).dev = f s.dev := rfl
@[simp] theorem State.updMirror_mirror (f : Mirror → Mirror) : (s.updMirror f).mirror = f s.mirror := rfl
@[simp] theorem State.updPower_power (f : Power → Power) : (s.updPower f).power = f s.power := rfl
@[simp] theorem State.updSec_sec (f : Sec → Sec) : (s.updSec f).sec = f s.sec := rfl
@[simp] theorem State.emit_out (o : Out) : (s.emit o).out = s.out ++ [o] := rfl
@[simp] theorem State.drawn_free : s.drawn.free = s.free + 1 := rfl
@[simp] theorem State.updSeq_core (c : Nat) (f : Seq → Seq) : (s.updSeq c f).core c = { s.core c with seq := f (s.core c).seq } :=
  s.updCore_core c _
@[simp] theorem State.updMx_core (c : Nat) (f : Mx → Mx) : (s.updMx c f).core c = { s.core c with mx := f (s.core c).mx } :=
  s.updCore_core c _
@[simp] theorem State.updVx_core (c : Nat) (f : Vx → Vx) : (s.updVx c f).core c = { s.core c with vx := f (s.core c).vx } :=
  s.updCore_core c _
@[simp] theorem State.updCk_core (c : Nat) (f : Ck → Ck) : (s.updCk c f).core c = { s.core c with ck := f (s.core c).ck } :=
  s.updCore_core c _
@[simp] theorem State.updChan_core (c ch : Nat) (f : Chan → Chan) :
    (s.updChan c ch f).core c = (s.core c).setChan ch (f ((s.core c).chan ch)) := s.updCore_core c _

/-! ### Folds -/

@[simp] theorem forEach_nil {α : Type} (s : State) (f : State → α → State) : forEach [] s f = s := rfl
@[simp] theorem forEach_cons {α : Type} (x : α) (l : List α) (s : State) (f : State → α → State) :
    forEach (x :: l) s f = forEach l (f s x) f := rfl

/-- What every round of a fold keeps, the fold keeps. -/
theorem forEach_keeps {α : Type} (P : State → Prop) (l : List α) (f : State → α → State) (h : ∀ s a, P s → P (f s a)) :
    ∀ s, P s → P (forEach l s f) := by
  induction l with
  | nil => exact fun _ hs => hs
  | cons x l ih => exact fun s hs => ih _ (h s x hs)

/-- A part of the state that no round changes is as before. -/
theorem forEach_same {α β : Type} (g : State → β) (l : List α) (f : State → α → State) (h : ∀ s a, g (f s a) = g s) (s : State) :
    g (forEach l s f) = g s :=
  forEach_keeps (fun t => g t = g s) l f (fun t a ht => (h t a).trans ht) s rfl

end Sys2Proof.Machine
end

