-- ==== Sys2Proof/Laws/Traffic.lean ====
section
/-!
SUPPORT. What moving requests, answers and messages can change: crossings, ports, links, a core's inbox and error counter,
the hub's and the peers' bookkeeping. Everything a core computes with, memory, tiles and vaults stand as before.
-/
namespace Sys2Proof.Machine

/-- What traffic keeps. -/
structure Traffic (s t : State) : Prop where
  fuses : t.fuses = s.fuses
  power : t.power = s.power
  sec : t.sec = s.sec
  mirror : t.mirror = s.mirror
  tiles : t.tiles = s.tiles
  vaults : t.vaults = s.vaults
  units : t.units = s.units
  mem : t.mem = s.mem
  scratch : t.scratch = s.scratch
  hostMem : t.hostMem = s.hostMem
  ticks : t.ticks = s.ticks
  epoch : t.epoch = s.epoch
  free : t.free = s.free
  pending : t.pending = s.pending
  state : t.dev.state = s.dev.state
  gen : t.dev.gen = s.dev.gen
  step : t.dev.step = s.dev.step
  plan : t.dev.plan = s.dev.plan
  inReset : t.dev.inReset = s.dev.inReset
  holder : t.dev.holder = s.dev.holder
  active : t.dev.active = s.dev.active
  faults : t.dev.faults = s.dev.faults
  faultSeq : t.dev.faultSeq = s.dev.faultSeq
  core : ∀ c, t.core c = { s.core c with inbox := (t.core c).inbox, r5 := (t.core c).r5 }

theorem Traffic.refl (s : State) : Traffic s s := by constructor <;> intros <;> rfl

theorem Traffic.trans {s t u : State} (a : Traffic s t) (b : Traffic t u) : Traffic s u := by
  constructor
  case core => intro c; rw [b.core c, a.core c]
  all_goals first
    | exact b.fuses.trans a.fuses | exact b.power.trans a.power | exact b.sec.trans a.sec | exact b.mirror.trans a.mirror
    | exact b.tiles.trans a.tiles | exact b.vaults.trans a.vaults | exact b.units.trans a.units | exact b.mem.trans a.mem
    | exact b.scratch.trans a.scratch | exact b.hostMem.trans a.hostMem | exact b.ticks.trans a.ticks
    | exact b.epoch.trans a.epoch | exact b.free.trans a.free | exact b.pending.trans a.pending
    | exact b.state.trans a.state | exact b.gen.trans a.gen
    | exact b.step.trans a.step | exact b.plan.trans a.plan | exact b.inReset.trans a.inReset
    | exact b.holder.trans a.holder | exact b.active.trans a.active | exact b.faults.trans a.faults
    | exact b.faultSeq.trans a.faultSeq

theorem traffic_xings (s : State) (x : Tab Xing) : Traffic s { s with xings := x } := by constructor <;> intros <;> rfl
theorem traffic_ports (s : State) (x : Tab Port) : Traffic s { s with ports := x } := by constructor <;> intros <;> rfl
theorem traffic_links (s : State) (x : Tab Link) : Traffic s { s with links := x } := by constructor <;> intros <;> rfl
theorem traffic_out (s : State) (x : List Out) : Traffic s { s with out := x } := by constructor <;> intros <;> rfl
theorem traffic_nextRq (s : State) (x : Nat) : Traffic s { s with nextRq := x } := by constructor <;> intros <;> rfl

/-- A change of the device's record that keeps what traffic keeps. -/
theorem traffic_dev (s : State) (f : Dev → Dev) (h : ∀ d, (f d).state = d.state ∧ (f d).gen = d.gen ∧ (f d).step = d.step ∧
    (f d).plan = d.plan ∧ (f d).inReset = d.inReset ∧ (f d).holder = d.holder ∧ (f d).active = d.active ∧
    (f d).faults = d.faults ∧ (f d).faultSeq = d.faultSeq) : Traffic s (s.updDev f) := by
  obtain ⟨h1, h2, h3, h4, h5, h6, h7, h8, h9⟩ := h s.dev
  constructor <;> intros <;> first | rfl | assumption

/-- A change of a core's inbox and error counter. -/
theorem traffic_core (s : State) (c : Nat) (f : Core → Core)
    (h : ∀ k : Core, f k = { k with inbox := (f k).inbox, r5 := (f k).r5 }) : Traffic s (s.updCore c f) := by
  constructor
  case core =>
    intro d
    by_cases hd : c = d
    · subst hd; rw [State.updCore_core]; exact h _
    · rw [State.updCore_core_ne s f hd]
  all_goals rfl

theorem forEach_traffic {α : Type} (l : List α) (f : State → α → State) (h : ∀ s a, Traffic s (f s a)) (s : State) :
    Traffic s (forEach l s f) :=
  forEach_keeps (Traffic s) l f (fun t a ht => ht.trans (h t a)) s (Traffic.refl s)

/-! ## Links -/

theorem passItem_traffic (s : State) (k : Nat) : Traffic s (passItem s k) := traffic_xings s _

theorem sendFlit_traffic (s : State) (n fk p : Nat) (b : Bool) : Traffic s (sendFlit s n fk p b) :=
  ((traffic_links s _).trans (traffic_out _ _)).trans (passItem_traffic _ _)

theorem trySend_traffic (s : State) (n : Nat) (m : Msg) : Traffic s (trySend s n m).1 := by
  unfold trySend
  simp only
  generalize (if isResponse m.mt = true then (s.link n).rsCred else (s.link n).rqCred) = cred
  split
  · exact forEach_traffic _ _ (fun s ch => sendFlit_traffic s _ _ _ _) s
  · exact Traffic.refl s

theorem flushQueue_traffic (n : Nat) (l : List Msg) : ∀ (a b : Bool) (s : State), Traffic s (flushQueue n l a b s) := by
  induction l with
  | nil => intro a b s; exact Traffic.refl s
  | cons m l ih =>
    intro a b s
    simp only [flushQueue]
    generalize (if isResponse m.mt = true then b else a) = stop
    split
    · exact (traffic_links s _).trans (ih _ _ _)
    · split
      · next s' h => have := trySend_traffic s n m; rw [h] at this; exact this.trans (ih _ _ _)
      · next s' h => have := trySend_traffic s n m; rw [h] at this; exact (this.trans (traffic_links s' _)).trans (ih _ _ _)

theorem flushLink_traffic (s : State) (n : Nat) : Traffic s (flushLink s n) := by
  unfold flushLink
  split
  · exact (traffic_links s _).trans (flushQueue_traffic _ _ _ _ _)
  · exact Traffic.refl s

theorem sendMsg_traffic (s : State) (n : Nat) (m : Msg) : Traffic s (sendMsg s n m) := by
  unfold sendMsg
  split
  · exact (traffic_links s _).trans (flushLink_traffic _ _)
  · exact Traffic.refl s

theorem sendRouted_traffic (s : State) (d a : Nat) (m : Msg) : Traffic s (sendRouted s d a m) := by
  unfold sendRouted
  split
  · exact sendMsg_traffic _ _ _
  · exact Traffic.refl s

/-! ## Answers -/

theorem finishServe_traffic (s : State) (v : Serve) : Traffic s (finishServe s v) := by
  unfold finishServe
  split
  · apply forEach_traffic
    intro s run
    split
    · exact Traffic.refl s
    · exact sendRouted_traffic _ _ _ _
  · exact sendRouted_traffic _ _ _ _

theorem serveLine_traffic (s : State) (n src tag : Nat) (a : Rsp) : Traffic s (serveLine s n src tag a) := by
  unfold serveLine
  split
  · exact Traffic.refl s
  · simp only
    split
    · refine Traffic.trans ?_ (finishServe_traffic _ _)
      exact traffic_dev _ _ (fun d => ⟨rfl, rfl, rfl, rfl, rfl, rfl, rfl, rfl, rfl⟩)
    · exact traffic_dev s _ (fun d => ⟨rfl, rfl, rfl, rfl, rfl, rfl, rfl, rfl, rfl⟩)

theorem deliver_traffic (s : State) (a : Rsp) : Traffic s (deliver s a) := by
  unfold deliver
  split
  · split
    · exact traffic_out s _
    · exact Traffic.refl s
  · split
    · exact traffic_out s _
    · exact Traffic.refl s
  · exact serveLine_traffic _ _ _ _ _
  · apply traffic_dev
    intro d
    unfold hubAcked hubCame
    split <;> split <;> exact ⟨rfl, rfl, rfl, rfl, rfl, rfl, rfl, rfl, rfl⟩
  · split
    · exact traffic_core s _ _ (fun k => rfl)
    · exact Traffic.refl s

theorem answerAt_traffic (s : State) (a : Rsp) : Traffic s (answerAt s a) := by
  unfold answerAt
  split
  · exact (passItem_traffic _ _).trans (deliver_traffic _ _)
  · exact (passItem_traffic _ _).trans (deliver_traffic _ _)
  · exact deliver_traffic _ _

theorem refuseRq_traffic (s : State) (r : Rq) : Traffic s (refuseRq s r) := answerAt_traffic _ _

theorem loseAnswer_traffic (s : State) (a : Rsp) : Traffic s (loseAnswer s a) := by
  unfold loseAnswer
  split
  · split
    · exact Traffic.refl s
    · exact deliver_traffic _ _
  · exact answerAt_traffic _ _

theorem present_traffic (s : State) (k : Nat) (it : Item) (rest : List Nat) : Traffic s (present s k it rest) := by
  unfold present
  split
  · split
    · exact refuseRq_traffic _ _
    · exact loseAnswer_traffic _ _
  · exact traffic_xings s _

theorem sendOn_traffic (s : State) (it : Item) (l : List Nat) : Traffic s (sendOn s it l) := by
  unfold sendOn
  split
  · split
    · exact deliver_traffic _ _
    · exact refuseRq_traffic _ _
  · exact present_traffic _ _ _ _

theorem takeHead_traffic (s : State) (k : Nat) : Traffic s (takeHead s k) := traffic_xings s _

theorem answerFrom_traffic (s : State) (h : Stop) (a : Rsp) : Traffic s (answerFrom s h a) := by
  unfold answerFrom
  split
  · exact sendOn_traffic _ _ _
  · exact loseAnswer_traffic _ _

/-! ## Requests -/

theorem countR5_traffic (s : State) (o : Owner) : Traffic s (countR5 s o) := by
  unfold countR5
  split
  · exact traffic_ports s _
  · exact traffic_ports s _
  · exact traffic_dev s _ (fun d => ⟨rfl, rfl, rfl, rfl, rfl, rfl, rfl, rfl, rfl⟩)
  · exact traffic_dev s _ (fun d => ⟨rfl, rfl, rfl, rfl, rfl, rfl, rfl, rfl, rfl⟩)
  · split
    · exact traffic_core s _ _ (fun k => rfl)
    · exact Traffic.refl s

theorem fencedRq_traffic (s : State) (r : Rq) : Traffic s (fencedRq s r) := by
  unfold fencedRq
  split
  · refine Traffic.trans ?_ (refuseRq_traffic _ _)
    exact traffic_dev _ _ (fun d => ⟨rfl, rfl, rfl, rfl, rfl, rfl, rfl, rfl, rfl⟩)
  · simp only
    split
    · refine Traffic.trans ?_ (refuseRq_traffic _ _)
      exact traffic_dev _ _ (fun d => ⟨rfl, rfl, rfl, rfl, rfl, rfl, rfl, rfl, rfl⟩)
    · refine Traffic.trans ?_ (answerAt_traffic _ _)
      exact traffic_dev _ _ (fun d => ⟨rfl, rfl, rfl, rfl, rfl, rfl, rfl, rfl, rfl⟩)

theorem issueStacked_traffic (s : State) (r : Rq) : Traffic s (issueStacked s r) := by
  have h1 := (countR5_traffic s r.own).trans (refuseRq_traffic _ r)
  have h2 := fencedRq_traffic s r
  have h3 := refuseRq_traffic s r
  have h4 := fun r' l => sendOn_traffic s (.rq r') l
  rcases hp : s.place r.da with _ | p
  · simp only [issueStacked, hp]; exact h1
  · simp only [issueStacked, hp]
    by_cases hb : (s.inBankMode r.da && r.own.fenced) = true
    · rw [if_pos hb]; exact h2
    · rw [if_neg hb]
      by_cases hu : (!s.vaultUsable p.tile p.vault) = true
      · rw [if_pos hu]; exact h3
      · rw [if_neg hu]
        rcases hw : s.path r.own.stop (.vault p.tile p.vault) with _ | w
        · exact h3
        · exact h4 _ _

/-- What `issue` does once the request has its number. -/
theorem issue_from (s : State) (own : Owner) (kind : RqKind) (da : Nat) (mask : BitVec 64) (data : Line) (poison : Bool)
    (hint mis : Nat) : ∃ r, Traffic { s with nextRq := s.nextRq + 1 } (issue s own kind da mask data poison hint mis) ∧
      r = s.newRq own kind da mask data poison hint mis := by
  refine ⟨_, ?_, rfl⟩
  unfold issue
  generalize s.newRq own kind da mask data poison hint mis = r
  simp only
  generalize ({ s with nextRq := s.nextRq + 1 } : State) = u
  generalize hdr : s.dev.devid.toNat = dv
  split
  · exact issueStacked_traffic _ _
  · split
    · split
      · exact sendOn_traffic _ _ _
      · exact refuseRq_traffic _ _
    · refine Traffic.trans ?_ (refuseRq_traffic _ _)
      exact traffic_ports _ _
  · split
    · exact refuseRq_traffic _ _
    · split
      · exact issueStacked_traffic _ _
      · refine Traffic.trans ?_ (refuseRq_traffic _ _)
        exact traffic_dev _ _ (fun d => ⟨rfl, rfl, rfl, rfl, rfl, rfl, rfl, rfl, rfl⟩)
    · split
      · exact sendOn_traffic _ _ _
      · exact refuseRq_traffic _ _
  · exact (countR5_traffic _ _).trans (refuseRq_traffic _ _)

/-- A request issued changes nothing but traffic. -/
theorem issue_traffic (s : State) (own : Owner) (kind : RqKind) (da : Nat) (mask : BitVec 64) (data : Line) (poison : Bool)
    (hint mis : Nat) : Traffic s (issue s own kind da mask data poison hint mis) := by
  obtain ⟨_, h, _⟩ := issue_from s own kind da mask data poison hint mis
  exact (traffic_nextRq s _).trans h

theorem sendPeer_traffic (s : State) (n : Nat) (l : List Rq) : Traffic s (sendPeer s n l) := by
  unfold sendPeer
  split
  · exact Traffic.refl s
  · simp only
    split
    · exact forEach_traffic _ _ (fun s r => refuseRq_traffic s r) s
    · refine Traffic.trans ?_ (sendMsg_traffic _ _ _)
      exact traffic_dev _ _ (fun d => ⟨rfl, rfl, rfl, rfl, rfl, rfl, rfl, rfl, rfl⟩)

theorem askPage_traffic (s : State) (x : Nat) (page : BitVec 45) : Traffic s (askPage s x page) := by
  unfold askPage
  simp only
  split
  · exact Traffic.refl s
  · exact (traffic_ports s _).trans (traffic_out _ _)

theorem sendHost_traffic (s : State) (x : Nat) (r : Rq) : Traffic s (sendHost s x r) := by
  unfold sendHost
  simp only
  split
  · exact Traffic.refl s
  · split
    · exact (traffic_ports s _).trans (traffic_out _ _)
    · exact askPage_traffic _ _ _

theorem arriveHost_traffic (s : State) (x : Nat) (r : Rq) : Traffic s (arriveHost s x r) := by
  unfold arriveHost
  simp only
  split
  · exact (traffic_ports _ _).trans (refuseRq_traffic _ _)
  · split
    · exact answerFrom_traffic _ _ _
    · exact (traffic_ports _ _).trans (sendHost_traffic _ _ _)

theorem snoopFor_traffic (s : State) (r : Rq) : Traffic s (snoopFor s r) := by
  unfold snoopFor
  split
  · exact Traffic.refl s
  · apply forEach_traffic
    intro s x
    simp only
    split
    · split
      · exact traffic_ports s _
      · exact (traffic_ports s _).trans (traffic_out _ _)
    · exact Traffic.refl s

end Sys2Proof.Machine
end

