-- ==== Sys2Proof/Laws/Records.lean ====
section
/-!
SUPPORT. What posting status and fault records can change, beside traffic: the rings, host memory, the outputs, the
record and fault numbers, the fault store, the mirror's alive counters. Everything a core computes with, memory, tiles
and vaults stand as before.
-/
namespace Sys2Proof.Machine

/-- What traffic and records keep. -/
structure Aside (s t : State) : Prop where
  fuses : t.fuses = s.fuses
  power : t.power = s.power
  sec : t.sec = s.sec
  tiles : t.tiles = s.tiles
  vaults : t.vaults = s.vaults
  units : t.units = s.units
  mem : t.mem = s.mem
  scratch : t.scratch = s.scratch
  ticks : t.ticks = s.ticks
  epoch : t.epoch = s.epoch
  free : t.free = s.free
  pending : t.pending = s.pending
  state : t.dev.state = s.dev.state
  gen : t.dev.gen = s.dev.gen
  step : t.dev.step = s.dev.step
  plan : t.dev.plan = s.dev.plan
  inReset : t.dev.inReset = s.dev.inReset
  holder : t.dev.holder = s.dev.holder
  active : t.dev.active = s.dev.active
  core : ∀ c, t.core c = { s.core c with inbox := (t.core c).inbox, r5 := (t.core c).r5 }

theorem Aside.refl (s : State) : Aside s s := by constructor <;> intros <;> rfl

theorem Aside.trans {s t u : State} (a : Aside s t) (b : Aside t u) : Aside s u := by
  constructor
  case core => intro c; rw [b.core c, a.core c]
  all_goals first
    | exact b.fuses.trans a.fuses | exact b.power.trans a.power | exact b.sec.trans a.sec
    | exact b.tiles.trans a.tiles | exact b.vaults.trans a.vaults | exact b.units.trans a.units | exact b.mem.trans a.mem
    | exact b.scratch.trans a.scratch | exact b.ticks.trans a.ticks
    | exact b.epoch.trans a.epoch | exact b.free.trans a.free | exact b.pending.trans a.pending
    | exact b.state.trans a.state | exact b.gen.trans a.gen
    | exact b.step.trans a.step | exact b.plan.trans a.plan | exact b.inReset.trans a.inReset
    | exact b.holder.trans a.holder | exact b.active.trans a.active

theorem Traffic.aside {s t : State} (h : Traffic s t) : Aside s t :=
  ⟨h.fuses, h.power, h.sec, h.tiles, h.vaults, h.units, h.mem, h.scratch, h.ticks, h.epoch, h.free, h.pending, h.state,
    h.gen, h.step, h.plan, h.inReset, h.holder, h.active, h.core⟩

theorem aside_ports (s : State) (x : Tab Port) : Aside s { s with ports := x } := (traffic_ports s x).aside
theorem aside_out (s : State) (x : List Out) : Aside s { s with out := x } := (traffic_out s x).aside
theorem aside_hostMem (s : State) (x : List Host.Cell) : Aside s { s with hostMem := x } := by constructor <;> intros <;> rfl
theorem aside_mirror (s : State) (x : Mirror) : Aside s { s with mirror := x } := by constructor <;> intros <;> rfl

/-- A change of the device's record that keeps what records keep. -/
theorem aside_dev (s : State) (f : Dev → Dev) (h : ∀ d, (f d).state = d.state ∧ (f d).gen = d.gen ∧ (f d).step = d.step ∧
    (f d).plan = d.plan ∧ (f d).inReset = d.inReset ∧ (f d).holder = d.holder ∧ (f d).active = d.active) :
    Aside s (s.updDev f) := by
  obtain ⟨h1, h2, h3, h4, h5, h6, h7⟩ := h s.dev
  constructor <;> intros <;> first | rfl | assumption

theorem forEach_aside {α : Type} (l : List α) (f : State → α → State) (h : ∀ s a, Aside s (f s a)) (s : State) :
    Aside s (forEach l s f) :=
  forEach_keeps (Aside s) l f (fun t a ht => ht.trans (h t a)) s (Aside.refl s)

/-! ## Host memory and interrupts -/

theorem crossAt_aside (s : State) (a b : Stop) : Aside s (crossAt s a b) := by
  unfold crossAt
  split
  · exact forEach_aside _ _ (fun s k => (passItem_traffic s k).aside) s
  · exact Aside.refl s

theorem landHost_aside (s : State) (x h : Nat) (mask : BitVec 64) (d : Line) (p : Bool) : Aside s (landHost s x h mask d p) :=
  (aside_hostMem s _).trans (aside_out _ _)

theorem hostWriteLine_aside (s : State) (x a : Nat) (mask : BitVec 64) (d : Line) (p : Bool) :
    Aside s (hostWriteLine s x a mask d p) := by
  unfold hostWriteLine
  dsimp only
  split
  · exact (aside_out s _).trans (landHost_aside _ _ _ _ _ _)
  · exact aside_ports s _

theorem cacheLine_aside (s : State) (x h : Nat) (m : Bool) : Aside s (cacheLine s x h m) := by
  unfold cacheLine
  dsimp only
  refine Aside.trans ?_ (aside_ports _ _)
  split
  · exact aside_out s _
  · exact Aside.refl s

theorem ringWrite_aside (s : State) (x a : Nat) (d : Line) : Aside s (ringWrite s x a d) := by
  unfold ringWrite
  dsimp only
  split
  · refine Aside.trans ?_ (cacheLine_aside _ _ _ _)
    split
    · exact aside_hostMem s _
    · exact (aside_out s _).trans (aside_hostMem _ _)
  · exact hostWriteLine_aside _ _ _ _ _ _

theorem sendMsix_aside (s : State) (x v : Nat) : Aside s (sendMsix s x v) := by
  unfold sendMsix
  simp only
  split
  · exact Aside.refl s
  · split
    · exact aside_ports s _
    · split
      · exact aside_ports s _
      · exact (aside_ports s _).trans (aside_out _ _)

theorem sendMsixBoth_aside (s : State) (v : Nat) : Aside s (sendMsixBoth s v) :=
  (sendMsix_aside _ _ _).trans (sendMsix_aside _ _ _)

/-! ## Records -/

theorem postToPort_aside (s : State) (x r fields : Nat) : Aside s (postToPort s x r fields) := by
  unfold postToPort
  simp only
  split
  · have h (p : Port) (a : Nat) (d : Line) : Aside s (ringWrite (crossAt (s.setPort x p) .control (.hostPort x)) x a d) :=
      ((aside_ports s _).trans (crossAt_aside _ _ _)).trans (ringWrite_aside _ _ _ _)
    split
    · exact ((h _ _ _).trans (aside_out _ _)).trans (sendMsix_aside _ _ _)
    · exact h _ _ _
  · exact Aside.refl s

theorem sendControl_aside (s : State) (n dst mt : Nat) (word : BitVec 32) (res : Nat) (body : List (BitVec 128)) :
    Aside s (sendControl s n dst mt word res body) := by
  unfold sendControl
  split
  · exact Aside.refl s
  · refine Aside.trans ?_ (sendMsg_traffic _ _ _).aside
    exact (aside_mirror s _).trans (crossAt_aside _ _ _)

theorem sendToPartner_aside (s : State) (dst mt : Nat) (word : BitVec 32) (res : Nat) (body : List (BitVec 128)) :
    Aside s (sendToPartner s dst mt word res body) := by
  unfold sendToPartner
  split
  · exact sendControl_aside _ _ _ _ _ _ _
  · split
    · exact sendControl_aside _ _ _ _ _ _ _
    · exact Aside.refl s

theorem postStatus_aside (s : State) (kind opc tag status cause src : Nat) (ws : List Nat) :
    Aside s (postStatus s kind opc tag status cause src ws) := by
  unfold postStatus
  generalize pack _ = fields
  have h : Aside s (postToPort (postToPort (s.updDev fun d => { d with recno := d.recno + 1 }) 0 1 fields) 1 1 fields) := by
    refine Aside.trans ?_ (postToPort_aside _ _ _ _)
    refine Aside.trans ?_ (postToPort_aside _ _ _ _)
    exact aside_dev s _ (fun d => ⟨rfl, rfl, rfl, rfl, rfl, rfl, rfl⟩)
  dsimp only
  split
  · exact h.trans (sendToPartner_aside _ _ _ _ _ _)
  · exact h

theorem postFaultRec_aside (s : State) (cls reason : Nat) (ds : List Nat) (cause : BitVec 32) (more halted chg : Bool) :
    Aside s (postFaultRec s cls reason ds cause more halted chg) := by
  unfold postFaultRec
  generalize pack _ = fields
  refine Aside.trans ?_ (postToPort_aside _ _ _ _)
  refine Aside.trans ?_ (postToPort_aside _ _ _ _)
  exact aside_dev s _ (fun d => ⟨rfl, rfl, rfl, rfl, rfl, rfl, rfl⟩)

theorem postFault_aside (s : State) (cls reason : Nat) (ds : List Nat) (cause : BitVec 32) :
    Aside s (postFault s cls reason ds cause) := postFaultRec_aside _ _ _ _ _ _ _ _

theorem postHalted_aside (s : State) (cause : BitVec 32) : Aside s (postHalted s cause) :=
  (postStatus_aside _ _ _ _ _ _ _ _).trans (sendMsixBoth_aside _ _)

theorem postChange_aside (s : State) (prev : DevState) (cause : BitVec 32) : Aside s (postChange s prev cause) :=
  (postStatus_aside _ _ _ _ _ _ _ _).trans (sendMsixBoth_aside _ _)

end Sys2Proof.Machine
end

