-- ==== Sys2Proof/Laws/Mem.lean ====
section
/-!
SUPPORT. Laws of byte memories: a byte read after a write, and that every operation keeps the canonical form.
-/
namespace Sys2Proof.Machine

/-! ## Reading after writing -/

theorem memGet_eq_zero_of_lt (m : List Host.Cell) (l a : Nat) (h : Memory.wfFrom (some l) m = true) (ha : a ≤ l) : memGet m a = 0 := by
  cases m with
  | nil => rfl
  | cons e rest =>
    obtain ⟨i, v⟩ := e
    simp only [Memory.wfFrom, Bool.and_eq_true, decide_eq_true_eq] at h
    have : a < i := by omega
    simp [memGet, this]

theorem memGet_memPut (m : List Host.Cell) (lo : Option Nat) (h : Memory.wfFrom lo m = true) (a j : Nat) (b : Byte) :
    memGet (memPut m a b) j = if a = j then b else memGet m j := by
  induction m generalizing lo with
  | nil =>
    simp only [memPut]
    by_cases hb : b = 0
    · simp [hb, memGet]
    · simp only [hb, ↓reduceIte, memGet]
      by_cases h1 : j < a
      · simp [h1]; omega
      · by_cases h2 : a = j <;> simp [h1, h2]
  | cons e rest ih =>
    obtain ⟨i, v⟩ := e
    have hr : Memory.wfFrom (some i) rest = true := by
      simp only [Memory.wfFrom, Bool.and_eq_true] at h; exact h.2
    simp only [memPut]
    split
    · next h1 =>
      by_cases hb : b = 0
      · simp only [hb, ↓reduceIte]
        by_cases h2 : a = j
        · subst h2; simp [memGet, h1]
        · simp [h2]
      · simp only [hb, ↓reduceIte]
        rw [memGet]
        by_cases h3 : j < a
        · have h4 : a ≠ j := by omega
          have h5 : j < i := by omega
          simp [h3, h4, memGet, h5]
        · by_cases h2 : a = j <;> simp [h3, h2]
    · next h1 =>
      split
      · next h2 =>
        subst h2
        by_cases hb : b = 0
        · simp only [hb, ↓reduceIte]
          by_cases h3 : i = j
          · subst h3; simp [memGet_eq_zero_of_lt rest i i hr (Nat.le_refl i)]
          · simp only [h3, ↓reduceIte, memGet]
            by_cases h4 : j < i
            · simp [h4, memGet_eq_zero_of_lt rest i j hr (by omega)]
            · simp [h4]
        · simp only [hb, ↓reduceIte, memGet]
          by_cases h4 : j < i
          · have : i ≠ j := by omega
            simp [h4, this]
          · by_cases h5 : i = j <;> simp [h4, h5]
      · next h2 =>
        simp only [memGet, ih _ hr]
        by_cases h4 : j < i
        · have : a ≠ j := by omega
          simp [h4, this]
        · simp only [h4, ↓reduceIte]
          by_cases h5 : i = j
          · have : a ≠ j := by omega
            simp [h5, this]
          · simp [h5]

/-- A byte after a write of a byte. -/
theorem memGet_put (m : List Host.Cell) (h : Memory.wf m = true) (a j : Nat) (b : Byte) :
    memGet (memPut m a b) j = if a = j then b else memGet m j := memGet_memPut m none h a j b

/-! ## The canonical form is kept -/

theorem wfFrom_memPut (m : List Host.Cell) (lo : Option Nat) (a : Nat) (b : Byte) (h : Memory.wfFrom lo m = true)
    (hl : ∀ l, lo = some l → l < a) : Memory.wfFrom lo (memPut m a b) = true := by
  induction m generalizing lo with
  | nil =>
    simp only [memPut]
    split
    · rfl
    · next hb =>
      have hb : b ≠ 0#8 := hb
      cases lo with
      | none => simp [Memory.wfFrom, hb]
      | some l => simp [Memory.wfFrom, hb, hl l rfl]
  | cons e rest ih =>
    obtain ⟨i, v⟩ := e
    have hr : Memory.wfFrom (some i) rest = true := by
      simp only [Memory.wfFrom, Bool.and_eq_true] at h; exact h.2
    have hv : v ≠ 0#8 := by
      simp only [Memory.wfFrom, Bool.and_eq_true, decide_eq_true_eq] at h; exact h.1.2
    simp only [memPut]
    split
    · next h1 =>
      split
      · exact h
      · next hb =>
        have hb : b ≠ 0#8 := hb
        cases lo with
        | none => simp [Memory.wfFrom, hb, h1, hv, hr]
        | some l => simp [Memory.wfFrom, hb, h1, hv, hr, hl l rfl]
    · next h1 =>
      split
      · next h2 =>
        subst h2
        split
        · cases rest with
          | nil => rfl
          | cons e2 r2 =>
            obtain ⟨i2, v2⟩ := e2
            simp only [Memory.wfFrom, Bool.and_eq_true, decide_eq_true_eq] at hr
            cases lo with
            | none =>
              have hv2 : v2 ≠ 0#8 := hr.1.2
              simp [Memory.wfFrom, hv2, hr.2]
            | some l =>
              have hv2 : v2 ≠ 0#8 := hr.1.2
              have := hl l rfl
              have : l < i2 := by omega
              simp [Memory.wfFrom, hv2, hr.2, this]
        · next hb =>
          have hb : b ≠ 0#8 := hb
          cases lo with
          | none => simp [Memory.wfFrom, hb, hr]
          | some l => simp [Memory.wfFrom, hb, hr, hl l rfl]
      · next h2 =>
        have hi := ih (some i) hr (by intro l hl'; cases hl'; omega)
        cases lo with
        | none => simp [Memory.wfFrom, hv, hi]
        | some l =>
          simp only [Memory.wfFrom, Bool.and_eq_true, decide_eq_true_eq] at h
          simp [Memory.wfFrom, hv, hi, h.1.1]

theorem memPut_wf (m : List Host.Cell) (a : Nat) (b : Byte) (h : Memory.wf m = true) : Memory.wf (memPut m a b) = true :=
  wfFrom_memPut m none a b h (by simp)

theorem memWrite_wf (bs : List Byte) : ∀ (m : List Host.Cell) (a : Nat), Memory.wf m = true → Memory.wf (memWrite m a bs) = true := by
  induction bs with
  | nil => intro m a h; exact h
  | cons b bs ih => intro m a h; exact ih _ _ (memPut_wf m a b h)

theorem memWriteMasked_wf (bs : List Byte) : ∀ (m : List Host.Cell) (a mask : Nat), Memory.wf m = true →
    Memory.wf (memWriteMasked m a mask bs) = true := by
  induction bs with
  | nil => intro m a mask h; exact h
  | cons b bs ih =>
    intro m a mask h
    simp only [memWriteMasked]
    split
    · exact ih _ _ _ (memPut_wf m a b h)
    · exact ih _ _ _ h

theorem wfFrom_weaken (m : List Host.Cell) (l k : Nat) (h : Memory.wfFrom (some l) m = true) (hk : k ≤ l) :
    Memory.wfFrom (some k) m = true := by
  cases m with
  | nil => rfl
  | cons e rest =>
    obtain ⟨i, v⟩ := e
    simp only [Memory.wfFrom, Bool.and_eq_true, decide_eq_true_eq] at h ⊢
    exact ⟨⟨by omega, h.1.2⟩, h.2⟩

theorem wfFrom_filter (p : Host.Cell → Bool) (m : List Host.Cell) (lo : Option Nat) (h : Memory.wfFrom lo m = true) :
    Memory.wfFrom lo (m.filter p) = true := by
  induction m generalizing lo with
  | nil => rfl
  | cons e rest ih =>
    obtain ⟨i, v⟩ := e
    simp only [Memory.wfFrom, Bool.and_eq_true] at h
    have hr := ih (some i) h.2
    simp only [List.filter_cons]
    split
    · simp only [Memory.wfFrom, Bool.and_eq_true]; exact ⟨h.1, hr⟩
    · cases lo with
      | none =>
        cases hm : List.filter p rest with
        | nil => rfl
        | cons e2 r2 =>
          rw [hm] at hr
          obtain ⟨i2, v2⟩ := e2
          simp only [Memory.wfFrom, Bool.and_eq_true] at hr ⊢
          exact ⟨⟨trivial, hr.1.2⟩, hr.2⟩
      | some l =>
        have : l < i := by simpa using h.1.1
        exact wfFrom_weaken _ i l hr (by omega)

theorem memClear_wf (m : List Host.Cell) (a n : Nat) (h : Memory.wf m = true) : Memory.wf (memClear m a n) = true :=
  wfFrom_filter _ m none h

/-! ## Wider writes -/

theorem memGet_memWrite_outside (bs : List Byte) : ∀ (m : List Host.Cell) (a j : Nat), Memory.wf m = true →
    (j < a ∨ a + bs.length ≤ j) → memGet (memWrite m a bs) j = memGet m j := by
  induction bs with
  | nil => intro m a j _ _; rfl
  | cons b bs ih =>
    intro m a j h hj
    simp only [List.length_cons] at hj
    simp only [memWrite]
    rw [ih _ _ _ (memPut_wf m a b h) (by omega), memGet_put m h]
    have : a ≠ j := by omega
    simp [this]

theorem memGet_memWrite_inside (bs : List Byte) : ∀ (m : List Host.Cell) (a k : Nat), Memory.wf m = true →
    k < bs.length → memGet (memWrite m a bs) (a + k) = bs.getD k 0 := by
  induction bs with
  | nil => intro m a k _ hk; simp at hk
  | cons b bs ih =>
    intro m a k h hk
    simp only [memWrite]
    cases k with
    | zero =>
      rw [memGet_memWrite_outside _ _ _ _ (memPut_wf m a b h) (by omega), memGet_put m h]
      simp
    | succ k =>
      have := ih (memPut m a b) (a + 1) k (memPut_wf m a b h) (by simpa using hk)
      rw [show a + (k + 1) = a + 1 + k by omega, this]
      simp

theorem memRead_length (m : List Host.Cell) : ∀ (n a : Nat), (memRead m a n).length = n := by
  intro n
  induction n with
  | zero => intro a; rfl
  | succ n ih => intro a; simp [memRead, ih]

/-- Bytes read back after they were written. -/
theorem memRead_memWrite (bs : List Byte) : ∀ (m : List Host.Cell) (a : Nat), Memory.wf m = true →
    memRead (memWrite m a bs) a bs.length = bs := by
  induction bs with
  | nil => intro m a _; rfl
  | cons b bs ih =>
    intro m a h
    simp only [List.length_cons, memWrite, memRead]
    rw [ih _ _ (memPut_wf m a b h), memGet_memWrite_outside _ _ _ _ (memPut_wf m a b h) (by omega), memGet_put m h]
    simp

theorem memRead_memWrite_outside (bs : List Byte) (m : List Host.Cell) (a : Nat) (h : Memory.wf m = true) :
    ∀ (n j : Nat), (j + n ≤ a ∨ a + bs.length ≤ j) → memRead (memWrite m a bs) j n = memRead m j n := by
  intro n
  induction n with
  | zero => intro j _; rfl
  | succ n ih =>
    intro j hj
    simp only [memRead]
    rw [ih (j + 1) (by omega), memGet_memWrite_outside bs m a j h (by omega)]

theorem memGet_memWriteMasked_outside (bs : List Byte) : ∀ (m : List Host.Cell) (a mask j : Nat), Memory.wf m = true →
    (j < a ∨ a + bs.length ≤ j) → memGet (memWriteMasked m a mask bs) j = memGet m j := by
  induction bs with
  | nil => intro m a mask j _ _; rfl
  | cons b bs ih =>
    intro m a mask j h hj
    simp only [List.length_cons] at hj
    simp only [memWriteMasked]
    have hne : a ≠ j := by omega
    split
    · rw [ih _ _ _ _ (memPut_wf m a b h) (by omega), memGet_put m h]; simp [hne]
    · rw [ih _ _ _ _ h (by omega)]

theorem memGet_filter (p : Host.Cell → Bool) (j : Nat) : ∀ (m : List Host.Cell) (lo : Option Nat), Memory.wfFrom lo m = true →
    (∀ b, p (j, b) = true) → memGet (m.filter p) j = memGet m j := by
  intro m
  induction m with
  | nil => intro _ _ _; rfl
  | cons e rest ih =>
    obtain ⟨i, v⟩ := e
    intro lo h hp
    have hr : Memory.wfFrom (some i) rest = true := by
      simp only [Memory.wfFrom, Bool.and_eq_true] at h; exact h.2
    simp only [List.filter_cons]
    split
    · simp only [memGet, ih _ hr hp]
    · next hpi =>
      have hij : i ≠ j := by intro hc; subst hc; exact hpi (hp v)
      simp only [memGet, hij, ↓reduceIte]
      split
      · next hlt => rw [ih _ hr hp]; exact memGet_eq_zero_of_lt rest i j hr (by omega)
      · exact ih _ hr hp

theorem memGet_memClear_outside (m : List Host.Cell) (a n j : Nat) (h : Memory.wf m = true) (hj : j < a ∨ a + n ≤ j) :
    memGet (memClear m a n) j = memGet m j := by
  apply memGet_filter _ j m none h
  intro b
  simp
  omega

theorem memGet_filter_out (p : Host.Cell → Bool) (j : Nat) : ∀ (m : List Host.Cell),
    (∀ b, p (j, b) = false) → memGet (m.filter p) j = 0 := by
  intro m
  induction m with
  | nil => intro _; rfl
  | cons e rest ih =>
    obtain ⟨i, v⟩ := e
    intro hp
    simp only [List.filter_cons]
    split
    · next hpi =>
      have hij : i ≠ j := by intro hc; subst hc; simp [hp v] at hpi
      simp only [memGet, hij, ↓reduceIte, ih hp, ite_self]
    · exact ih hp

theorem memGet_memClear_inside (m : List Host.Cell) (a n j : Nat) (hj : a ≤ j ∧ j < a + n) : memGet (memClear m a n) j = 0 := by
  apply memGet_filter_out _ j m
  intro b
  simp
  omega

@[simp] theorem wf_nil : Memory.wf [] = true := rfl

end Sys2Proof.Machine
end

