-- ==== Sys2Proof/Laws/Scratch.lean ====
section
/-!
SUPPORT. Laws of scratch: a byte read after a write, the bytes of a word and of a line, the canonical form kept (R128, R167).
-/
namespace Sys2Proof.Machine

/-! ## Bytes of words -/

theorem bytesOf_length : ∀ (n v : Nat), (bytesOf n v).length = n := by
  intro n
  induction n with
  | zero => intro v; rfl
  | succ n ih => intro v; simp [bytesOf, ih]

theorem bytesOf_get : ∀ (n v i : Nat) (h : i < (bytesOf n v).length), (bytesOf n v)[i] = BitVec.ofNat 8 (v / 256 ^ i) := by
  intro n
  induction n with
  | zero => intro v i h; simp [bytesOf] at h
  | succ n ih =>
    intro v i h
    cases i with
    | zero => simp [bytesOf]
    | succ i =>
      simp only [bytesOf, List.getElem_cons_succ]
      rw [ih]
      rw [Nat.div_div_eq_div_mul, Nat.pow_succ, Nat.mul_comm 256]

theorem ofBytes_div : ∀ (bs : List Byte) (i : Nat) (h : i < bs.length), BitVec.ofNat 8 (ofBytes bs / 256 ^ i) = bs[i] := by
  intro bs
  induction bs with
  | nil => intro i h; simp at h
  | cons b bs ih =>
    intro i h
    cases i with
    | zero =>
      simp only [ofBytes, Nat.pow_zero, Nat.div_one, List.getElem_cons_zero]
      apply BitVec.eq_of_toNat_eq
      simp only [BitVec.toNat_ofNat]
      have := b.isLt
      omega
    | succ i =>
      have hb := b.isLt
      simp only [ofBytes, List.getElem_cons_succ]
      rw [Nat.pow_succ, Nat.mul_comm (256 ^ i), ← Nat.div_div_eq_div_mul]
      rw [show (b.toNat + 256 * ofBytes bs) / 256 = ofBytes bs by omega]
      exact ih i (by simpa using h)

theorem ofBytes_lt : ∀ bs : List Byte, ofBytes bs < 256 ^ bs.length := by
  intro bs
  induction bs with
  | nil => simp [ofBytes]
  | cons b bs ih =>
    have hb := b.isLt
    simp only [ofBytes, List.length_cons, Nat.pow_succ]
    omega

/-- Bit i of the mask of k bytes from o. -/
theorem maskOf_testBit (o k i : Nat) (h : o + k ≤ 64) : (maskOf o k).toNat.testBit i = (decide (o ≤ i) && decide (i < o + k)) := by
  have h1 : (2 ^ k - 1) * 2 ^ o < 2 ^ 64 := by
    have : (2 ^ k - 1) * 2 ^ o < 2 ^ k * 2 ^ o := by
      apply Nat.mul_lt_mul_of_pos_right
      · have := Nat.two_pow_pos k; omega
      · exact Nat.two_pow_pos o
    rw [← Nat.pow_add] at this
    exact Nat.lt_of_lt_of_le this (Nat.pow_le_pow_right (by omega) (by omega))
  simp only [maskOf, BitVec.toNat_ofNat, Nat.mod_eq_of_lt h1, Nat.testBit_mul_two_pow, Nat.testBit_two_pow_sub_one]
  by_cases ho : o ≤ i
  · simp only [ho, decide_true, Bool.true_and]
    congr 1
    apply propext
    omega
  · simp [ho]

/-! ## Masked writes -/

/-- A byte inside the reach of a masked write. -/
theorem memGet_memWriteMasked_inside (bs : List Byte) : ∀ (m : List Host.Cell) (a mask k : Nat), Memory.wf m = true →
    (h : k < bs.length) → memGet (memWriteMasked m a mask bs) (a + k) = if mask.testBit k then bs[k] else memGet m (a + k) := by
  induction bs with
  | nil => intro m a mask k _ h; simp at h
  | cons b bs ih =>
    intro m a mask k hm h
    have hm' : Memory.wf (if mask % 2 = 1 then memPut m a b else m) = true := by
      split
      · exact memPut_wf m a b hm
      · exact hm
    simp only [memWriteMasked]
    cases k with
    | zero =>
      rw [memGet_memWriteMasked_outside _ _ _ _ _ hm' (by omega)]
      simp only [Nat.add_zero, Nat.testBit_zero, decide_eq_true_eq, List.getElem_cons_zero]
      split
      · rw [memGet_put m hm]; simp
      · rfl
    | succ k =>
      have := ih (if mask % 2 = 1 then memPut m a b else m) (a + 1) (mask / 2) k hm' (by simpa using h)
      rw [show a + (k + 1) = a + 1 + k by omega, this]
      simp only [Nat.testBit_succ, List.getElem_cons_succ]
      split
      · rfl
      · split
        · rw [memGet_put m hm, if_neg (by omega)]
        · rfl

/-! ## Lists of lines -/

theorem contains_insertNat (k j : Nat) : ∀ l : List Nat, (insertNat k l).contains j = (decide (k = j) || l.contains j) := by
  intro l
  induction l with
  | nil => simp [insertNat, eq_comm]
  | cons x xs ih =>
    simp only [insertNat]
    split
    · simp [eq_comm]
    · split
      · next h => subst h; simp only [List.contains_cons]; by_cases h : k = j <;> simp [h]
      · simp only [List.contains_cons, ih]
        cases (j == x) <;> simp

/-! ## Scratch bytes -/

/-- The byte of scratch at an offset, 0 in a line not valid. -/
def State.scrAt (s : State) (c j : Nat) : Byte := scrByte s.scratch (s.core c).valid c j

/-- One line written (R167): its masked bytes change, bytes beside them in an invalid line read as zero as before. -/
theorem scrWriteLine_at (s : State) (c line : Nat) (mask : BitVec 64) (d : Line) (p : Bool) (hw : Memory.wf s.scratch = true)
    (hl : line < 131072) (j : Nat) :
    (scrWriteLine s c line mask d p).scrAt c j =
      if j % 2 ^ 23 / 64 = line ∧ mask.toNat.testBit (j % 64) = true then BitVec.ofNat 8 (d.toNat / 256 ^ (j % 64))
      else s.scrAt c j := by
  unfold scrWriteLine
  split
  · next h0 =>
    rw [if_neg]
    rw [h0]; simp
  · next h0 =>
    simp only [State.scrAt, scrByte]
    have hwc : Memory.wf (if (s.core c).valid.contains line then s.scratch else memClear s.scratch (scrKey c (64 * line)) 64) = true := by
      split
      · exact hw
      · exact memClear_wf _ _ _ hw
    have hk : (State.setCore { s with scratch := (memWriteMasked (if (s.core c).valid.contains line then s.scratch else memClear s.scratch (scrKey c (64 * line)) 64) (scrKey c (64 * line)) mask.toNat (bytesOf 64 d.toNat)) } c
      { s.core c with valid := insertNat line (s.core c).valid, poison := if p then insertNat line (s.core c).poison else if mask = fullMask then dropNat line (s.core c).poison else (s.core c).poison }).core c
      = { s.core c with valid := insertNat line (s.core c).valid, poison := if p then insertNat line (s.core c).poison else if mask = fullMask then dropNat line (s.core c).poison else (s.core c).poison } := State.setCore_core _ _ _
    rw [hk]
    simp only [contains_insertNat, State.setCore_scratch]
    have hline : scrKey c (64 * line) = 2 ^ 23 * c + 64 * line := by simp only [scrKey]; omega
    by_cases hj : j % 2 ^ 23 / 64 = line
    · have hkey : scrKey c j = scrKey c (64 * line) + j % 64 := by rw [hline]; simp only [scrKey]; omega
      simp only [hj, decide_true, Bool.true_or, if_true, true_and]
      rw [hkey, memGet_memWriteMasked_inside _ _ _ _ _ hwc (by rw [bytesOf_length]; omega), bytesOf_get]
      by_cases hb : mask.toNat.testBit (j % 64) = true
      · rw [if_pos hb, if_pos hb]
      · rw [if_neg hb, if_neg hb]
        by_cases hv : (s.core c).valid.contains line = true
        · simp only [hv, if_true]
        · simp only [hv]
          exact memGet_memClear_inside _ _ _ _ ⟨by omega, by omega⟩
    · have hne : ¬ line = j % 2 ^ 23 / 64 := fun h => hj h.symm
      simp only [hj, hne, decide_false, Bool.false_or, false_and, if_false]
      split
      · rw [memGet_memWriteMasked_outside _ _ _ _ _ hwc]
        · split
          · rfl
          · apply memGet_memClear_outside _ _ _ _ hw
            rw [hline]; simp only [scrKey]; omega
        · rw [bytesOf_length, hline]; simp only [scrKey]; omega
      · rfl

theorem scrWriteLine_wf (s : State) (c line : Nat) (mask : BitVec 64) (d : Line) (p : Bool) (hw : Memory.wf s.scratch = true) :
    Memory.wf (scrWriteLine s c line mask d p).scratch = true := by
  unfold scrWriteLine
  split
  · exact hw
  · apply memWriteMasked_wf
    split
    · exact hw
    · exact memClear_wf _ _ _ hw

/-- A byte that a line write does not reach, of any core. -/
theorem scrWriteLine_other (s : State) (c line : Nat) (mask : BitVec 64) (d : Line) (p : Bool) (hw : Memory.wf s.scratch = true)
    (hl : line < 131072) (e j : Nat) (he : c ≠ e) : (scrWriteLine s c line mask d p).scrAt e j = s.scrAt e j := by
  unfold scrWriteLine
  split
  · rfl
  · have hwc : Memory.wf (if (s.core c).valid.contains line then s.scratch else memClear s.scratch (scrKey c (64 * line)) 64) = true := by
      split
      · exact hw
      · exact memClear_wf _ _ _ hw
    have hout : scrKey e j < scrKey c (64 * line) ∨ scrKey c (64 * line) + 64 ≤ scrKey e j := by
      simp only [scrKey]
      omega
    simp only [State.scrAt, scrByte]
    rw [State.setCore_core_ne _ _ he]
    have e1 : (State.core { s with scratch := (memWriteMasked (if (s.core c).valid.contains line then s.scratch else memClear s.scratch (scrKey c (64 * line)) 64) (scrKey c (64 * line)) mask.toNat (bytesOf 64 d.toNat)) } e) = s.core e := rfl
    rw [e1]
    split
    · show memGet (memWriteMasked _ _ _ _) _ = _
      rw [memGet_memWriteMasked_outside _ _ _ _ _ hwc (by rw [bytesOf_length]; exact hout)]
      split
      · rfl
      · exact memGet_memClear_outside _ _ _ _ hw hout
    · rfl

/-! ## A run of bytes -/

/-- Byte b of a number cut to a line. -/
theorem byte_of_line (y b : Nat) (hb : b < 64) : BitVec.ofNat 8 (y % 2 ^ 512 / 256 ^ b) = BitVec.ofNat 8 (y / 256 ^ b) := by
  have e : (2 : Nat) ^ 512 = 256 ^ b * 256 ^ (64 - b) := by
    rw [← Nat.pow_add, show b + (64 - b) = 64 by omega, show (256 : Nat) = 2 ^ 8 from rfl, ← Nat.pow_mul]
  rw [e, Nat.mod_mul_right_div_self]
  apply BitVec.eq_of_toNat_eq
  simp only [BitVec.toNat_ofNat]
  apply Nat.mod_mod_of_dvd
  refine ⟨256 ^ (63 - b), ?_⟩
  rw [show (2 : Nat) ^ 8 = 256 from rfl, ← Nat.pow_succ', show (63 - b).succ = 64 - b by omega]

/-- Byte b of a line of bytes. -/
theorem lineOf_byte (bs : List Byte) (b : Nat) (h : b < bs.length) (h64 : b < 64) :
    BitVec.ofNat 8 ((lineOf bs).toNat / 256 ^ b) = bs[b] := by
  rw [lineOf, BitVec.toNat_ofNat, byte_of_line _ _ h64, ofBytes_div]

/-- Byte b of bytes moved up by k places. -/
theorem shifted_byte (bs : List Byte) (k b : Nat) (hk : k ≤ b) (h : b - k < bs.length) (h64 : b < 64) :
    BitVec.ofNat 8 ((BitVec.ofNat 512 (ofBytes bs * 2 ^ (8 * k))).toNat / 256 ^ b) = bs[b - k] := by
  rw [BitVec.toNat_ofNat, byte_of_line _ _ h64]
  have e : (256 : Nat) ^ b = 2 ^ (8 * k) * 256 ^ (b - k) := by
    rw [show (256 : Nat) = 2 ^ 8 from rfl, ← Nat.pow_mul, ← Nat.pow_mul, ← Nat.pow_add]
    congr 1
    omega
  rw [e, ← Nat.div_div_eq_div_mul, Nat.mul_div_cancel _ (Nat.two_pow_pos _), ofBytes_div]

/-- One line of `scrWrite`. -/
theorem scrWrite_line (s : State) (c off k : Nat) (bytes : List Byte) (hw : Memory.wf s.scratch = true)
    (hn : bytes.length ≤ 2 ^ 23) (j : Nat) (d : Byte) :
    let l := (off / 64 + k) * 64
    let m := maskOf (max off l - l) (min (off + bytes.length) (l + 64) - max off l)
    let x : Line := if l < off then BitVec.ofNat 512 (ofBytes (bytes.take (l + 64 - off)) * 2 ^ (8 * (off - l)))
      else lineOf ((bytes.drop (l - off)).take 64)
    l < off + bytes.length →
    (scrWriteLine s c (l / 64 % 131072) m x false).scrAt c j =
      if runPlace off j < bytes.length ∧ (off + runPlace off j) / 64 = off / 64 + k then bytes.getD (runPlace off j) d
      else s.scrAt c j := by
  intro l m x hlt
  have hl64 : l / 64 = off / 64 + k := by omega
  rw [scrWriteLine_at s c _ m x false hw (Nat.mod_lt _ (by omega)) j]
  have hmask : m.toNat.testBit (j % 64) = (decide (max off l - l ≤ j % 64) && decide (j % 64 < max off l - l + (min (off + bytes.length) (l + 64) - max off l))) :=
    maskOf_testBit _ _ _ (by omega)
  have hr : runPlace off j < 2 ^ 23 := Nat.mod_lt _ (by omega)
  have hrj : (off + runPlace off j) % 2 ^ 23 = j % 2 ^ 23 := by
    simp only [runPlace]
    omega
  rw [hmask]
  have hiff : (j % 2 ^ 23 / 64 = l / 64 % 131072 ∧ (decide (max off l - l ≤ j % 64) && decide (j % 64 < max off l - l + (min (off + bytes.length) (l + 64) - max off l))) = true) ↔
      (runPlace off j < bytes.length ∧ (off + runPlace off j) / 64 = off / 64 + k) := by
    rw [Bool.and_eq_true, decide_eq_true_eq, decide_eq_true_eq]
    generalize runPlace off j = r at *
    constructor
    · rintro ⟨h1, h2, h3⟩
      have h4 : off ≤ l + j % 64 := by omega
      have h5 : l + j % 64 < off + bytes.length := by omega
      have h6 : (l + j % 64) % 2 ^ 23 = j % 2 ^ 23 := by omega
      have h7 : l + j % 64 = off + r := by omega
      omega
    · rintro ⟨h1, h2⟩
      have h7 : off + r = l + j % 64 := by omega
      refine ⟨by omega, by omega, by omega⟩
  by_cases hh : (runPlace off j < bytes.length ∧ (off + runPlace off j) / 64 = off / 64 + k)
  · rw [if_pos hh, if_pos (hiff.mpr hh)]
    have h7 : off + runPlace off j = l + j % 64 := by omega
    have hlen := hh.1
    simp only [x]
    split
    · next hlo =>
      rw [shifted_byte _ _ _ (by omega) (by rw [List.length_take]; omega) (by omega)]
      rw [List.getElem_take, List.getD_eq_getElem?_getD, List.getElem?_eq_getElem hlen]
      simp only [Option.getD_some]
      congr 1
      omega
    · next hlo =>
      rw [lineOf_byte _ _ (by rw [List.length_take, List.length_drop]; omega) (by omega)]
      rw [List.getElem_take, List.getElem_drop, List.getD_eq_getElem?_getD, List.getElem?_eq_getElem hlen]
      simp only [Option.getD_some]
      congr 1
      omega
  · rw [if_neg hh, if_neg (fun h => hh (hiff.mp h))]

/-- The first k lines of `scrWrite`. -/
theorem scrWrite_lines (c off : Nat) (bytes : List Byte) (hn : bytes.length ≤ 2 ^ 23) (d : Byte) (n : Nat) :
    ∀ (k : Nat) (s : State), Memory.wf s.scratch = true → (off / 64 + k + n) * 64 < off + bytes.length + 64 →
      let g := fun i =>
        let l := (off / 64 + i) * 64
        (l, maskOf (max off l - l) (min (off + bytes.length) (l + 64) - max off l))
      let f := fun (s : State) (e : Nat × BitVec 64) =>
        let x : Line := if e.1 < off then BitVec.ofNat 512 (ofBytes (bytes.take (e.1 + 64 - off)) * 2 ^ (8 * (off - e.1)))
          else lineOf ((bytes.drop (e.1 - off)).take 64)
        scrWriteLine s c (e.1 / 64 % 131072) e.2 x false
      Memory.wf (forEach ((List.range' k n).map g) s f).scratch = true ∧
      (∀ j, (forEach ((List.range' k n).map g) s f).scrAt c j =
        if runPlace off j < bytes.length ∧ off / 64 + k ≤ (off + runPlace off j) / 64 ∧ (off + runPlace off j) / 64 < off / 64 + k + n
        then bytes.getD (runPlace off j) d else s.scrAt c j) ∧
      (∀ e j, c ≠ e → (forEach ((List.range' k n).map g) s f).scrAt e j = s.scrAt e j) := by
  induction n with
  | zero =>
    intro k s hw _ g f
    refine ⟨hw, fun j => ?_, fun e j _ => rfl⟩
    rw [if_neg (by omega)]
    rfl
  | succ n ih =>
    intro k s hw hk g f
    have hlt : (off / 64 + k) * 64 < off + bytes.length := by omega
    have h1 := ih (k + 1) (f s (g k)) (scrWriteLine_wf _ _ _ _ _ _ hw) (by omega)
    have h2 := fun j => scrWrite_line s c off k bytes hw hn j d hlt
    have e1 : forEach ((List.range' k (n + 1)).map g) s f = forEach ((List.range' (k + 1) n).map g) (f s (g k)) f := by
      rw [List.range'_succ, List.map_cons, forEach_cons]
    rw [e1]
    refine ⟨h1.1, fun j => ?_, fun e j he => ?_⟩
    · rw [h1.2.1 j]
      have e2 : (f s (g k)).scrAt c j = if runPlace off j < bytes.length ∧ (off + runPlace off j) / 64 = off / 64 + k
        then bytes.getD (runPlace off j) d else s.scrAt c j := h2 j
      rw [e2]
      by_cases ha : runPlace off j < bytes.length ∧ (off + runPlace off j) / 64 = off / 64 + k
      · rw [if_pos ha]
        split
        · next hb => omega
        · rw [if_pos (by omega)]
      · rw [if_neg ha]
        by_cases hb : runPlace off j < bytes.length ∧ off / 64 + (k + 1) ≤ (off + runPlace off j) / 64 ∧ (off + runPlace off j) / 64 < off / 64 + (k + 1) + n
        · rw [if_pos hb, if_pos (by omega)]
        · rw [if_neg hb, if_neg (by omega)]
    · rw [h1.2.2 e j he]
      exact scrWriteLine_other s c _ _ _ _ hw (Nat.mod_lt _ (by omega)) e j he

/-- Bytes written into scratch (R128, R167): the run reads as written, modulo 8 MiB, every other byte of every core as before;
the form is kept. -/
theorem scrWrite_at (s : State) (c off : Nat) (bytes : List Byte) (hw : Memory.wf s.scratch = true)
    (hn : bytes.length ≤ 2 ^ 23) (d : Byte) :
    Memory.wf (scrWrite s c off bytes).scratch = true ∧
    (∀ j, (scrWrite s c off bytes).scrAt c j =
      if runPlace off j < bytes.length then bytes.getD (runPlace off j) d else s.scrAt c j) ∧
    (∀ e j, c ≠ e → (scrWrite s c off bytes).scrAt e j = s.scrAt e j) := by
  unfold scrWrite rangeLines
  by_cases h0 : bytes.length = 0
  · rw [if_pos h0]
    refine ⟨hw, fun j => ?_, fun e j _ => rfl⟩
    rw [if_neg (by omega)]
    rfl
  · rw [if_neg h0, List.range_eq_range']
    have h := scrWrite_lines c off bytes hn d ((off + bytes.length - 1) / 64 - off / 64 + 1) 0 s hw (by omega)
    refine ⟨h.1, fun j => ?_, h.2.2⟩
    refine (h.2.1 j).trans ?_
    by_cases hp : runPlace off j < bytes.length
    · rw [if_pos hp, if_pos (by omega)]
    · rw [if_neg hp, if_neg (by omega)]

/-! ## What a scratch write leaves -/

/-- What writing scratch of core c keeps: everything but the bytes, the core's valid bits and its poison bits. -/
structure ScrKept (c : Nat) (s t : State) : Prop where
  all : t = { s with scratch := t.scratch, cores := t.cores }
  core : t.core c = { s.core c with valid := (t.core c).valid, poison := (t.core c).poison }
  other : ∀ d, c ≠ d → t.core d = s.core d

theorem ScrKept.refl (c : Nat) (s : State) : ScrKept c s s := ⟨rfl, rfl, fun _ _ => rfl⟩

theorem ScrKept.trans {c : Nat} {s t u : State} (a : ScrKept c s t) (b : ScrKept c t u) : ScrKept c s u :=
  ⟨by rw [b.all, a.all], by rw [b.core, a.core], fun d hd => (b.other d hd).trans (a.other d hd)⟩

theorem scrWriteLine_kept (s : State) (c line : Nat) (mask : BitVec 64) (d : Line) (p : Bool) :
    ScrKept c s (scrWriteLine s c line mask d p) := by
  unfold scrWriteLine
  split
  · exact ScrKept.refl c s
  · refine ⟨rfl, ?_, fun e he => ?_⟩
    · rw [State.setCore_core]
    · rw [State.setCore_core_ne _ _ he]; rfl

theorem scrWrite_kept (s : State) (c off : Nat) (bytes : List Byte) : ScrKept c s (scrWrite s c off bytes) := by
  unfold scrWrite
  exact forEach_keeps (ScrKept c s) _ _ (fun t a ht => ht.trans (scrWriteLine_kept t c _ _ _ _)) s (ScrKept.refl c s)

/-- A byte of scratch depends on the stored bytes and the core's valid bits alone. -/
theorem scrAt_congr {s t : State} {c : Nat} (h1 : t.scratch = s.scratch) (h2 : (t.core c).valid = (s.core c).valid) (j : Nat) :
    t.scrAt c j = s.scrAt c j := by
  unfold State.scrAt
  rw [h1, h2]

/-- Bytes read one by one. -/
theorem scrBytes_eq (s : State) (c off n : Nat) (bs : List Byte) (hn : bs.length = n) (d : Byte)
    (h : ∀ i, i < n → s.scrAt c (off + i) = bs.getD i d) : s.scrBytes c off n = bs := by
  apply List.ext_getElem
  · simp [State.scrBytes, hn]
  · intro i h1 h2
    simp only [State.scrBytes, List.getElem_map, List.getElem_range]
    have := h i (by omega)
    unfold State.scrAt at this
    rw [this, List.getD_eq_getElem?_getD, List.getElem?_eq_getElem h2, Option.getD_some]

theorem runPlace_self (off i : Nat) (h : i < 2 ^ 23) : runPlace off (off + i) = i := by
  simp only [runPlace]
  omega

/-- Bytes just written read back (R167). -/
theorem scrBytes_scrWrite (s : State) (c off : Nat) (bytes : List Byte) (hw : Memory.wf s.scratch = true)
    (hn : bytes.length < 2 ^ 23) : (scrWrite s c off bytes).scrBytes c off bytes.length = bytes := by
  apply scrBytes_eq _ _ _ _ _ rfl 0
  intro i hi
  rw [(scrWrite_at s c off bytes hw (Nat.le_of_lt hn) 0).2.1, runPlace_self _ _ (by omega), if_pos hi]

end Sys2Proof.Machine
end

