-- ==== Sys2Proof/Laws/Engines.lean ====
section
/-!
SUPPORT. What a completing engine command moves: its signal, held commands into queues with room, a FENCE that is over.
-/
namespace Sys2Proof.Machine

theorem Core.Moved.refl (k : Core) : Core.Moved k k := rfl

theorem Core.Moved.trans {k l m : Core} (a : Core.Moved k l) (b : Core.Moved l m) : Core.Moved k m := by
  unfold Core.Moved at *
  rw [b, a]

theorem setQueue_moved (k : Core) (e : Nat) (q : List QCmd) : Core.Moved k (k.setQueue e q) := by
  unfold Core.setQueue
  split <;> rfl

theorem dispatch_moved (k : Core) (e : Nat) (q : QCmd) : Core.Moved k (k.dispatch e q) := by
  unfold Core.dispatch
  split
  · exact setQueue_moved _ _ _
  · rfl

/-- Engines 4 and up are the check-value unit. -/
theorem queue_setQueue (k : Core) (e : Nat) (q : List QCmd) : (k.setQueue e q).queue e = q := by
  unfold Core.setQueue
  split <;> simp only [Core.queue]

theorem queue_setQueue_ne (k : Core) {e f : Nat} (q : List QCmd) (he : e ≤ 4) (hf : f ≤ 4) (h : e ≠ f) :
    (k.setQueue e q).queue f = k.queue f := by
  match e, f with
  | 0, 0 => exact absurd rfl h
  | 0, 1 => rfl
  | 0, 2 => rfl
  | 0, 3 => rfl
  | 0, _ + 4 => rfl
  | 1, 0 => rfl
  | 1, 1 => exact absurd rfl h
  | 1, 2 => rfl
  | 1, 3 => rfl
  | 1, _ + 4 => rfl
  | 2, 0 => rfl
  | 2, 1 => rfl
  | 2, 2 => exact absurd rfl h
  | 2, 3 => rfl
  | 2, _ + 4 => rfl
  | 3, 0 => rfl
  | 3, 1 => rfl
  | 3, 2 => rfl
  | 3, 3 => exact absurd rfl h
  | 3, _ + 4 => rfl
  | _ + 4, 0 => rfl
  | _ + 4, 1 => rfl
  | _ + 4, 2 => rfl
  | _ + 4, 3 => rfl
  | a + 4, b + 4 => exact absurd (by omega) h

/-- A queue only grows by a dispatch. -/
theorem dispatch_queue (k : Core) (e f : Nat) (q : QCmd) : ∃ l, (k.dispatch e q).queue f = k.queue f ++ l := by
  unfold Core.dispatch
  split
  · match e, f with
    | 0, 0 => exact ⟨[q], rfl⟩
    | 0, 1 => exact ⟨[], by simp [Core.setQueue, Core.queue]⟩
    | 0, 2 => exact ⟨[], by simp [Core.setQueue, Core.queue]⟩
    | 0, 3 => exact ⟨[], by simp [Core.setQueue, Core.queue]⟩
    | 0, _ + 4 => exact ⟨[], by simp [Core.setQueue, Core.queue]⟩
    | 1, 0 => exact ⟨[], by simp [Core.setQueue, Core.queue]⟩
    | 1, 1 => exact ⟨[q], rfl⟩
    | 1, 2 => exact ⟨[], by simp [Core.setQueue, Core.queue]⟩
    | 1, 3 => exact ⟨[], by simp [Core.setQueue, Core.queue]⟩
    | 1, _ + 4 => exact ⟨[], by simp [Core.setQueue, Core.queue]⟩
    | 2, 0 => exact ⟨[], by simp [Core.setQueue, Core.queue]⟩
    | 2, 1 => exact ⟨[], by simp [Core.setQueue, Core.queue]⟩
    | 2, 2 => exact ⟨[q], rfl⟩
    | 2, 3 => exact ⟨[], by simp [Core.setQueue, Core.queue]⟩
    | 2, _ + 4 => exact ⟨[], by simp [Core.setQueue, Core.queue]⟩
    | 3, 0 => exact ⟨[], by simp [Core.setQueue, Core.queue]⟩
    | 3, 1 => exact ⟨[], by simp [Core.setQueue, Core.queue]⟩
    | 3, 2 => exact ⟨[], by simp [Core.setQueue, Core.queue]⟩
    | 3, 3 => exact ⟨[q], rfl⟩
    | 3, _ + 4 => exact ⟨[], by simp [Core.setQueue, Core.queue]⟩
    | _ + 4, 0 => exact ⟨[], by simp [Core.setQueue, Core.queue]⟩
    | _ + 4, 1 => exact ⟨[], by simp [Core.setQueue, Core.queue]⟩
    | _ + 4, 2 => exact ⟨[], by simp [Core.setQueue, Core.queue]⟩
    | _ + 4, 3 => exact ⟨[], by simp [Core.setQueue, Core.queue]⟩
    | _ + 4, _ + 4 => exact ⟨[q], rfl⟩
  · exact ⟨[], by unfold Core.queue; split <;> simp⟩

theorem dispatch_signals (k : Core) (e : Nat) (q : QCmd) : (k.dispatch e q).seq.signals = k.seq.signals := by
  unfold Core.dispatch
  split
  · unfold Core.setQueue; split <;> rfl
  · rfl

theorem foldDispatch (l : List Held) : ∀ k : Core,
    let k' := l.foldl (fun k h => k.dispatch h.eng h.cmd) k
    Core.Moved k k' ∧ k'.seq.signals = k.seq.signals ∧ ∀ f, ∃ m, k'.queue f = k.queue f ++ m := by
  induction l with
  | nil => intro k; exact ⟨rfl, rfl, fun f => ⟨[], by simp⟩⟩
  | cons h l ih =>
    intro k
    have := ih (k.dispatch h.eng h.cmd)
    refine ⟨(dispatch_moved _ _ _).trans this.1, this.2.1.trans (dispatch_signals _ _ _), fun f => ?_⟩
    obtain ⟨m, hm⟩ := this.2.2 f
    obtain ⟨n, hn⟩ := dispatch_queue k h.eng f h.cmd
    exact ⟨n ++ m, by rw [List.foldl_cons, hm, hn, List.append_assoc]⟩

theorem refill_moved (k : Core) : Core.Moved k k.refill ∧ k.refill.seq.signals = k.seq.signals ∧
    ∀ f, ∃ m, k.refill.queue f = k.queue f ++ m := by
  have h := foldDispatch k.seq.hold { k with seq := { k.seq with hold := [] } }
  refine ⟨Core.Moved.trans ?_ h.1, h.2.1, fun f => ?_⟩
  · rfl
  · obtain ⟨m, hm⟩ := h.2.2 f
    refine ⟨m, hm.trans ?_⟩
    congr 1

theorem endFence_moved (k : Core) : Core.Moved k k.endFence ∧ k.endFence.seq.signals = k.seq.signals ∧
    ∀ f, k.endFence.queue f = k.queue f := by
  unfold Core.endFence
  split
  · split
    · exact ⟨rfl, rfl, fun _ => rfl⟩
    · exact ⟨rfl, rfl, fun f => by unfold Core.queue; split <;> rfl⟩
  · exact ⟨rfl, rfl, fun _ => rfl⟩

/-- A command completes (R72): its signal becomes visible, queues only grow, nothing else moves. -/
theorem complete_spec (s : State) (c : Nat) (w : EngCmd) :
    Core.Moved (s.core c) ((complete s c w).core c) ∧
    ((complete s c w).core c).seq.signals = (s.core c).seq.signals ++ signalOf w ∧
    (∀ f, ∃ l, ((complete s c w).core c).queue f = (s.core c).queue f ++ l) ∧
    (∀ d, d ≠ c → (complete s c w).core d = s.core d) ∧ complete s c w = { s with cores := (complete s c w).cores } := by
  unfold complete
  rw [State.updCore_core]
  have key : ∀ k : Core, Core.Moved k k.refill.endFence ∧ k.refill.endFence.seq.signals = k.seq.signals ∧
      ∀ f, ∃ m, k.refill.endFence.queue f = k.queue f ++ m := by
    intro k
    have a := refill_moved k
    have b := endFence_moved k.refill
    exact ⟨a.1.trans b.1, b.2.1.trans a.2.1, fun f => by rw [b.2.2 f]; exact a.2.2 f⟩
  refine ⟨?_, ?_, ?_, ?_, rfl⟩
  · dsimp only
    split
    · refine Core.Moved.trans ?_ (key _).1
      rfl
    · exact (key _).1
  · dsimp only
    unfold signalOf
    split
    · rw [(key _).2.1]
    · rw [(key _).2.1, List.append_nil]
  · intro f
    dsimp only
    split
    · obtain ⟨m, hm⟩ := (key { s.core c with seq := { (s.core c).seq with signals := (s.core c).seq.signals ++ [(sigSem w, 1, false)] } }).2.2 f
      exact ⟨m, hm.trans (by congr 1)⟩
    · exact (key _).2.2 f
  · intro d hd
    rw [State.updCore_core_ne _ _ (Ne.symm hd)]

/-- A command whose effect lies in its core alone leaves its queue and completes. -/
theorem completes_of (s : State) (c e : Nat) (w : EngCmd) (f : Core → Core)
    (hq : ∀ k, (f k).queue e = k.queue e) (hs : ∀ k, (f k).seq.signals = k.seq.signals)
    (hm : ∀ k q, Core.Moved (f k) (f (k.setQueue e q))) :
    Completes c e w s (complete ((popHead s c e).updCore c f) c w) (f (s.core c)) := by
  have h := complete_spec ((popHead s c e).updCore c f) c w
  have hk : ((popHead s c e).updCore c f).core c = f ((s.core c).setQueue e ((s.core c).queue e).tail) := by
    unfold popHead
    rw [State.updCore_core, State.updCore_core]
  rw [hk] at h
  refine ⟨(hm _ _).trans h.1, ?_, ?_, ?_, ?_⟩
  · rw [h.2.1, hs]
    congr 1
    unfold Core.setQueue
    split <;> rfl
  · obtain ⟨l, hl⟩ := h.2.2.1 e
    exact ⟨l, by rw [hl, hq, queue_setQueue]⟩
  · intro d hd
    rw [h.2.2.2.1 d hd, State.updCore_core_ne _ _ (Ne.symm hd)]
    unfold popHead
    rw [State.updCore_core_ne _ _ (Ne.symm hd)]
  · rw [h.2.2.2.2]
    rfl

end Sys2Proof.Machine
end

