-- ==== Sys2Proof/Laws/Matrix.lean ====
section
/-!
SUPPORT. Laws of the matrix engine's shared operations: tables of values, what an MMA makes of its bank, rows drained
into scratch.
-/
namespace Sys2Proof.Machine

/-- A list as a sparse table reads as the list. -/
theorem tget_valTab (l : List (BitVec 32)) : ∀ (k i : Nat),
    tget 0 (valTab k l) i = if k ≤ i then l.getD (i - k) 0 else 0 := by
  induction l with
  | nil => intro k i; simp [valTab]
  | cons v vs ih =>
    intro k i
    simp only [valTab]
    by_cases hv : v = 0
    · rw [if_pos hv, ih]
      by_cases h1 : k + 1 ≤ i
      · rw [if_pos h1, if_pos (by omega), show i - k = (i - (k + 1)) + 1 by omega, List.getD_cons_succ]
      · rw [if_neg h1]
        by_cases h2 : k ≤ i
        · rw [if_pos h2, show i - k = 0 by omega, List.getD_cons_zero, hv]
        · rw [if_neg h2]
    · rw [if_neg hv]
      simp only [tget]
      by_cases h0 : k = i
      · rw [if_pos h0, if_pos (by omega), show i - k = 0 by omega, List.getD_cons_zero]
      · rw [if_neg h0, ih]
        by_cases h1 : k + 1 ≤ i
        · rw [if_pos h1, if_pos (by omega), show i - k = (i - (k + 1)) + 1 by omega, List.getD_cons_succ]
        · rw [if_neg h1, if_neg (by omega)]

/-- One row of an MMA's elements. -/
theorem mma_row (g : Nat) (acc : Tab (BitVec 32)) (i : Nat) (a : List Val) (vb : List (List Val)) :
    ∀ (j0 : Nat) (st : Tab (BitVec 32) × Flags), j0 + vb.length ≤ 64 → ∀ (x y : Nat), y < 64 →
      tget 0 ((vb.zipIdx j0).foldl (fun (st : Tab (BitVec 32) × Flags) v =>
        let i' := 64 * i + v.2
        let z := accumulateAll g (tget 0 acc i') a v.1
        (tset 0 st.1 i' z.1, st.2 ||| z.2)) st).1 (64 * x + y) =
      if x = i ∧ j0 ≤ y ∧ y < j0 + vb.length then (accumulateAll g (tget 0 acc (64 * x + y)) a (vb.getD (y - j0) [])).1
      else tget 0 st.1 (64 * x + y) := by
  induction vb with
  | nil => intro j0 st _ x y _; simp only [List.zipIdx_nil, List.foldl_nil, List.length_nil]; rw [if_neg (by omega)]
  | cons v vs ih =>
    intro j0 st hl x y hy
    simp only [List.length_cons] at hl
    simp only [List.zipIdx_cons, List.foldl_cons, List.length_cons]
    rw [ih (j0 + 1) _ (by omega) x y hy]
    by_cases h1 : x = i ∧ j0 + 1 ≤ y ∧ y < j0 + 1 + vs.length
    · rw [if_pos h1, if_pos (by omega), show y - j0 = (y - (j0 + 1)) + 1 by omega, List.getD_cons_succ]
    · rw [if_neg h1, tget_tset]
      by_cases h2 : x = i ∧ y = j0
      · rw [if_pos (by omega), if_pos (by omega), show y - j0 = 0 by omega, List.getD_cons_zero, h2.1, h2.2]
      · rw [if_neg (by omega), if_neg (by omega)]

/-- All rows. -/
theorem mma_rows (g : Nat) (acc : Tab (BitVec 32)) (vb : List (List Val)) (hb : vb.length ≤ 64) (va : List (List Val)) :
    ∀ (i0 : Nat) (st : Tab (BitVec 32) × Flags) (x y : Nat), y < 64 →
      tget 0 ((va.zipIdx i0).foldl (fun st a => vb.zipIdx.foldl (fun (st : Tab (BitVec 32) × Flags) v =>
        let i' := 64 * a.2 + v.2
        let z := accumulateAll g (tget 0 acc i') a.1 v.1
        (tset 0 st.1 i' z.1, st.2 ||| z.2)) st) st).1 (64 * x + y) =
      if i0 ≤ x ∧ x < i0 + va.length ∧ y < vb.length
        then (accumulateAll g (tget 0 acc (64 * x + y)) (va.getD (x - i0) []) (vb.getD y [])).1
      else tget 0 st.1 (64 * x + y) := by
  induction va with
  | nil => intro i0 st x y _; simp only [List.zipIdx_nil, List.foldl_nil, List.length_nil]; rw [if_neg (by omega)]
  | cons a as ih =>
    intro i0 st x y hy
    simp only [List.zipIdx_cons, List.foldl_cons, List.length_cons]
    rw [ih (i0 + 1) _ x y hy]
    by_cases h1 : i0 + 1 ≤ x ∧ x < i0 + 1 + as.length ∧ y < vb.length
    · rw [if_pos h1, if_pos (by omega), show x - i0 = (x - (i0 + 1)) + 1 by omega, List.getD_cons_succ]
    · rw [if_neg h1, mma_row g acc i0 a vb 0 st (by omega) x y hy]
      by_cases h2 : x = i0 ∧ y < vb.length
      · rw [if_pos (by omega), if_pos (by omega), show x - i0 = 0 by omega, List.getD_cons_zero, Nat.sub_zero]
      · rw [if_neg (by omega), if_neg (by omega)]

/-- Rows written one after the other into scratch: a byte is that of the last row that reaches it (R78). -/
theorem scrWrite_rows (c : Nat) (row : Nat → Nat) (bs : Nat → List Byte) (len : Nat) (hlen : ∀ i, (bs i).length = len)
    (hl : len ≤ 2 ^ 23) (n : Nat) (s : State) (hw : Memory.wf s.scratch = true) :
    let t := forEach (List.range n) s fun s i => scrWrite s c (row i) (bs i)
    Memory.wf t.scratch = true ∧
    (∀ i j, i < n → runPlace (row i) j < len → (∀ i', i < i' → i' < n → len ≤ runPlace (row i') j) →
      t.scrAt c j = (bs i).getD (runPlace (row i) j) 0) ∧
    (∀ j, (∀ i, i < n → len ≤ runPlace (row i) j) → t.scrAt c j = s.scrAt c j) ∧
    (∀ d j, c ≠ d → t.scrAt d j = s.scrAt d j) ∧ ScrKept c s t := by
  induction n with
  | zero => exact ⟨hw, fun i j h => absurd h (by omega), fun j _ => rfl, fun d j _ => rfl, ScrKept.refl c s⟩
  | succ n ih =>
    have e : forEach (List.range (n + 1)) s (fun s i => scrWrite s c (row i) (bs i)) =
        scrWrite (forEach (List.range n) s fun s i => scrWrite s c (row i) (bs i)) c (row n) (bs n) := by
      simp only [forEach, List.range_succ, List.foldl_append, List.foldl_cons, List.foldl_nil]
    dsimp only at ih ⊢
    rw [e]
    generalize forEach (List.range n) s (fun s i => scrWrite s c (row i) (bs i)) = u at ih
    have h := scrWrite_at u c (row n) (bs n) ih.1 (by rw [hlen]; exact hl) 0
    refine ⟨h.1, fun i j hi hp hlast => ?_, fun j hj => ?_, fun d j hd => ?_, ih.2.2.2.2.trans (scrWrite_kept _ _ _ _)⟩
    · rw [h.2.1, hlen]
      by_cases hin : i = n
      · rw [hin] at hp ⊢; rw [if_pos hp]
      · have := hlast n (by omega) (by omega)
        rw [if_neg (by omega)]
        exact ih.2.1 i j (by omega) hp fun i' h1 h2 => hlast i' h1 (by omega)
    · rw [h.2.1, hlen, if_neg (by have := hj n (by omega); omega)]
      exact ih.2.2.1 j fun i hi => hj i (by omega)
    · rw [h.2.2 d j hd]
      exact ih.2.2.2.1 d j hd

end Sys2Proof.Machine
end

