-- ==== Sys2Proof/Laws/Sequencer.lean ====
section
/-!
SUPPORT. What decoding an instruction leaves alone: the sequencer's shared operations change their own core's sequencer,
and beside it only the lines asked for, answers under way, and, where the next word is poisoned, its records.
-/
namespace Sys2Proof.Machine

theorem Core.Same.refl (k : Core) : Core.Same k k := rfl

theorem Core.Same.trans {k l m : Core} (a : Core.Same k l) (b : Core.Same l m) : Core.Same k m := by
  unfold Core.Same at *
  rw [b, a]

/-- What fetching ahead and meeting poison keep. -/
structure Ahead (s t : State) : Prop where
  fuses : t.fuses = s.fuses
  power : t.power = s.power
  sec : t.sec = s.sec
  vaults : t.vaults = s.vaults
  units : t.units = s.units
  mem : t.mem = s.mem
  scratch : t.scratch = s.scratch
  ticks : t.ticks = s.ticks
  epoch : t.epoch = s.epoch
  free : t.free = s.free
  pending : t.pending = s.pending
  state : t.dev.state = s.dev.state
  step : t.dev.step = s.dev.step
  plan : t.dev.plan = s.dev.plan
  holder : t.dev.holder = s.dev.holder
  core : ∀ c, Core.Same (s.core c) (t.core c)
  tile : ∀ k, t.tile k = { s.tile k with poisonCons := (t.tile k).poisonCons }

theorem Ahead.refl (s : State) : Ahead s s := by constructor <;> intros <;> rfl

theorem Ahead.trans {s t u : State} (a : Ahead s t) (b : Ahead t u) : Ahead s u := by
  constructor
  case core => exact fun c => (a.core c).trans (b.core c)
  case tile => intro k; rw [b.tile k, a.tile k]
  all_goals first
    | exact b.fuses.trans a.fuses | exact b.power.trans a.power | exact b.sec.trans a.sec
    | exact b.vaults.trans a.vaults | exact b.units.trans a.units | exact b.mem.trans a.mem
    | exact b.scratch.trans a.scratch | exact b.ticks.trans a.ticks
    | exact b.epoch.trans a.epoch | exact b.free.trans a.free | exact b.pending.trans a.pending
    | exact b.state.trans a.state
    | exact b.step.trans a.step | exact b.plan.trans a.plan | exact b.holder.trans a.holder

theorem Aside.ahead {s t : State} (h : Aside s t) : Ahead s t := by
  constructor
  case core => intro c; unfold Core.Same; rw [h.core c]
  case tile => intro k; simp [State.tile, h.tiles]
  all_goals first
    | exact h.fuses | exact h.power | exact h.sec | exact h.vaults | exact h.units | exact h.mem | exact h.scratch
    | exact h.ticks | exact h.epoch | exact h.free | exact h.pending | exact h.state | exact h.step | exact h.plan
    | exact h.holder

/-- A change of a core within what `Core.Same` allows. -/
theorem ahead_core (s : State) (c : Nat) (f : Core → Core) (h : ∀ k, Core.Same k (f k)) : Ahead s (s.updCore c f) := by
  constructor
  case core =>
    intro d
    by_cases hd : c = d
    · subst hd; rw [State.updCore_core]; exact h _
    · rw [State.updCore_core_ne s f hd]; exact Core.Same.refl _
  all_goals intros; rfl

theorem ahead_tile (s : State) (k : Nat) (f : Tile → Tile) (h : ∀ x, f x = { x with poisonCons := (f x).poisonCons }) :
    Ahead s (s.updTile k f) := by
  constructor
  case tile =>
    intro j
    by_cases hd : k = j
    · subst hd; simp only [State.updTile, State.setTile, State.tile, tget_tset_self]; exact h _
    · simp only [State.updTile, State.setTile, State.tile, tget_tset_ne _ _ _ hd]
  all_goals intros; rfl

theorem forEach_ahead {α : Type} (l : List α) (f : State → α → State) (h : ∀ s a, Ahead s (f s a)) (s : State) :
    Ahead s (forEach l s f) :=
  forEach_keeps (Ahead s) l f (fun t a ht => ht.trans (h t a)) s (Ahead.refl s)

/-- An engine or the sequencer that takes poison counts it and posts its record; nothing else (R255, R257). -/
theorem consumePoison_ahead (s : State) (c e da : Nat) : Ahead s (consumePoison s c e da) := by
  unfold consumePoison
  have h : Ahead s (s.updTile (tileOfCore c) fun x => { x with poisonCons := satAdd x.poisonCons 1 }) :=
    ahead_tile s _ _ (fun x => rfl)
  dsimp only
  split
  · exact h
  · refine h.trans (Ahead.trans ?_ (postFault_aside _ _ _ _ _).ahead)
    exact ahead_core _ _ _ (fun k => rfl)

/-- A read of the sequencer changes nothing but answers under way (R471). -/
theorem seqRead_aside (s : State) (c : Nat) (own : Owner) (da : Nat) : Aside s (seqRead s c own da) := by
  unfold seqRead
  dsimp only
  split
  · exact ((traffic_nextRq s _).trans (traffic_core _ _ _ (fun k => rfl))).aside
  · exact (issue_traffic _ _ _ _ _ _ _ _ _).aside

theorem fetchAhead_ahead (s : State) (c : Nat) : Ahead s (fetchAhead s c) := by
  unfold fetchAhead
  split
  · apply forEach_ahead
    intro s i
    refine Ahead.trans ?_ (seqRead_aside _ _ _ _).ahead
    exact ahead_core s c _ (fun k => rfl)
  · exact Ahead.refl s

theorem meetPoison_ahead (s : State) (c : Nat) : Ahead s (meetPoison s c) := by
  unfold meetPoison
  dsimp only
  split
  · unfold stickAt
    refine Ahead.trans ?_ (consumePoison_ahead _ _ _ _)
    exact ahead_core s c _ (fun k => rfl)
  · exact Ahead.refl s

/-- Decoding goes on from an updated sequencer: beside the update, only what `Ahead` allows. -/
theorem advance_ahead (s : State) (c : Nat) (f : Seq → Seq) : Ahead (s.updSeq c f) (advance s c f) :=
  (fetchAhead_ahead _ _).trans (meetPoison_ahead _ _)

/-- The core after `advance`. -/
theorem advance_core (s : State) (c : Nat) (f : Seq → Seq) :
    Core.Same { s.core c with seq := f (s.core c).seq } ((advance s c f).core c) := by
  have h := (advance_ahead s c f).core c
  rwa [State.updSeq_core] at h

/-- Another core after `advance`. -/
theorem advance_core_ne (s : State) {c d : Nat} (f : Seq → Seq) (h : c ≠ d) :
    Core.Same (s.core d) ((advance s c f).core d) := by
  have h' := (advance_ahead s c f).core d
  rwa [State.updSeq, State.updCore_core_ne s _ h] at h'

/-- `advance` changes core c's sequencer as asked and keeps the rest. -/
theorem advance_becomes (s : State) (c : Nat) (f : Seq → Seq) : SeqBecomes c s (advance s c f) (f (s.core c).seq) := by
  have h := advance_ahead s c f
  refine ⟨advance_core s c f, ⟨?_, ?_, ?_, h.vaults, h.units, h.fuses, h.power, h.state, h.step, h.pending, h.tile⟩⟩
  · exact fun d hd => advance_core_ne s f (Ne.symm hd)
  · intro a; rw [h.mem]; rfl
  · intro a; rw [h.scratch]; rfl

theorem advance_mem (s : State) (c : Nat) (f : Seq → Seq) : (advance s c f).mem = s.mem := (advance_ahead s c f).mem
theorem advance_scratch (s : State) (c : Nat) (f : Seq → Seq) : (advance s c f).scratch = s.scratch :=
  (advance_ahead s c f).scratch

/-! ## Loop bodies -/

/-- Where no loop body ends, nothing goes round. -/
theorem loopEnds_none (n : Nat) (q : Seq) (i : Nat) (h : ∀ l ∈ q.loops.head?, l.last ≠ i) : loopEnds n q i = (q, none) := by
  cases n with
  | zero => rfl
  | succ n =>
    unfold loopEnds
    rcases hl : q.loops with _ | ⟨l, ls⟩
    · rfl
    · have := h l (by simp [hl])
      simp [this]

/-- After a word in mid-body decoding goes to the next word (R173). -/
theorem after_midBody (q : Seq) (i : Nat) (h : ∀ l ∈ q.loops.head?, l.last ≠ i) : q.after i = q.goto (i + 1) := by
  simp [Seq.after, loopEnds_none 5 q i h]

/-- `goto` sets the word and, beside the phase, ends an ENG run past CODEW. -/
theorem goto_eq (q : Seq) (i : Nat) (h : q.run = none) : q.goto i = { q with pc := i, phase := (q.goto i).phase } := by
  unfold Seq.goto
  split
  · rw [← h]
  · rfl

/-- What an instruction that may be decoded implies of its core. -/
theorem instrAt_some {s : State} {c : Nat} {p : Nat → Bool} {w : BitVec 64} (h : s.instrAt c p = some w) :
    s.mayDecode c = true ∧ (s.core c).seq.run = none ∧ (s.core c).seq.word (s.core c).seq.pc = some (w, false) ∧
      p (seqOp w) = true := by
  unfold State.instrAt at h
  dsimp only at h
  split at h
  · next hm =>
    rw [Bool.and_eq_true, Option.isNone_iff_eq_none] at hm
    split at h
    · next w' hw =>
      split at h
      · next hp => cases h; exact ⟨hm.1, hm.2, hw, hp⟩
      · cases h
    · cases h
  · cases h

theorem Answers.of {i : Instr} {s t : State} {P : State → Prop} (h : exec i s = .next t) (hp : P t) : Answers i s P :=
  ⟨t, h, hp⟩

/-- A sequencer with its phase put aside. -/
def Seq.still (q : Seq) : Seq := { q with phase := .idle }

/-- Two sequencers that differ in the phase alone are the same to `SeqBecomes`. -/
theorem SeqBecomes.congr {c : Nat} {s t : State} {q q' : Seq} (h : SeqBecomes c s t q) (hq : q.still = q'.still) :
    SeqBecomes c s t q' := by
  refine ⟨?_, h.2⟩
  have h1 := h.1
  have e : q' = { q with phase := q'.phase } := by
    rw [show ({ q with phase := q'.phase } : Seq) = { q.still with phase := q'.phase } from rfl, hq]
    rfl
  unfold Core.Same at *
  rw [h1, e]

/-- `goto` but for the phase. -/
theorem goto_still (q : Seq) (i : Nat) (h : q.run = none) : (q.goto i).still = ({ q with pc := i } : Seq).still := by
  rw [goto_eq q i h]
  rfl

/-- A plain instruction in mid-body: its effect, and the next word. -/
theorem plain_becomes (s : State) (c : Nat) (f : Seq → Seq) (hr : (f (s.core c).seq).run = none)
    (hl : (f (s.core c).seq).loops = (s.core c).seq.loops) (h : (s.core c).seq.midBody) :
    SeqBecomes c s (plain s c f) { f (s.core c).seq with pc := (s.core c).seq.pc + 1 } := by
  have h1 := advance_becomes s c fun q => (f q).after q.pc
  refine SeqBecomes.congr h1 ?_
  have h2 : ∀ l ∈ (f (s.core c).seq).loops.head?, l.last ≠ (s.core c).seq.pc := by rw [hl]; exact h
  dsimp only
  rw [after_midBody _ _ h2, goto_still _ _ hr]

/-- A plain instruction that writes one register. -/
theorem setReg_becomes (s : State) (c d : Nat) (v : Seq → BitVec 32) (hr : (s.core c).seq.run = none)
    (hm : (s.core c).seq.midBody) :
    SeqBecomes c s (plain s c fun q => q.setReg d (v q)) { (s.core c).seq with
      g := (s.core c).seq.g.set d (v (s.core c).seq)
      awaited := (s.core c).seq.awaited.filter (fun e => decide (e.1 ≠ d)), pc := (s.core c).seq.pc + 1 } :=
  plain_becomes s c (fun q => q.setReg d (v q)) hr rfl hm

/-- What is the same about two cores decides whether the word at PC is poisoned. -/
theorem Core.Same.word {k k' : Core} (h : Core.Same k k') (i : Nat) : k'.seq.word i = k.seq.word i := by
  unfold Core.Same at h
  rw [h]
  rfl

theorem Core.Same.pc {k k' : Core} (h : Core.Same k k') : k'.seq.pc = k.seq.pc := by
  unfold Core.Same at h
  rw [h]

theorem Ahead.pcPoisoned {s t : State} (h : Ahead s t) (c : Nat) : t.pcPoisoned c = s.pcPoisoned c := by
  unfold State.pcPoisoned
  rw [(h.core c).pc, (h.core c).word]

/-- Fetching ahead keeps the phase. -/
theorem fetchAhead_phase (s : State) (c : Nat) : ((fetchAhead s c).core c).seq.phase = (s.core c).seq.phase := by
  unfold fetchAhead
  split
  · refine forEach_same (fun t => (t.core c).seq.phase) _ _ ?_ s
    intro s i
    dsimp only
    rw [(seqRead_aside _ _ _ _).core c, State.updSeq_core]
  · rfl

/-- Decoding goes on in the phase that the update gave, unless the word at PC is poisoned; then it stops. -/
theorem advance_phase (s : State) (c : Nat) (f : Seq → Seq) :
    ((advance s c f).pcPoisoned c = false → ((advance s c f).core c).seq.phase = (f (s.core c).seq).phase) ∧
    ((f (s.core c).seq).phase ≠ .decode → ((advance s c f).core c).seq.phase = (f (s.core c).seq).phase) := by
  have hp := (meetPoison_ahead (fetchAhead (s.updSeq c f) c) c).pcPoisoned c
  have hph : ((fetchAhead (s.updSeq c f) c).core c).seq.phase = (f (s.core c).seq).phase := by
    rw [fetchAhead_phase, State.updSeq_core]
  unfold advance
  constructor
  · intro h
    rw [hp] at h
    rw [← hph]
    unfold meetPoison
    simp [h]
  · intro h
    rw [← hph] at h ⊢
    unfold meetPoison
    simp [h]

theorem goto_phase (q : Seq) (i : Nat) : (q.goto i).phase = if q.codew < i then .drain else .decode := by
  unfold Seq.goto
  split <;> rfl

/-- What `Ahead` allows, elsewhere. -/
theorem Ahead.elsewhere {s t : State} (c : Nat) (h : Ahead s t) : Elsewhere c s t :=
  ⟨fun d _ => h.core d, fun a => by rw [h.mem], fun a => by rw [h.scratch], h.vaults, h.units, h.fuses, h.power, h.state,
    h.step, h.pending, h.tile⟩

theorem Elsewhere.trans {c : Nat} {s t u : State} (a : Elsewhere c s t) (b : Elsewhere c t u) : Elsewhere c s u := by
  obtain ⟨a1, a2, a3, a4, a5, a6, a7, a8, a9, a10, a11⟩ := a
  obtain ⟨b1, b2, b3, b4, b5, b6, b7, b8, b9, b10, b11⟩ := b
  refine ⟨fun d hd => (a1 d hd).trans (b1 d hd), fun x => (b2 x).trans (a2 x), fun x => (b3 x).trans (a3 x), b4.trans a4,
    b5.trans a5, b6.trans a6, b7.trans a7, b8.trans a8, b9.trans a9, b10.trans a10, fun k => ?_⟩
  rw [b11 k, a11 k]

/-- A change of core c alone. -/
theorem elsewhere_core (s : State) (c : Nat) (f : Core → Core) : Elsewhere c s (s.updCore c f) :=
  ⟨fun d hd => by rw [State.updCore_core_ne s f (Ne.symm hd)]; exact Core.Same.refl _, fun _ => rfl, fun _ => rfl, rfl, rfl,
    rfl, rfl, rfl, rfl, rfl, fun _ => rfl⟩

/-- Answers and records under way before the sequencer changes. -/
theorem SeqBecomes.of_ahead {c : Nat} {s u t : State} {q : Seq} (a : Ahead s u) (b : SeqBecomes c u t q) :
    SeqBecomes c s t q := by
  refine ⟨?_, (a.elsewhere c).trans b.2⟩
  have h1 := b.1
  have h2 := a.core c
  unfold Core.Same at *
  rw [h1, h2]

/-- An earlier update of the same sequencer. -/
theorem SeqBecomes.of_upd {c : Nat} {s t : State} {q : Seq} (f : Seq → Seq) (b : SeqBecomes c (s.updSeq c f) t q) :
    SeqBecomes c s t q := by
  refine ⟨?_, (elsewhere_core s c _).trans b.2⟩
  have h1 := b.1
  rw [State.updSeq_core] at h1
  exact h1

/-- An earlier update of core c's answers held. -/
theorem SeqBecomes.of_inbox {c : Nat} {s t : State} {q : Seq} (l : List Rsp)
    (b : SeqBecomes c (s.updCore c fun k => { k with inbox := l }) t q) : SeqBecomes c s t q :=
  SeqBecomes.of_ahead (ahead_core s c (fun k => { k with inbox := l }) fun _ => rfl) b

/-- The sequencer set outright. -/
theorem updSeq_becomes (s : State) (c : Nat) (f : Seq → Seq) : SeqBecomes c s (s.updSeq c f) (f (s.core c).seq) := by
  refine ⟨?_, elsewhere_core s c _⟩
  rw [State.updSeq_core]
  exact Core.Same.refl _

/-- Traffic and records after the sequencer has changed. -/
theorem SeqBecomes.ahead {c : Nat} {s u t : State} {q : Seq} (a : SeqBecomes c s u q) (b : Ahead u t) :
    SeqBecomes c s t q :=
  ⟨a.1.trans (b.core c), a.2.trans (b.elsewhere c)⟩

/-- What an aside leaves of a sequencer. -/
theorem Aside.seq {s t : State} (h : Aside s t) (c : Nat) : (t.core c).seq = (s.core c).seq := by rw [h.core c]

/-- One change of the sequencer behind another. -/
theorem SeqBecomes.trans {c : Nat} {s u t : State} {p q : Seq} (a : SeqBecomes c s u p) (b : SeqBecomes c u t q) :
    SeqBecomes c s t q := by
  refine ⟨?_, a.2.trans b.2⟩
  have h1 := a.1
  have h2 := b.1
  unfold Core.Same at *
  rw [h2, h1]

/-- A plain instruction that first updates its sequencer and reads a line. -/
theorem plain_read_becomes (s : State) (c : Nat) (f g : Seq → Seq) (own : Owner) (da : Nat)
    (hr : (g (f (s.core c).seq)).run = none) (hl : (g (f (s.core c).seq)).loops = (f (s.core c).seq).loops)
    (hm : (f (s.core c).seq).midBody) :
    SeqBecomes c s (plain (seqRead (s.updSeq c f) c own da) c g)
      { g (f (s.core c).seq) with pc := (f (s.core c).seq).pc + 1 } := by
  have e : ((seqRead (s.updSeq c f) c own da).core c).seq = f (s.core c).seq := by
    rw [(seqRead_aside _ _ _ _).seq c, State.updSeq_core]
  have h := plain_becomes (seqRead (s.updSeq c f) c own da) c g (by rw [e]; exact hr) (by rw [e]; exact hl) (by rw [e]; exact hm)
  rw [e] at h
  exact SeqBecomes.trans ((updSeq_becomes s c f).ahead (seqRead_aside _ _ _ _).ahead) h

/-- Reading a header changes, of the sequencer, the list of its parts asked for. -/
theorem readHeader_seq (s : State) (c p da : Nat) :
    ∃ h, ((readHeader s c p da).core c).seq = { (s.core c).seq with hdrs := h } := by
  have ask : ∀ (s : State) (j l : Nat),
      ((seqRead (s.updSeq c fun q => { q with hdrs := q.hdrs ++ [(j, s.nextRq)] }) c (.list c j) l).core c).seq =
        { (s.core c).seq with hdrs := (s.core c).seq.hdrs ++ [(j, s.nextRq)] } := by
    intro s j l
    rw [(seqRead_aside _ _ _ _).seq c, State.updSeq_core]
  unfold readHeader
  dsimp only
  split
  · exact ⟨_, ask s _ _⟩
  · exact ⟨_, by rw [ask, ask]⟩

theorem State.core_nextRq (v : State) (n c : Nat) : State.core { v with nextRq := n } c = v.core c := rfl

/-- An acknowledgement at once of the completion flag (R166). -/
theorem ackFlag_core (v : State) (c : Nat) : (ackFlag v c).core c = { v.core c with
    inbox := (v.core c).inbox ++ [{ id := v.nextRq, own := .legFlag c, da := 0, isRead := false, data := 0, bad := false }]
    seq := { (v.core c).seq with flagRq := v.nextRq } } := by
  unfold ackFlag
  rw [State.updCore_core, State.core_nextRq]

end Sys2Proof.Machine
end

