-- ==== Sys2Proof/WellFormed.lean ====
section
/-!
DEFINITION. Which commands are well formed: the places they name exist on the largest part (R1, R2, R4, R18, R19), and
their operands lie in the ranges the manual gives. What is absent on a smaller part is the machine's concern.
-/
namespace Sys2Proof

def isTile (t : Nat) : Bool := decide (t < 8)
def isCore (c : Nat) : Bool := decide (c < 136)
def isVault (t v : Nat) : Bool := isTile t && decide (v < 64)
def isUnit (t v layer k : Nat) : Bool := isVault t v && decide (layer < 10) && decide (k < 4)
def isPort (x : Nat) : Bool := decide (x < 2)
def isLink (n : Nat) : Bool := decide (n < 24)
def isEngine (e : Nat) : Bool := decide (e < 6)

/-- A loss of light names its engine, or one of the engine's four links. -/
def isEngineLink (e : Nat) : Option Nat → Bool
  | none => true
  | some n => decide (n / 4 = e)

/-- A requester of a register access: one of the two ports, Buaman or JTAG. -/
def isRequester : Requester → Bool
  | .port x => isPort x
  | _ => true

/-- Windows of crossings as XING_DROP names them (R380), with the numbers that R211 and R212 list. -/
def isCrossing (w n : Nat) : Bool :=
  if w < 8 then decide (n < 17) || (decide (32 ≤ n) && decide (n < 49)) || (decide (64 ≤ n) && decide (n < 196)) ||
    (decide (200 ≤ n) && decide (n < 204)) || (decide (208 ≤ n) && decide (n < 211)) || (decide (216 ≤ n) && decide (n < 219))
  else if w = 8 then [192, 193, 200, 201, 208, 209, 210, 216, 217, 218].contains n
  else if w < 11 then decide (n < 2)
  else if 16 ≤ w ∧ w < 22 then decide (n < 8)
  else decide (32 ≤ w) && decide (w < 544) && decide (n < 2)

/-- A BAR access: one of the three BARs, up to eight bytes of a register, up to a line of stacked memory (R296). -/
def isBar (a : BarAccess) : Bool :=
  [0, 2, 4].contains a.bar && decide (1 ≤ a.size) && decide (a.size ≤ if a.bar = 2 then 64 else 8)

/-- The measurements of a model step: 56 sensors (R402). -/
def isObs (o : ThermalObs) : Bool := decide (o.readings.length = 56)

/-- What start-up found: cores and vaults of the part, and of a bank of a vault its failing rows and spares (R277, R278, R423). -/
def isStart (r : StartResult) : Bool :=
  (r.badCores.all fun e => isTile e.1 && decide (e.2 < 17)) && (r.badVaults.all fun e => isVault e.1 e.2) &&
    r.banks.all fun b => isVault b.tile b.vault && decide (b.layer < 10) && decide (b.bank < 8) &&
      (b.rows.all fun i => decide (i < 16384)) && b.badSpares.all fun i => decide (i < 32)

/-- The command is well formed. -/
def Instr.wellFormed (i : Instr) : Bool :=
  match i with
  | .supplyValid _ => true
  | .supplyInvalid _ => true
  | .resetRelease _ => true
  | .bootSuccess res => isStart res
  | .bootFail why => decide (1 ≤ why) && decide (why ≤ 10)
  | .bootWatchdog => true
  | .bootTimeout => true
  | .fuseAdvance => true
  | .fuseShadowCheck _ => true
  | .hpCmddbWrite x via _ => isPort x && isPort via
  | .commandSlotConsume x _ => isPort x
  | .commandSlotReread x _ => isPort x
  | .doorbellEarly x _ => isPort x
  | .hpRingcfgEnable x r _ => isPort x && decide (r < 3)
  | .nop _ _ => true
  | .identify _ _ => true
  | .readState _ _ => true
  | .book _ _ => true
  | .bookComplete => true
  | .unbook _ _ => true
  | .deferredCommandStart => true
  | .startCmd _ _ => true
  | .halt _ _ => true
  | .discard _ _ => true
  | .discardComplete => true
  | .fill _ _ => true
  | .fillComplete => true
  | .copyCmd _ _ => true
  | .copyComplete => true
  | .encode _ _ => true
  | .encodeComplete => true
  | .bankEnter _ _ => true
  | .bankEnterComplete => true
  | .bankExit _ _ => true
  | .bankRun _ _ => true
  | .bankRunComplete => true
  | .mirrorSet _ _ => true
  | .mirrorStatus _ _ => true
  | .takeover _ _ => true
  | .takeoverComplete => true
  | .restoreTo _ _ => true
  | .restoreToComplete => true
  | .selftest _ _ => true
  | .selftestComplete _ => true
  | .calibrate _ _ => true
  | .calibrateComplete _ => true
  | .powerLimit _ _ => true
  | .thermalCfg _ _ => true
  | .faultRead _ _ => true
  | .faultClear _ _ => true
  | .fwStage _ _ => true
  | .fwStageComplete => true
  | .fwActivate _ _ => true
  | .freeze _ _ => true
  | .resetDevice _ _ => true
  | .registerWrite req _ _ _ => isRequester req
  | .rcFieldRead req _ _ => isRequester req
  | .counterLowHalfRead req _ _ => isRequester req
  | .vcMapctlCommit req _ => isRequester req
  | .mapCommitDone => true
  | .mpModeClotuWrite req t _ => isRequester req && isTile t
  | .mirStoreWrite req _ => isRequester req
  | .hdmDecoderCommit x d _ => isPort x && decide (d < 2)
  | .legStart c => isCore c
  | .preloadComplete c => isCore c
  | .fetchLineReturn c => isCore c
  | .snop c => isCore c
  | .eng c => isCore c
  | .seti c => isCore c
  | .addi c => isCore c
  | .madi c => isCore c
  | .andi c => isCore c
  | .ldw c => isCore c
  | .ldwReturn c => isCore c
  | .sems c => isCore c
  | .semw c => isCore c
  | .waitf c => isCore c
  | .waitfReadReturn c => isCore c
  | .waitfReread c => isCore c
  | .loopSeq c => isCore c
  | .brnz c => isCore c
  | .fence c => isCore c
  | .endLeg c => isCore c
  | .reservedSeqOpcode c => isCore c
  | .legDrainComplete c => isCore c
  | .completionFlagAck c => isCore c
  | .semSettle c n => isCore c && decide (n < 32)
  | .mxNop c => isCore c
  | .mxMma c => isCore c
  | .mxMmaComplete c => isCore c
  | .mxSetl c => isCore c
  | .mxLoadacc c => isCore c
  | .mxDrain c => isCore c
  | .drainSlotPlace c bank => isCore c && decide (bank < 4)
  | .reservedMxOpcode c => isCore c
  | .vxNop c => isCore c
  | .vxOp c => isCore c
  | .vxRed c => isCore c
  | .vxSmaxReset c => isCore c
  | .vxSmaxAccum c => isCore c
  | .vxSmaxNorm c => isCore c
  | .vxSmaxRead c => isCore c
  | .vxTake c => isCore c
  | .basketSlotRelease c => isCore c
  | .vxLd c => isCore c
  | .vxSt c => isCore c
  | .vxSets c => isCore c
  | .vxTcfg c => isCore c
  | .vxTrun c => isCore c
  | .trailRunComplete c => isCore c
  | .reservedVxOpcode c => isCore c
  | .stNop c ch => isCore c && decide (ch < 2)
  | .stCopy c ch => isCore c && decide (ch < 2)
  | .stGather c ch => isCore c && decide (ch < 2)
  | .stScatter c ch => isCore c && decide (ch < 2)
  | .stFlag c ch => isCore c && decide (ch < 2)
  | .reservedStOpcode c ch => isCore c && decide (ch < 2)
  | .stReadReturn c ch => isCore c && decide (ch < 2)
  | .stWriteAck c ch => isCore c && decide (ch < 2)
  | .ckNop c => isCore c
  | .ckInit c => isCore c
  | .ckFeed c => isCore c
  | .ckPut c => isCore c
  | .ckStore c => isCore c
  | .reservedCkOpcode c => isCore c
  | .crossingItemTake w n => isCrossing w n
  | .halfResetAssert w n => isCrossing w n
  | .halfResetRelease w n => isCrossing w n
  | .vaultRequestAccept t v => isVault t v
  | .vaultServe t v k => isVault t v && decide (k < 64)
  | .accWriteCombine t v => isVault t v
  | .granuleFillDone t g => isTile t && decide (g < 2 ^ 25)
  | .rowIdleClose t v b => isVault t v && decide (b < 8)
  | .refreshDue t v b => isVault t v && decide (b < 8)
  | .refreshForced t v b => isVault t v && decide (b < 8)
  | .refreshDone t v b => isVault t v && decide (b < 8)
  | .neighbourRefresh t v b => isVault t v && decide (b < 8)
  | .calibrationSlotStart t v => isVault t v
  | .calibrationSlotEnd t v => isVault t v
  | .bandNotice t v => isVault t v
  | .scrubTick t v => isVault t v
  | .layerEraseMark t v layer => isVault t v && decide (layer < 10)
  | .vaultLostDeclare t v => isVault t v
  | .vaultControllerFail t v => isVault t v
  | .buIdle t v _ => isVault t v
  | .buLoad t v _ _ _ _ => isVault t v
  | .buStart t v _ _ _ => isVault t v
  | .buPoll t v _ => isVault t v
  | .buRdreg t v _ => isVault t v
  | .buRdacc t v _ => isVault t v
  | .buWrreg t v _ _ => isVault t v
  | .buHold t v _ => isVault t v
  | .buResume t v _ => isVault t v
  | .buReset t v _ => isVault t v
  | .buSpare t v _ _ _ => isVault t v
  | .buReservedFrame t v _ => isVault t v
  | .buNop t v layer k => isUnit t v layer k
  | .buLdi t v layer k => isUnit t v layer k
  | .buAdd t v layer k => isUnit t v layer k
  | .buAddi t v layer k => isUnit t v layer k
  | .buAnd t v layer k => isUnit t v layer k
  | .buXor t v layer k => isUnit t v layer k
  | .buLd t v layer k => isUnit t v layer k
  | .buSt t v layer k => isUnit t v layer k
  | .buStc t v layer k => isUnit t v layer k
  | .buMac t v layer k => isUnit t v layer k
  | .buClr t v layer k => isUnit t v layer k
  | .buBlt t v layer k => isUnit t v layer k
  | .buBne t v layer k => isUnit t v layer k
  | .buChk t v layer k => isUnit t v layer k
  | .buHalt t v layer k => isUnit t v layer k
  | .buReservedOpcode t v layer k => isUnit t v layer k
  | .groupReadyRise t v k => isVault t v && decide (k < 4)
  | .kernelLimit t v k => isVault t v && decide (k < 4)
  | .hostLinkUp x _ => isPort x
  | .hostLinkRecoveryDone x => isPort x
  | .linkLossReset x => isPort x
  | .hostLinkDown x => isPort x
  | .hotReset x => isPort x
  | .flr x => isPort x
  | .d3hot x => isPort x
  | .recoveryLong x => isPort x
  | .recoveryRepeat x => isPort x
  | .bmeCleared x => isPort x
  | .downtrained x _ _ => isPort x
  | .hostSlow x => isPort x
  | .perstAssert x => isPort x
  | .perstRelease x => isPort x
  | .hostSnoop x _ _ => isPort x
  | .atsInvalidation x _ _ => isPort x
  | .pageRequestResponse x _ _ _ _ => isPort x
  | .hostGoReceive x _ => isPort x
  | .hostDataReceive x _ _ _ => isPort x
  | .hostCxlmemRead x _ => isPort x
  | .hostCxlmemWrite x _ _ _ _ => isPort x
  | .uioInbound x _ => isPort x
  | .barAccess x acc => isPort x && isBar acc
  | .bisnpResponse x _ _ _ => isPort x
  | .recallTimeout x => isPort x
  | .msixHoldoffExpiry x v => isPort x && decide (v < 8)
  | .dlTrainingDone n _ => isLink n
  | .dlTrainingRetry n => isLink n
  | .dlTrainingFailed n => isLink n
  | .flitReceive n _ _ _ => isLink n
  | .idleFlitSend n => isLink n
  | .laneSymbolThreshold n _ lane => isLink n && decide (lane < 22)
  | .laneLossOfSignal n _ lane => isLink n && decide (lane < 22)
  | .linkManagementFlit n _ lane _ => isLink n && decide (lane < 22)
  | .laneSpared n => isLink n
  | .lossOfLight e link => isEngine e && isEngineLink e link
  | .elsFltAssert e => isEngine e
  | .elsFltRelease e => isEngine e
  | .messageForward n => isLink n
  | .writeMsg n => isLink n
  | .writeMasked n => isLink n
  | .readMsg n => isLink n
  | .readResponse n => isLink n
  | .completionMsg n => isLink n
  | .mirrorWrite n => isLink n
  | .restoreWrite n => isLink n
  | .rollcall n => isLink n
  | .commitMsg n => isLink n
  | .storeCommitLanded => true
  | .commitAck n => isLink n
  | .mirmap n => isLink n
  | .mirmapTimeout => true
  | .takeoverMsg n => isLink n
  | .commandMsg n => isLink n
  | .statusMsg n => isLink n
  | .dlRequestTimeout _ => true
  | .rollcallSend => true
  | .partnerSilence => true
  | .mirrorCommitBegin => true
  | .stepComplete => true
  | .legTimerExpiry c => isCore c
  | .waitDeadlineExpiry c => isCore c
  | .coreFailed c reason => isCore c && decide (1 ≤ reason)
  | .spareBeginLeg c => isCore c
  | .tileLost t reason => isTile t && decide (1 ≤ reason)
  | .powerLoopTick => true
  | .clockChangeApply t => isTile t
  | .meterUpdate n _ => decide (n < 679)
  | .thermalModelStep t obs => isTile t && isObs obs
  | .sensorModelResidual t => isTile t
  | .vinLow _ => true
  | .hardwareTrip t sensor => isTile t && decide (sensor < 56)
  | .freezeNAssert _ => true
  | .smbusSetAddress _ => true
  | .smbusReadPostcard => true
  | .smbusReset _ => true
  | .smbusClockTimeout => true
  | .setEndpointId _ => true
  | .mctpControlRequest _ => true
  | .pldmRequest _ => true
  | .getVersion r => decide (r < 3)
  | .getCapabilities r => decide (r < 3)
  | .negotiateAlgorithms r => decide (r < 3)
  | .getDigests r => decide (r < 3)
  | .getCertificate r _ _ _ => decide (r < 3)
  | .challenge r _ _ => decide (r < 3)
  | .getMeasurements r _ _ _ => decide (r < 3)
  | .chunkSend r _ _ _ _ => decide (r < 3)
  | .chunkGet r _ _ => decide (r < 3)
  | .vendorGetSlhdsaCerts r => decide (r < 3)
  | .vendorGetSlhdsaSignature r => decide (r < 3)
  | .extest _ => true
  | .samplePreload _ => true
  | .idcode => true
  | .dbgacc _ _ _ => true
  | .postcard _ => true
  | .jtagFreeze => true
  | .devreset => true
  | .bypass _ => true
  | .tapReset => true
  | .qspiExtAssert => true
  | .qspiExtRelease => true
  | .freezeNRelease => true
  | .hostLinkRecoveryStart x => isPort x
  | .uncorrectableLimitPeriodClose t v => isVault t v
  | .commitLandingTimeout => true

end Sys2Proof
end

