-- ==== Sys2Proof/Tests/Slice0.lean ====
section
/-!
SUPPORT. The model's own tests: ill-formed terms refused, and for every statement of the certificates one concrete
state and operands for each of its clauses that meet all its hypotheses. Each is about a small state made by a helper.
-/
namespace Sys2Proof.Tests
open Sys2Proof Sys2Proof.Machine

set_option Elab.async false

/-! ## Helpers -/

/-- The state after reset, brought up into a device state. -/
def up (d : DevState) : State :=
  { State.reset with dev := { State.reset.dev with state := d, inReset := false } }

/-- A running step whose core 0 is k, in the phase of decoding. -/
def running (k : Core) : State :=
  { up .running with cores := [(0, { k with seq := { k.seq with phase := .decode } })] }

/-- An engine command with opcode `op` and low bits `low`. -/
def eng (op low : Nat) : EngCmd := BitVec.ofNat 128 (op * 2 ^ 122 + low)

/-- Command number 0, ready to start. -/
def q0 (w : EngCmd) : QCmd := { id := 0, word := w, spec := 0, released := false }

/-- Core 0 with one command in engine e's queue. -/
def queued (e : Nat) (w : EngCmd) : State := running (Core.reset.setQueue e [q0 w])

/-- Core 0 decoding word 0, the leg's code being `ws`, from a sequencer that is q otherwise. -/
def decoding (q : Seq) (ws : List (BitVec 64)) : State :=
  running { Core.reset with seq :=
    { q with
      legHdr := BitVec.ofNat 512 (63 * 2 ^ 332)
      fetch := [(0, lineOf (ws.flatMap fun w => bytesOf 8 w.toNat), false)] } }

/-- A sequencer instruction with opcode `op` and low bits `low`. -/
def ins (op low : Nat) : BitVec 64 := BitVec.ofNat 64 (op * 2 ^ 58 + low)

/-- An answer to request 7. -/
def rsp (own : Owner) (isRead : Bool) (data : Line) : Rsp :=
  { id := 7, own := own, da := 0, isRead := isRead, data := data, bad := false }

/-- A running step whose core 0 is k, in phase p. -/
def inPhase (p : Phase) (k : Core) : State :=
  { up .running with cores := [(0, { k with seq := { k.seq with phase := p } })] }

/-! ## Matrix and vector engines -/

/-- MatrixCommands: each command at the head, a reserved opcode at both ends of its range, a bank under drain and not. -/
theorem test_matrix_commands :
    (queued 0 (eng 0 0)).headOp 0 0 (· = 0) = some (q0 (eng 0 0)) ∧
    (queued 0 (eng 5 0)).headOp 0 0 (5 ≤ ·) = some (q0 (eng 5 0)) ∧
    (queued 0 (eng 63 0)).headOp 0 0 (5 ≤ ·) = some (q0 (eng 63 0)) ∧
    (queued 0 (eng 2 0)).headOp 0 0 (· = 2) = some (q0 (eng 2 0)) ∧
    (queued 0 (eng 1 0)).headOp 0 0 (· = 1) = some (q0 (eng 1 0)) ∧
    ((queued 0 (eng 1 0)).core 0).mx.underDrain (mxBank (eng 1 0)) = false := by decide +kernel

/-- Core 0 draining bank 0, with `n` slots in its basket and a command queued. -/
def draining (n quad : Nat) (w : EngCmd) : State :=
  running { Core.reset.setQueue 0 [q0 w] with mx := { Mx.reset with
    queue := [q0 w], basket := List.replicate n { hdr := 0, vals := [] }
    drains := [{ cmd := q0 (eng 4 0), bank := 0, tag := 0, quad := quad, last := none }] } }

theorem test_mma_waits : (draining 0 0 (eng 1 0)).headOp 0 0 (· = 1) = some (q0 (eng 1 0)) ∧
    ((draining 0 0 (eng 1 0)).core 0).mx.underDrain (mxBank (eng 1 0)) = true := by decide +kernel

/-- A multiplication under way on core 0. -/
def someMma : Mma :=
  { cmd := q0 (eng 1 0), scratch := [], valid := [], poison := [], writes := [], layA := Layout.reset, layB := Layout.reset }
def multiplying : State := running { Core.reset with mx := { Mx.reset with mmas := [someMma] } }

/-- MatrixUpdates, first clause. Second: no row and 64 rows. -/
theorem test_mma_completes : multiplying.coreRuns 0 = true ∧ (multiplying.core 0).mx.mmas = [someMma] ∧
    (operandBytes someMma.layA (mmaABase someMma.cmd.word) (mmaRows someMma.cmd.word) (mmaK someMma.cmd.word) ++
      operandBytes someMma.layB (mmaBBase someMma.cmd.word) (mmaCols someMma.cmd.word) (mmaK someMma.cmd.word)).findSome?
      (mmaPoison multiplying someMma) = none ∧
    mmaDrains someMma.cmd.word = false ∧ mmaDrains (eng 1 (2 ^ 118)) = true := by decide +kernel
theorem test_mma_rows : ([] : List (List Val)).length ≤ 64 ∧ (List.replicate 64 ([] : List Val)).length ≤ 64 := by decide

/-- MatrixDrains: MX_LOADACC and MX_DRAIN with a free bank and with one that is not, to scratch and to the basket. -/
theorem test_loadacc_free : (queued 0 (eng 3 0)).headOp 0 0 (· = 3) = some (q0 (eng 3 0)) ∧
    mxBank (eng 3 0) < ((queued 0 (eng 3 0)).core 0).mx.banks.length ∧
    ((queued 0 (eng 3 0)).core 0).mx.bankFree (mxBank (eng 3 0)) = true ∧
    ∀ i, i < 64 → (queued 0 (eng 3 0)).scrPoison 0 (fld (eng 3 0) 63 47 * 64 + i * fld (eng 3 0) 119 104 * 64) 256 = none := by
  decide +kernel
theorem test_loadacc_waits : (draining 0 0 (eng 3 0)).headOp 0 0 (· = 3) = some (q0 (eng 3 0)) ∧
    ((draining 0 0 (eng 3 0)).core 0).mx.bankFree (mxBank (eng 3 0)) = false := by decide +kernel
theorem test_drain_free : (queued 0 (eng 4 (2 ^ 119))).headOp 0 0 (· = 4) = some (q0 (eng 4 (2 ^ 119))) ∧
    ((queued 0 (eng 4 (2 ^ 119))).core 0).mx.bankFree (mxBank (eng 4 (2 ^ 119))) = true ∧ tst (eng 4 (2 ^ 119)) 119 = true ∧
    (queued 0 (eng 4 0)).headOp 0 0 (· = 4) = some (q0 (eng 4 0)) ∧ tst (eng 4 0) 119 = false ∧
    ((queued 0 (eng 4 0)).core 0).mx.bankFree (mxBank (eng 4 0)) = true ∧
    Memory.wf (queued 0 (eng 4 0)).scratch = true ∧ Memory.wf (queued 0 (eng 4 (2 ^ 119))).scratch = true := by decide +kernel
theorem test_drain_waits : (draining 0 0 (eng 4 0)).headOp 0 0 (· = 4) = some (q0 (eng 4 0)) ∧
    ((draining 0 0 (eng 4 0)).core 0).mx.bankFree (mxBank (eng 4 0)) = false ∧
    Memory.wf (draining 0 0 (eng 4 0)).scratch = true := by decide +kernel
theorem test_slot_place : ∀ e ∈ [(0, 0), (15, 3), (16, 0)], (draining e.1 e.2 0).coreRuns 0 = true ∧
    ((draining e.1 e.2 0).core 0).mx.drains = [{ cmd := q0 (eng 4 0), bank := 0, tag := 0, quad := e.2, last := none }] ∧
    ((draining e.1 e.2 0).core 0).mx.basket.length = e.1 := by decide +kernel

/-- VectorPlainCommands: each command, the reserved opcodes at their ends and the reserved VX_SMAX, and a run in the way. -/
theorem test_vector_commands : ∀ e ∈ [(0, eng 0 0), (7, eng 7 0), (8, eng 8 0)],
    ((queued 1 e.2).core 0).vx.run = none ∧ (queued 1 e.2).headOp 0 1 (· = e.1) = some (q0 e.2) := by decide +kernel
theorem test_vector_reserved : ∀ e ∈ [(10, 0), (63, 0), (3, 4), (3, 255)],
    ((queued 1 (eng e.1 (e.2 * 2 ^ 114))).core 0).vx.run = none ∧
    (opcOf (eng e.1 (e.2 * 2 ^ 114)) ≠ 3 ∨ 3 < fld (eng e.1 (e.2 * 2 ^ 114)) 121 114) ∧
    (queued 1 (eng e.1 (e.2 * 2 ^ 114))).headOp 0 1 (fun o => decide (o = 3) || decide (10 ≤ o)) =
      some (q0 (eng e.1 (e.2 * 2 ^ 114))) := by decide +kernel

/-- Core 0 with a trail run of command w. -/
def trailing (w : EngCmd) : State :=
  running { Core.reset with vx := { Vx.reset with
    run := some { cmd := q0 w, done := 0, tregs0 := Vx.reset.tregs, sregs0 := Vx.reset.sregs } } }
theorem test_vector_behind_run : ((trailing (eng 9 0)).core 0).vx.run.isSome = true := by decide +kernel

/-- VectorOp: an addition, a comparison, a mask function and a reserved function. -/
def vxOpW (fn : Nat) : EngCmd := eng 1 (fn * 2 ^ 114)
theorem test_vx_op : ∀ fn ∈ [0x00, 0x10, 0x11, 0x40, 0x43, 0xFF],
    (queued 1 (vxOpW fn)).headOp 0 1 (· = 1) = some (q0 (vxOpW fn)) ∧ ((queued 1 (vxOpW fn)).core 0).vx.run = none ∧
    rmOf (fld (vxOpW fn) 89 87) ≠ .sr ∧ ((queued 1 (vxOpW fn)).core 0).vx.masks.length = 8 ∧
    fld (vxOpW fn) 121 114 = fn ∧ fld (vxOpW fn) 85 84 = 0 ∧
    (fn = 0 → fnKind fn = .reg ∧ ¬(fn = 0x3A ∧ isBlk (normTy (fld (vxOpW fn) 98 94)) = true)) ∧
    (fn = 0xFF → fnKind fn = .bad) := by decide +kernel

/-- VectorRowsAndMoves: reductions of both kinds, the four of VX_SMAX, VX_TAKE from an empty basket and from one slot. -/
theorem test_vx_red : ∀ fn ∈ [0, 4, 5, 0xFF],
    (queued 1 (eng 2 (fn * 2 ^ 114))).headOp 0 1 (· = 2) = some (q0 (eng 2 (fn * 2 ^ 114))) ∧
    ((queued 1 (eng 2 (fn * 2 ^ 114))).core 0).vx.run = none ∧
    redKind fn = decide (fn ≠ 0xFF) ∧ fld (eng 2 (fn * 2 ^ 114)) 121 114 = fn ∧
    fld (eng 2 (fn * 2 ^ 114)) 79 78 = 0 ∧ tst (eng 2 (fn * 2 ^ 114)) 77 = false := by decide +kernel
theorem test_vx_smax : ∀ fn ∈ [0, 1, 2, 3],
    (queued 1 (eng 3 (fn * 2 ^ 114))).headOp 0 1 (· = 3) = some (q0 (eng 3 (fn * 2 ^ 114))) ∧
    ((queued 1 (eng 3 (fn * 2 ^ 114))).core 0).vx.run = none ∧ fld (eng 3 (fn * 2 ^ 114)) 121 114 = fn := by decide +kernel

/-- Core 0 with VX_TAKE queued, or at work, and some slots. -/
def takingSlot (q : List QCmd) (t : Option QCmd) (b : List Slot) : State :=
  running { Core.reset with vx := { Vx.reset with queue := q, taking := t }, mx := { Mx.reset with basket := b } }
theorem test_vx_take : ∀ b ∈ [[], [{ hdr := 0, vals := [] }]],
    (takingSlot [q0 (eng 4 0)] none b).headOp 0 1 (· = 4) = some (q0 (eng 4 0)) ∧
    ((takingSlot [q0 (eng 4 0)] none b).core 0).vx.run = none ∧
    ((takingSlot [q0 (eng 4 0)] none b).core 0).vx.taking = none ∧
    ((takingSlot [q0 (eng 4 0)] none b).core 0).vx.masks.length = 8 ∧
    ((takingSlot [q0 (eng 4 0)] none b).core 0).mx.basket = b := by decide +kernel
theorem test_slot_release : ((takingSlot [] (some (q0 (eng 4 0))) []).core 0).vx.taking = some (q0 (eng 4 0)) ∧
    (takingSlot [] (some (q0 (eng 4 0))) []).coreRuns 0 = true := by decide +kernel

/-- A load and a store of INT32 and of FP32 with rows two lines apart. -/
def vxMove (op ty : Nat) : EngCmd := eng op (ty * 2 ^ 112 + 2 * 2 ^ 85)
theorem test_vx_ld : ∀ ty ∈ [0, 8], (queued 1 (vxMove 5 ty)).headOp 0 1 (· = 5) = some (q0 (vxMove 5 ty)) ∧
    ((queued 1 (vxMove 5 ty)).core 0).vx.run = none ∧ fld (vxMove 5 ty) 116 112 = ty ∧
    ∀ r, r < 32 → (queued 1 (vxMove 5 ty)).scrPoison 0
      ((fld (vxMove 5 ty) 63 47 * 64 + r * fld (vxMove 5 ty) 100 85 * 64) % 2 ^ 23) 128 = none := by decide +kernel
theorem test_vx_st : (queued 1 (vxMove 6 8)).headOp 0 1 (· = 6) = some (q0 (vxMove 6 8)) ∧
    ((queued 1 (vxMove 6 8)).core 0).vx.run = none ∧ fld (vxMove 6 8) 116 112 = 8 ∧
    rmOf (fld (vxMove 6 8) 107 105) ≠ .sr ∧ Memory.wf (queued 1 (vxMove 6 8)).scratch = true ∧
    ∀ r r' j, r < 32 → r' < 32 → r ≠ r' → j < 128 →
      128 ≤ runPlace ((fld (vxMove 6 8) 63 47 * 64 + r' * fld (vxMove 6 8) 100 85 * 64) % 2 ^ 23)
        ((fld (vxMove 6 8) 63 47 * 64 + r * fld (vxMove 6 8) 100 85 * 64) % 2 ^ 23 + j) := by
  refine ⟨by decide +kernel, by decide +kernel, by decide +kernel, by decide +kernel, by decide +kernel, ?_⟩
  rw [show fld (vxMove 6 8) 63 47 = 0 by decide +kernel, show fld (vxMove 6 8) 100 85 = 2 by decide +kernel]
  intro r r' j h1 h2 h3 h4
  unfold runPlace
  omega

/-- TrailRun: a run that starts, and one over one tile register with an empty chain. -/
def trunW : EngCmd := eng 9 (2 ^ 120)
theorem test_trun_starts : (queued 1 trunW).headOp 0 1 (· = 9) = some (q0 trunW) ∧ ((queued 1 trunW).core 0).vx.run = none ∧
    ((queued 1 trunW).core 0).vx.taking = none := by decide +kernel
theorem test_trun_completes :
    (trailing trunW).coreRuns 0 = true ∧
    ((trailing trunW).core 0).vx.run = some { cmd := q0 trunW, done := 0, tregs0 := ((trailing trunW).core 0).vx.tregs
                                              sregs0 := ((trailing trunW).core 0).vx.sregs } ∧
    (nth ((trailing trunW).core 0).vx.stages 0 { Stage.reset with en := true }).en = false ∧ fld trunW 121 120 = 1 ∧
    fld trunW 119 118 = 0 ∧ fld trunW 117 116 = 0 ∧ fld trunW 109 108 = 0 ∧ fld trunW 107 102 = 0 := by decide +kernel

/-! ## Stream channels and the check-value unit -/

/-- StreamPlainAndFlags: ST_NOP and the ends of the reserved opcodes on both channels. -/
theorem test_stream_commands : ∀ ch ∈ [0, 1], ∀ o ∈ [0, 5, 63],
    (queued (2 + ch) (eng o 0)).headOp 0 (2 + ch) (· = o) = some (q0 (eng o 0)) ∧
    (o ≠ 0 → (queued (2 + ch) (eng o 0)).headOp 0 (2 + ch) (5 ≤ ·) = some (q0 (eng o 0))) := by decide +kernel

/-- Scratch line 0 holds a descriptor of rank 2 whose stride of dimension 1 is no multiple of 64. -/
def skewed (op : Nat) : State :=
  { running { Core.reset.setQueue 2 [q0 (eng op 0)] with valid := [0] } with scratch := [(38, 1), (62, 16)] }
theorem test_stream_misaligned : ∀ op ∈ [1, 2, 3], (skewed op).headOp 0 2 (· = op) = some (q0 (eng op 0)) ∧
    (((skewed op).core 0).chan 0).copies = [] ∧ (skewed op).copyCheck 0 (eng op 0) = some (.align 0 1 0) := by decide +kernel

/-- A copy under way, and channel 0 of core 0 with a flag queued behind copies. -/
def someCopy : Copy :=
  { n := 3, cmd := q0 (eng 1 0), src := 0, dst := 0, preload := none, list := [], lines := [0], todo := [], got := [], dirs := [0]
    unacked := [], wrote := false, runAhead := false, held := false, hits := 0 }
def flagging (da : Nat) (copies : List Copy) (supp : List Nat) : State :=
  running { Core.reset with ch0 := { Chan.reset with queue := [q0 (eng 4 (da * 2 ^ 64))], copies := copies, supp := supp } }

theorem test_flag_suppressed : (flagging 0 [] [0]).headOp 0 2 (· = 4) = some (q0 (eng 4 0)) ∧ fld (eng 4 0) 120 118 ≠ 4 ∧
    (((flagging 0 [] [0]).core 0).chan 0).flags = [] ∧ (((flagging 0 [] [0]).core 0).chan 0).copies = [] ∧
    (((flagging 0 [] [0]).core 0).chan 0).supp.contains ((flagging 0 [] [0]).dirOf 0 (fld (eng 4 0) 111 64 / 4 * 4)) = true := by
  decide +kernel
theorem test_flag_waits : (flagging 0 [someCopy] []).headOp 0 2 (· = 4) = some (q0 (eng 4 0)) ∧
    (((flagging 0 [someCopy] []).core 0).chan 0).copies = [someCopy] ∧
    (((flagging 0 [someCopy] []).core 0).chan 0).flags = [] ∧
    someCopy.owes ((flagging 0 [someCopy] []).dirOf 0 (fld (eng 4 0) 111 64 / 4 * 4)) = true := by decide +kernel
theorem test_flag_goes : ∀ da ∈ [0, 2 ^ 37 - 4, 2 ^ 40, 2 ^ 40 + 2 ^ 23 - 4],
    (flagging da [] []).headOp 0 2 (· = 4) = some (q0 (eng 4 (da * 2 ^ 64))) ∧ fld (eng 4 (da * 2 ^ 64)) 120 118 ≠ 4 ∧
    fld (eng 4 (da * 2 ^ 64)) 111 64 / 4 * 4 = da ∧ (((flagging da [] []).core 0).chan 0).copies = [] ∧
    (((flagging da [] []).core 0).chan 0).flags = [] ∧
    (((flagging da [] []).core 0).chan 0).supp = [] ∧ Memory.wf (flagging da [] []).scratch = true ∧
    ((flagging da [] []).isScratch da = true ∨ (flagging da [] []).kind da = .stacked) := by decide +kernel

/-- StreamCopies: a copy starts between two tensors of one element in stacked memory. -/
theorem test_copy_starts : (queued 2 (eng 1 0)).headOp 0 2 (· = 1) = some (q0 (eng 1 0)) ∧
    (((queued 2 (eng 1 0)).core 0).chan 0).copies = [] ∧ (queued 2 (eng 1 0)).copyCheck 0 (eng 1 0) = none ∧
    ((queued 2 (eng 1 0)).readList 0 (eng 1 0)).2 = none ∧ lineOf ((queued 2 (eng 1 0)).scrBytes 0 0 64) = 0 := by decide +kernel
theorem test_copy_has_lines (x : Copy) (h1 : x.cmd = q0 (eng 1 0)) (h2 : x.src = 0) (h3 : x.dst = 0)
    (h4 : x.list = ((queued 2 (eng 1 0)).readList 0 (eng 1 0)).1) (h5 : x.preload = none) :
    (queued 2 (eng 1 0)).copyLines x ≠ [] := by
  have h : (queued 2 (eng 1 0)).copyLines x = (queued 2 (eng 1 0)).copyLines { someCopy with
      list := ((queued 2 (eng 1 0)).readList 0 (eng 1 0)).1, runAhead := x.runAhead } := by
    simp only [State.copyLines, State.copyJob, h1, h2, h3, h4, h5, someCopy]
  rw [h]
  cases x.runAhead <;> decide +kernel

/-- Core 0 with a copy on channel 0 and an answer come back. -/
def answering (x : Copy) (f : List Flag) (a : Rsp) : State :=
  running { Core.reset with ch0 := { Chan.reset with copies := [x], flags := f }, inbox := [a] }
theorem test_read_return : ∀ ls ∈ [[0], [0, 64]],
    (answering { someCopy with lines := ls } [] (rsp (.copy 0 0 3) true 0)).clocked = true ∧
    ((answering { someCopy with lines := ls } [] (rsp (.copy 0 0 3) true 0)).core 0).inbox = [rsp (.copy 0 0 3) true 0] ∧
    (((answering { someCopy with lines := ls } [] (rsp (.copy 0 0 3) true 0)).core 0).chan 0).copies =
      [{ someCopy with lines := ls }] ∧ someCopy.n = 3 ∧ someCopy.wrote = false ∧ someCopy.held = false ∧ someCopy.todo = [] ∧
    (rsp (.copy 0 0 3) true 0).isRead = true ∧ (ls.length ≤ [(0, (0 : Line), false)].length ∨ 1 < ls.length) := by decide +kernel

/-- A preload of one line from DA 0 whose line comes. -/
def loading : Copy := { someCopy with preload := some (0, 131071, 1) }
theorem test_preload_return : ((answering loading [] (rsp (.copy 0 0 3) true 5)).core 0).inbox = [rsp (.copy 0 0 3) true 5] ∧
    (((answering loading [] (rsp (.copy 0 0 3) true 5)).core 0).chan 0).copies = [loading] ∧
    loading.lines.length ≤ (loading.got ++ [(0, (5 : Line), false)]).length ∧ loading.preload = some (0, 131071, 1) ∧
    (answering loading [] (rsp (.copy 0 0 3) true 5)).isScratch ((0 + 64 * 0) % 2 ^ 48) = false ∧
    (loading.got ++ [(0, (5 : Line), false)]).find? (fun e => decide (e.1 = (0 + 64 * 0) % 2 ^ 48)) = some ((0 + 64 * 0) % 2 ^ 48, 5, false) ∧
    Memory.wf (answering loading [] (rsp (.copy 0 0 3) true 5)).scratch = true := by decide +kernel

/-- The last acknowledgement of a copy, and that of a flag. -/
def sentFlag : Flag := { cmd := q0 (eng 4 0), sent := true, dir := 0, behind := [], bad := false }
def written : Copy := { someCopy with wrote := true, unacked := [(7, 0)] }
theorem test_copy_ack : (answering written [] (rsp (.copy 0 0 3) false 0)).clocked = true ∧
    ((answering written [] (rsp (.copy 0 0 3) false 0)).core 0).inbox = [rsp (.copy 0 0 3) false 0] ∧
    (((answering written [] (rsp (.copy 0 0 3) false 0)).core 0).chan 0).copies = [written] ∧
    (((answering written [] (rsp (.copy 0 0 3) false 0)).core 0).chan 0).flags = [] ∧ written.n = 3 ∧ written.wrote = true ∧
    written.preload = none ∧ written.unacked = [((rsp (.copy 0 0 3) false 0).id, 0)] ∧
    (rsp (.copy 0 0 3) false 0).isRead = false := by decide +kernel
theorem test_flag_ack : ((answering written [sentFlag] (rsp (.flag 0 0 0) false 0)).core 0).inbox = [rsp (.flag 0 0 0) false 0] ∧
    (((answering written [sentFlag] (rsp (.flag 0 0 0) false 0)).core 0).chan 0).flags = [sentFlag] ∧
    sentFlag.cmd.id = 0 ∧ sentFlag.sent = true := by decide +kernel

/-- An error acknowledgement with a flag waiting behind the copy; a copy whose source descriptor is poisoned. -/
def heldFlag : Flag := { cmd := q0 (eng 4 0), sent := false, dir := 0, behind := [0], bad := false }
def unanswered : Copy := { written with unacked := [(7, 0), (8, 0)] }
def failing : State := answering unanswered [heldFlag] { rsp (.copy 0 0 3) false 0 with bad := true }
theorem test_flag_marked : failing.clocked = true ∧ (failing.core 0).inbox = [{ rsp (.copy 0 0 3) false 0 with bad := true }] ∧
    ((failing.core 0).chan 0).copies = [unanswered] ∧ ((failing.core 0).chan 0).flags = [heldFlag] ∧ unanswered.n = 3 ∧
    unanswered.wrote = true ∧ heldFlag.behind = [unanswered.cmd.id] := by decide +kernel
def poisoned (op : Nat) : State := running { Core.reset.setQueue 2 [q0 (eng op 0)] with poison := [0] }
theorem test_stream_poisoned : ∀ op ∈ [1, 2, 3], (poisoned op).headOp 0 2 (· = op) = some (q0 (eng op 0)) ∧
    (((poisoned op).core 0).chan 0).copies = [] ∧ (poisoned op).copyCheck 0 (eng op 0) = some (.poison 0) := by decide +kernel

/-- CheckUnit: each command of the unit. -/
theorem test_check_unit : ∀ o ∈ [0, 1, 2, 3, 4, 5, 63],
    (queued 4 (eng o 0)).headOp 0 4 (· = o) = some (q0 (eng o 0)) ∧
    (5 ≤ o → (queued 4 (eng o 0)).headOp 0 4 (5 ≤ ·) = some (q0 (eng o 0))) ∧
    (queued 4 (eng o 0)).scrPoison 0 (fld (eng o 0) 63 41) 4 = none ∧ ((queued 4 (eng o 0)).core 0).ck.alive = false ∧
    Memory.wf (queued 4 (eng o 0)).scratch = true := by decide +kernel

/-! ## Sequencer -/

/-- SequencerStraightCode: each instruction at word 0, with its registers in hand. -/
theorem test_sequencer_code : ∀ o ∈ [0, 2, 3, 4, 5, 13, 14, 63],
    (decoding Seq.reset [ins o 0]).instrAt 0 (· = o) = some (ins o 0) ∧
    (14 ≤ o → (decoding Seq.reset [ins o 0]).instrAt 0 (14 ≤ ·) = some (ins o 0)) ∧
    ((decoding Seq.reset [ins o 0]).core 0).seq.loops = [] ∧
    ((decoding Seq.reset [ins o 0]).core 0).seq.awaits (fld (ins o 0) 53 50) = false ∧
    ((decoding Seq.reset [ins o 0]).core 0).seq.pc < ((decoding Seq.reset [ins o 0]).core 0).seq.codew := by decide +kernel
theorem test_midbody (q : Seq) (h : q.loops = []) : q.midBody := by
  intro l hl
  rw [h] at hl
  cases hl
theorem test_sequencer_awaits : ∀ o ∈ [3, 4, 5, 6],
    (decoding { Seq.reset with awaited := [(0, 7, 0)] } [ins o 0]).instrAt 0 (· = o) = some (ins o 0) ∧
    ((decoding { Seq.reset with awaited := [(0, 7, 0)] } [ins o 0]).core 0).seq.awaits (fld (ins o 0) 53 50) = true := by
  decide +kernel
/-- The last word: word 0 with CODEW 63 is not the last; a leg of one word ends. -/
theorem test_last_word : (decoding { Seq.reset with pc := 0 } [ins 0 0]).instrAt 0 (· = 0) = some (ins 0 0) ∧
    (running { Core.reset with seq := { Seq.reset with fetch := [(0, 0, false)] } }).instrAt 0 (· = 0) = some 0 ∧
    ((running { Core.reset with seq := { Seq.reset with fetch := [(0, 0, false)] } }).core 0).seq.codew ≤ 0 := by decide +kernel

/-- LoopsAndBranches. -/
def aLoop (j : Nat) : Lvl := { first := 0, last := 0, count := 2, j := j, ireg := 1, pred := none }
theorem test_loop : ∀ n ∈ [0, 3, 4],
    (decoding { Seq.reset with g := [1], loops := List.replicate n { aLoop 0 with last := 9 } } [ins 10 0]).instrAt 0 (· = 10) = some (ins 10 0) ∧
    ((decoding { Seq.reset with g := [1], loops := List.replicate n { aLoop 0 with last := 9 } } [ins 10 0]).core 0).seq.loops =
      List.replicate n { aLoop 0 with last := 9 } ∧
    ((decoding { Seq.reset with g := [1], loops := List.replicate n { aLoop 0 with last := 9 } } [ins 10 0]).core 0).seq.awaits 0 = false ∧
    0 < min (((decoding { Seq.reset with g := [1], loops := List.replicate n { aLoop 0 with last := 9 } } [ins 10 0]).core 0).seq.reg 0).toNat
      (fld (ins 10 0) 15 0 + 1) ∧ 0 + fld (ins 10 0) 49 32 + 1 = 1 := by decide +kernel
theorem test_loop_zero : (decoding Seq.reset [ins 10 0]).instrAt 0 (· = 10) = some (ins 10 0) ∧
    ((decoding Seq.reset [ins 10 0]).core 0).seq.loops = [] ∧
    min (((decoding Seq.reset [ins 10 0]).core 0).seq.reg (fld (ins 10 0) 57 54)).toNat (fld (ins 10 0) 15 0 + 1) = 0 := by decide +kernel
theorem test_brnz : ∀ off ∈ [0, 1, 2 ^ 24 - 1], ∀ v ∈ [0, 1],
    (decoding { Seq.reset with g := [BitVec.ofNat 32 v] } [ins 11 off]).instrAt 0 (· = 11) = some (ins 11 off) ∧
    ((decoding { Seq.reset with g := [BitVec.ofNat 32 v] } [ins 11 off]).core 0).seq.awaits (fld (ins 11 off) 57 54) = false ∧
    ((decoding { Seq.reset with g := [BitVec.ofNat 32 v] } [ins 11 off]).core 0).seq.reg (fld (ins 11 off) 57 54) = BitVec.ofNat 32 v ∧
    ((decoding { Seq.reset with g := [BitVec.ofNat 32 v] } [ins 11 off]).core 0).seq.loops = [] ∧ fld (ins 11 off) 23 0 = off := by
  decide +kernel
theorem test_loop_round : ∀ j ∈ [0, 1],
    (decoding { Seq.reset with loops := [aLoop j] } [ins 0 0]).instrAt 0 (· = 0) = some (ins 0 0) ∧
    ((decoding { Seq.reset with loops := [aLoop j] } [ins 0 0]).core 0).seq.loops = [aLoop j] ∧
    (aLoop j).last = ((decoding { Seq.reset with loops := [aLoop j] } [ins 0 0]).core 0).seq.pc ∧ (aLoop j).pred = none ∧
    ((aLoop j).j + 1 < (aLoop j).count ∨ (aLoop j).count ≤ (aLoop j).j + 1) ∧
    (aLoop j).first ≤ ((decoding { Seq.reset with loops := [aLoop j] } [ins 0 0]).core 0).seq.codew := by decide +kernel
theorem test_brnz_predicted :
    (decoding { Seq.reset with awaited := [(0, 7, 0)] } [ins 11 1]).instrAt 0 (· = 11) = some (ins 11 1) ∧
    ((decoding { Seq.reset with awaited := [(0, 7, 0)] } [ins 11 1]).core 0).seq.awaitRq (fld (ins 11 1) 57 54) = some 7 ∧
    0 < fld (ins 11 1) 23 0 ∧ ((decoding { Seq.reset with awaited := [(0, 7, 0)] } [ins 11 1]).core 0).seq.loops = [] := by decide +kernel

/-- LdwRoundTrip. -/
theorem test_ldw : (decoding Seq.reset [ins 6 0]).instrAt 0 (· = 6) = some (ins 6 0) ∧
    ((decoding Seq.reset [ins 6 0]).core 0).seq.awaits (fld (ins 6 0) 53 50) = false := by decide +kernel
def awaiting (q : Seq) (a : Rsp) : State := running { Core.reset with seq := q, inbox := [a] }
theorem test_ldw_return : (awaiting { Seq.reset with awaited := [(1, 7, 60)] } (rsp (.ldw 0 1) true 0)).clocked = true ∧
    ((awaiting { Seq.reset with awaited := [(1, 7, 60)] } (rsp (.ldw 0 1) true 0)).core 0).inbox = [rsp (.ldw 0 1) true 0] ∧
    ((awaiting { Seq.reset with awaited := [(1, 7, 60)] } (rsp (.ldw 0 1) true 0)).core 0).seq.awaited = [(1, (rsp (.ldw 0 1) true 0).id, 60)] ∧
    ((awaiting { Seq.reset with awaited := [(1, 7, 60)] } (rsp (.ldw 0 1) true 0)).core 0).seq.specs = [] := by decide +kernel

/-- WaitsAndSemaphores: SEMW with and without an amount, WAITF, FENCE on an empty and on a busy engine. -/
theorem test_waits : ∀ e ∈ [(8, 0), (8, 1), (8, 65535), (9, 0), (12, 31 * 2 ^ 53)],
    (decoding Seq.reset [ins e.1 e.2]).instrAt 0 (· = e.1) = some (ins e.1 e.2) ∧
    ((decoding Seq.reset [ins e.1 e.2]).core 0).seq.specs = [] ∧ ((decoding Seq.reset [ins e.1 e.2]).core 0).seq.loops = [] ∧
    ((decoding Seq.reset [ins e.1 e.2]).core 0).seq.awaits (fld (ins e.1 e.2) 55 52) = false ∧
    (decoding Seq.reset [ins e.1 e.2]).declaredWait 0 ((decoding Seq.reset [ins e.1 e.2]).core 0).seq.waitfs = true ∧
    ((List.range 5).any fun k => (ins e.1 e.2).getLsbD (53 + k) &&
      decide (((decoding Seq.reset [ins e.1 e.2]).core 0).pendingFor k ≠ 0)) = false := by decide +kernel
/-- A FENCE on the matrix engine, which has a command. -/
def fencing : State :=
  running { Core.reset.setQueue 0 [q0 0] with seq := { Seq.reset with
    legHdr := BitVec.ofNat 512 (7 * 2 ^ 332), fetch := [(0, lineOf (bytesOf 8 (ins 12 (2 ^ 53)).toNat), false)] } }
theorem test_fence_waits : fencing.instrAt 0 (· = 12) = some (ins 12 (2 ^ 53)) ∧
    ((List.range 5).any fun k => (ins 12 (2 ^ 53)).getLsbD (53 + k) && decide ((fencing.core 0).pendingFor k ≠ 0)) = true := by
  decide +kernel
def inWaitf (v : Nat) (rq : Option Nat) : Seq := { Seq.reset with wait := .waitf 1 (BitVec.ofNat 32 v) 0 rq 0 }
theorem test_waitf_return : ∀ v ∈ [0, 1],
    (awaiting (inWaitf v (some 7)) (rsp (.waitf 0) true 0)).clocked = true ∧
    ((awaiting (inWaitf v (some 7)) (rsp (.waitf 0) true 0)).core 0).inbox = [rsp (.waitf 0) true 0] ∧ (rsp (.waitf 0) true 0).id = 7 ∧
    ((awaiting (inWaitf v (some 7)) (rsp (.waitf 0) true 0)).core 0).seq.wait = .waitf 1 (BitVec.ofNat 32 v) 0 (some 7) 0 := by decide +kernel
theorem test_waitf_reread : ((awaiting (inWaitf 1 none) (rsp (.waitf 0) true 0)).core 0).seq.wait = .waitf 1 1 0 none 0 ∧
    (awaiting (inWaitf 1 none) (rsp (.waitf 0) true 0)).coreRuns 0 = true := by decide +kernel

/-- A signal of 1 with an observer, channel 1 and the matrix engine waiting on semaphore 31. -/
def waiter : QCmd := q0 (BitVec.ofNat 128 (2 ^ 15 + 31 * 2 ^ 10))
def settling : State :=
  running { (Core.reset.setQueue 3 [waiter]).setQueue 0 [waiter] with seq := { Seq.reset with
    signals := [(31, 1, false)], wait := .semw 31 true 1 } }
theorem test_sem_settle : settling.coreRuns 0 = true ∧ 31 < (settling.core 0).seq.sems.length ∧
    nth (settling.core 0).seq.sems 31 0 = 0 ∧ (settling.core 0).seq.signals = [(31, 1, false)] ∧
    (settling.core 0).seq.wait = .semw 31 true 1 ∧ (settling.core 0).ch0.queue = [] ∧ (settling.core 0).vx.queue = [] ∧
    (settling.core 0).ck.queue = [] ∧ (settling.core 0).ch1.queue = [waiter] ∧ (settling.core 0).mx.queue = [waiter] ∧ waiter.spec = 0 ∧
    waitEn waiter.word = true ∧ waitSem waiter.word = 31 ∧ waiter.released = false := by decide +kernel

/-- RunsAndLegs: an ENG whose next word is not held; the last command of a run. -/
def engAt7 : State := decoding { Seq.reset with pc := 7 } [0, 0, 0, 0, 0, 0, 0, ins 1 0]
theorem test_eng : engAt7.instrAt 0 (· = 1) = some (ins 1 0) ∧ (engAt7.core 0).seq.loops = [] ∧
    (engAt7.core 0).seq.pc + 2 ≤ (engAt7.core 0).seq.codew ∧ (engAt7.core 0).seq.word ((engAt7.core 0).seq.pc + 1) = none ∧
    tst (ins 1 0) 47 = false ∧ tst (ins 1 0) 42 = false := by decide +kernel
def lastOfRun : State := decoding { Seq.reset with run := some { eng := 0, left := 1, ofa := none, ofb := some 64 } } [0, 0]
theorem test_eng_run : (lastOfRun.core 0).seq.run = some { eng := 0, left := 1, ofa := none, ofb := some 64 } ∧
    lastOfRun.mayDecode 0 = true ∧ (lastOfRun.core 0).seq.loops = [] ∧
    (lastOfRun.core 0).seq.pc + 1 ≤ (lastOfRun.core 0).seq.codew ∧ (lastOfRun.core 0).seq.word 0 = some (0, false) ∧
    (lastOfRun.core 0).seq.word 1 = some (0, false) := by decide +kernel
theorem test_leg_start : (inPhase .header Core.reset).coreRuns 0 = true ∧ ((inPhase .header Core.reset).core 0).seq.phase = .header ∧
    ((inPhase .header Core.reset).core 0).seq.hdrs = [] ∧ ((inPhase .header Core.reset).core 0).seq.plen = 0 := by decide +kernel
def preloaded : State :=
  inPhase .preload { Core.reset with ch0 := { Chan.reset with copies := [{ loading with wrote := true }] } }
theorem test_preload_complete : preloaded.coreRuns 0 = true ∧ (preloaded.core 0).seq.phase = .preload ∧
    ((preloaded.core 0).ch0.copies.find? fun x => x.preload.isSome && x.finished) = some { loading with wrote := true } ∧
    preloaded.pcPoisoned 0 = false := by decide +kernel
def fetched (own : Owner) : State := running { Core.reset with
  seq := { Seq.reset with fetching := [(9, 7)], hdrs := [(2, 7)], fetch := List.replicate 128 (0, 0, false) }
  inbox := [rsp own true 0] }
theorem test_fetch_return : (fetched (.fetch 0 9)).clocked = true ∧ ((fetched (.fetch 0 9)).core 0).inbox = [rsp (.fetch 0 9) true 0] ∧
    ((9, 7) ∈ ((fetched (.fetch 0 9)).core 0).seq.fetching) ∧ ((fetched (.fetch 0 9)).core 0).seq.fetch.length = 128 := by decide +kernel
theorem test_header_return : ((fetched (.list 0 2)).core 0).inbox = [rsp (.list 0 2) true 0] ∧
    ((2, 7) ∈ ((fetched (.list 0 2)).core 0).seq.hdrs) ∧ ((fetched (.list 0 2)).core 0).seq.legHdr = 0 ∧
    ((fetched (.list 0 2)).listDa 0 + 64 * (((fetched (.list 0 2)).core 0).seq.leg + 1)) % 64 = 0 := by decide +kernel
def drained : State := inPhase .drain { Core.reset with seq := { Seq.reset with legHdr := BitVec.ofNat 512 (2 ^ 440) } }
theorem test_leg_drain : drained.coreRuns 0 = true ∧ (drained.core 0).seq.phase = .drain ∧ (drained.core 0).seq.specs = [] ∧
    (drained.core 0).inFlight = 0 ∧ (drained.core 0).ch0.copies = [] ∧ (drained.core 0).ch1.copies = [] ∧
    drained.legPlan 0 = none ∧ (drained.core 0).ch0.supp = [] ∧ (drained.core 0).ch1.supp = [] ∧
    (drained.core 0).seq.cadd = false ∧ drained.isScratch (drained.core 0).seq.cda = true := by decide +kernel
theorem test_leg_drain_mem : drained.memOk := ⟨rfl, rfl, rfl⟩
def flagged (legs : Nat) : State := inPhase .flag { Core.reset with
  seq := { Seq.reset with flagRq := 7, coreHdr := BitVec.ofNat 512 (legs * 2 ^ 64) }, inbox := [rsp (.legFlag 0) false 0] }
theorem test_flag_done : ∀ n ∈ [0, 1], (flagged n).clocked = true ∧ ((flagged n).core 0).inbox = [rsp (.legFlag 0) false 0] ∧
    ((flagged n).core 0).seq.phase = .flag ∧ ((flagged n).core 0).seq.flagRq = 7 ∧
    ((flagged n).core 0).seq.nleg = n + 1 ∧ ((flagged n).core 0).seq.leg = 0 := by decide +kernel

/-! ## Registers -/

/-- RegisterAccesses: a requester that reaches the registers, sizes and offsets at their ends. -/
theorem test_registers : (up .ready).canReach .buaman = true ∧ (2 : Nat) ≠ 4 ∧ (2 : Nat) ≠ 8 ∧ (BitVec.ofNat 48 4).toNat % 8 ≠ 0 ∧
    7 < (up .ready).fuses.part.tiles ∧ 63 < 64 ∧ 1 < 2 ∧ 135 < 17 * (up .ready).fuses.part.tiles := by decide +kernel

/-- MapAndModeWrites: commits by Buaman in READY of a good and of a bad window table, one in a running step, one done. -/
def windows (w : List (BitVec 64)) : State :=
  { up .ready with dev := { (up .ready).dev with staged := w, mapBusy := true } }
theorem test_map_commit : (up .ready).canReach .buaman = true ∧ tst (BitVec.ofNat 32 (2 ^ 31)) 31 = true ∧
    (up .ready).mayConfigure .buaman = true ∧ (up .ready).isIdle = true ∧ (up .ready).mapCheck.1 = 0 ∧
    (up .running).isIdle = false ∧ (up .running).canReach .buaman = true ∧ 
    ({ up .ready with ports := [(1, { Port.reset with up := true, bme := true })] } : State).mayConfigure (.port 1) = false ∧
    ({ up .ready with ports := [(1, { Port.reset with up := true, bme := true })] } : State).canReach (.port 1) = true := by
  decide +kernel
theorem test_map_bad : 0 < (windows [BitVec.ofNat 64 (2 ^ 63)]).mapCheck.1 ∧ (windows []).clocked = true ∧
    (windows []).dev.mapBusy = true := by decide +kernel
theorem test_mode_store : (up .ready).tilePresent 7 = true ∧ tst (1 : BitVec 32) 0 ≠ ((up .ready).tile 7).clotu ∧
    tst (0 : BitVec 32) 0 = ((up .ready).tile 7).clotu ∧ (up .ready).unbooked = true ∧
    fld (BitVec.ofNat 64 (2 ^ 51)) 51 42 ≠ (up .ready).mirror.storeBase.toNat ∧ (up .ready).mirror.hvalid = false ∧
    (up .ready).mirror.wb = [] ∧ (up .running).unbooked = false := by decide +kernel

/-- BarAccesses: a port that is up, at both ends of the BARs, a map commit running. -/
def portState (s : State) (p : Port) : State := { s with ports := [(0, p)] }
def upPort : Port := { Port.reset with up := true, bme := true, rate := 6, width := 16, cxlMem := true, cxlCache := true }
def busyMap (s : State) : State := { s with dev := { s.dev with mapBusy := true } }
theorem test_bars : (busyMap (portState (up .ready) upPort)).portUp 0 = true ∧ (0 : Nat) % 8 = 0 ∧ (2 ^ 28 - 8) % 8 = 0 ∧
    2 ^ 28 - 8 < 2 ^ 28 ∧ 2 ^ 34 - 8 < 2 ^ 34 ∧ (busyMap (portState (up .ready) upPort)).clocked = true ∧
    (busyMap (portState (up .ready) upPort)).dev.mapBusy = true ∧
    (busyMap (portState (up .ready) upPort)).fencedByPlan
      ((((busyMap (portState (up .ready) upPort)).port 0).apbase.toNat * 2 ^ 34 + (2 ^ 34 - 8)) / 64 * 64) = false ∧
    2 ^ 16 ≤ 2 ^ 17 - 8 ∧ 2 ^ 17 - 8 + 8 ≤ 2 ^ 17 := by decide +kernel

/-! ## Address map, crossings, vaults -/

/-- AddressOrdersAreOneToOne: both ends of the ranges. -/
theorem test_orders : (0 : Nat) < 4 ∧ 3 < 4 ∧ (0 : Nat) < 2 ^ 37 ∧ 2 ^ 37 - 64 < 2 ^ 37 ∧ (2 ^ 37 - 64) % 64 = 0 := by decide

/-- A read, and a state whose crossings are given. -/
def rq0 (kind : RqKind) : Rq :=
  { id := 1, own := .host 0, kind := kind, da := 0, ask := 0, via := 0, tile := 0, vault := 0, line := 0, mask := fullMask, data := 0, poison := false
    hint := 0, mis := 0 }
def withXings (l : List (Nat × Xing)) : State := { up .ready with xings := l }
def full (n : Nat) : Xing := { Xing.reset with fifo := List.replicate n (.rq (rq0 .read), []) }

/-- CrossingsCarryItems. -/
theorem test_crossing_take : ∀ n ∈ [0, 15, 16],
    (withXings [(0, { Xing.reset with fifo := [(.rq (rq0 .read), [128])] }), (128, full n)]).clocked = true ∧
    ((withXings [(0, { Xing.reset with fifo := [(.rq (rq0 .read), [128])] }), (128, full n)]).xing 0).fifo = [(.rq (rq0 .read), [128])] ∧
    (withXings [(0, { Xing.reset with fifo := [(.rq (rq0 .read), [128])] }), (128, full n)]).deadXing 128 = false ∧
    ((withXings [(0, { Xing.reset with fifo := [(.rq (rq0 .read), [128])] }), (128, full n)]).xing 128).fifo.length = n ∧
    ((withXings [(0, { Xing.reset with fifo := [(.rq (rq0 .read), [128])] }), (128, full n)]).xing 128).half = .running := by decide +kernel
def backAnswers (n : Nat) : Xing :=
  { Xing.reset with fifo := List.replicate n (.rsp (rsp (.host 0) true 0), []) }
theorem test_crossing_reset : ((withXings []).xing 0).half = .running ∧ ((withXings []).xing 0).fifo = [] ∧
    ((withXings []).xing 0).back = [] ∧ (withXings []).deadXing 0 = false ∧ (withXings [(0, backAnswers 16)]).deadXing 0 = false ∧
    ((withXings [(0, backAnswers 16)]).xing 0).half = .running := by decide +kernel
theorem test_crossing_answers : ∀ e ∈ ((withXings [(0, backAnswers 16)]).xing 0).fifo, ∃ a, e.1 = .rsp a := by
  intro e he
  have h : e ∈ List.replicate 16 (Item.rsp (rsp (.host 0) true 0), ([] : List Nat)) := he
  exact ⟨_, by rw [List.eq_of_mem_replicate h]⟩
theorem test_crossing_release : ∀ n ∈ [0, 16],
    ((withXings [(0, { Xing.reset with half := .held, back := (full n).fifo })]).xing 0).half = .held ∧
    ((withXings [(0, { Xing.reset with half := .held, back := (full n).fifo })]).xing 0).back.length ≤ 16 ∧
    ((withXings [(0, { Xing.reset with half := .held, back := (full n).fifo })]).xing 0).fifo = [] ∧
    (withXings [(0, { Xing.reset with half := .held, back := (full n).fifo })]).deadXing 0 = false := by decide +kernel

/-- VaultQueues: a request at the vault's crossing, the queue empty and full. -/
def atVault (r : Rq) (n : Nat) : State :=
  { withXings [(128, { Xing.reset with fifo := [(.rq r, [])] })] with
    vaults := [(0, { Vault.reset with queue := List.replicate n { rq := r, passed := 0, acked := false } })] }
theorem test_vault_accept : ∀ k ∈ [RqKind.read, .write, .acc 4], ∀ n ∈ [0, 63, 64], (atVault (rq0 k) n).clocked = true ∧
    ((atVault (rq0 k) n).xing 128).half = .running ∧ ((atVault (rq0 k) n).xing 128).fifo = [(.rq (rq0 k), [])] ∧
    ((atVault (rq0 k) n).vault 0 0).queue.length = n ∧ (rq0 k).mis = 0 ∧ ((atVault (rq0 k) n).port 0).filter.contains 0 = false ∧
    ((atVault (rq0 k) n).port 1).filter.contains 0 = false ∧
    (atVault (rq0 k) n).granuleValid 0 ((atVault (rq0 k) n).granuleOf (placeOf 0 0 0)) = false := by decide +kernel

/-- A request chosen: a read of an invalid granule; a write and an accumulation on a valid one. -/
def servable (r : Rq) (g : List Nat) : State :=
  { up .ready with
    vaults := [(0, { Vault.reset with queue := [{ rq := r, passed := 0, acked := false }] })], tiles := [(0, { Tile.reset with granules := g })] }
theorem test_vault_serve : (servable (rq0 .read) []).mayServe 0 0 0 = some { rq := rq0 .read, passed := 0, acked := false } ∧
    (servable (rq0 .read) []).granuleValid 0 ((servable (rq0 .read) []).granuleOf (placeOf 0 0 0)) = false ∧
    (servable (rq0 .write) [0]).mayServe 0 0 0 = some { rq := rq0 .write, passed := 0, acked := false } ∧ (rq0 .write).mask = fullMask ∧
    (servable (rq0 (.acc 4)) [0]).mayServe 0 0 0 = some { rq := rq0 (.acc 4), passed := 0, acked := false } ∧
    ((servable (rq0 .write) [0]).tile 0).clotu = false ∧ tst ((servable (rq0 .write) [0]).vault 0 0).flipctl 63 = false ∧
    Memory.wf (servable (rq0 .write) [0]).mem = true := by decide +kernel
theorem test_acc_line : decodeLine none ((servable (rq0 (.acc 4)) [0]).stored (placeOf 0 0 0)) = .clean 0 := by decide +kernel
def combining (bad : Bool) : State :=
  { up .ready with vaults := [(0, { Vault.reset with rmw := [{ rq := rq0 (.acc 4), line := 0, bad := bad }] })] }
theorem test_acc_combine : ∀ b ∈ [false, true], (combining b).clocked = true ∧ (combining b).vaultUsable 0 0 = true ∧
    ((combining b).vault 0 0).rmw = [{ rq := rq0 (.acc 4), line := 0, bad := b }] ∧ Memory.wf (combining b).mem = true ∧
    ((combining b).tile 0).clotu = false := by decide +kernel
theorem test_acc_elements : (BitVec.ofNat 64 (2 ^ 60)).getLsbD (4 * 15) = true ∧ (0 : BitVec 64).getLsbD (4 * 15) = false := by decide +kernel

/-- VaultUpkeep. -/
theorem test_granule_fill : ({ up .ready with tiles := [(0, { Tile.reset with filling := [33554431] })] } : State).clocked = true ∧
    ({ up .ready with tiles := [(0, { Tile.reset with filling := [33554431] })] } : State).tileUsable 0 = true ∧
    (({ up .ready with tiles := [(0, { Tile.reset with filling := [33554431] })] } : State).tile 0).filling.contains 33554431 = true := by
  decide +kernel
def vaultState (x : Vault) : State := { up .ready with vaults := [(0, x)] }
theorem test_upkeep_plain : (vaultState Vault.reset).clocked = true ∧ (vaultState Vault.reset).vaultUsable 0 0 = true ∧
    ((vaultState Vault.reset).vault 0 0).kernels = [none, none, none, none] ∧ ((vaultState Vault.reset).vault 0 0).queue = [] ∧
    nth ((vaultState Vault.reset).vault 0 0).refBal 7 0 < 4 ∧ nth ((vaultState Vault.reset).vault 0 0).refreshing 7 false = false ∧
    ((vaultState Vault.reset).vault 0 0).calSlot = false := by decide +kernel
def owing (n : Int) (on : Bool) : Vault :=
  { Vault.reset with
    refBal := List.replicate 8 n, refreshing := List.replicate 8 on, refRound := List.replicate 8 8191
    acts := List.replicate 8 [(5, 1024)], calSlot := true, bandNotice := some 1 }
theorem test_upkeep_owing : 4 ≤ nth ((vaultState (owing 4 false)).vault 0 0).refBal 7 0 ∧
    nth ((vaultState (owing 4 false)).vault 0 0).refreshing 7 false = false ∧
    nth ((vaultState (owing 0 true)).vault 0 0).refreshing 7 false = true ∧ nth ((vaultState (owing 0 true)).vault 0 0).refBal 7 0 ≤ 0 ∧
    ((vaultState (owing 0 true)).vault 0 0).calSlot = true ∧
    nth ((vaultState (owing 0 true)).vault 0 0).refRound 7 0 + 1 = 8192 ∧
    nth ((vaultState (owing 4 false)).vault 0 0).acts 7 [] = [(5, 1024)] ∧
    max 64 ((vaultState (owing 4 false)).vault 0 0).thresh.toNat ≤ 1024 ∧ ((vaultState (owing 0 false)).vault 0 0).calSlot = true ∧
    (∀ b, b < 8 → nth ((vaultState (owing 0 false)).vault 0 0).refBal b 0 ≤ 0) ∧
    ((vaultState (owing 0 false)).vault 0 0).bandNotice = some 1 := by decide +kernel
def refreshed : Vault := { Vault.reset with refreshing := List.replicate 8 true }
theorem test_upkeep_pulled_in : nth ((vaultState refreshed).vault 0 0).refreshing 7 false = true ∧
    nth ((vaultState refreshed).vault 0 0).refBal 7 0 ≤ 0 ∧ -4 < nth ((vaultState refreshed).vault 0 0).refBal 7 0 ∧
    ((vaultState refreshed).vault 0 0).calSlot = false ∧ ((vaultState refreshed).vault 0 0).refreshing.length = 8 ∧
    ((vaultState refreshed).vault 0 0).kernels = [none, none, none, none] := by decide +kernel

/-- VaultErrors: a granule to scrub, the events of a layer, uncorrectable lines beside an erased layer, no step. -/
def scrubbed : State := { up .ready with tiles := [(0, { Tile.reset with granules := [0] })] }
theorem test_scrub : scrubbed.clocked = true ∧ scrubbed.vaultUsable 0 0 = true ∧ (scrubbed.vault 0 0).calSlot = false ∧
    (scrubbed.vault 0 0).calibrating = false ∧ (scrubbed.vault 0 0).interval ≠ 0 ∧ (scrubbed.vault 0 0).rmw = [] ∧
    tst (scrubbed.vault 0 0).flipctl 63 = false ∧
    ((firstFrom (scrubbed.scrubLines 0 0) (scrubbed.vault 0 0).pos.toNat).map fun l => (l.tile, l.vault, nth (scrubbed.vault 0 0).refreshing l.bs false,
      (scrubbed.vault 0 0).neighbourDue l.bs, (scrubbed.vault 0 0).kernelOn l.bs,
      decide (decodeLine none (scrubbed.stored l) = .clean 0))) = some (0, 0, false, false, false, true) ∧
    (scrubbed.tile 0).clotu = false ∧ scrubbed.running = false := by decide +kernel
def troubled : Vault := { Vault.reset with layerEvents := List.replicate 8 (9, 0) }
theorem test_layer_erase : (vaultState troubled).clocked = true ∧ ((vaultState troubled).vault 0 0).erased = none ∧
    within1ms (max 1 ((vaultState troubled).tile 0).eraseThresh.toNat)
      ((((vaultState troubled).vault 0 0).layerEvents.filter fun e => e.1 = 9).map Prod.snd) = true := by decide +kernel
theorem test_vault_lost : ({ Vault.reset with erased := some 0, ueTimes := List.replicate 64 0 } : Vault).erased.isSome = true ∧
    within1ms 64 ({ Vault.reset with erased := some 0, ueTimes := List.replicate 64 0 } : Vault).ueTimes = true := by decide +kernel

/-! ## Bank units -/

/-- Vault 0 of a device in BOOT or with its row 0 in bank mode; every group's unit of layer l and pair 3 runs with
instruction op at entry 63. -/
def bankState (d : DevState) (l : Nat) (w : BitVec 32) (openRow : Option Nat) : State :=
  { up d with
    dev := { (up d).dev with ranges := (some (0, 2 ^ 37)) :: List.replicate 7 none }
    units := [(unitKey 0 0 l 3, { BankUnit.reset with ready := false, pc := 63, store := [(63, w)] })]
    vaults := [(0, { Vault.reset with openRow := List.replicate 8 openRow })] }

/-- BankUnitPrograms, first clause: every register instruction at entry 63 of the unit of layer 9, pair 3. -/
theorem test_bank_registers : ∀ op ∈ [0, 1, 2, 3, 4, 5, 9, 10, 11, 12, 14],
    (bankState .bank 9 (BitVec.ofNat 32 (op * 2 ^ 27)) none).buAt 0 0 9 3 op = true ∧
    (bankState .bank 9 (BitVec.ofNat 32 (op * 2 ^ 27)) none).reachCol 0 0 9 3 0 = none := by decide +kernel
/-- Second clause: columns reached in bank mode and in BOOT, and the reserved opcodes. -/
theorem test_bank_columns : ∀ op ∈ [6, 7, 8, 13], ∀ e ∈ [(DevState.bank, 7), (DevState.boot, 9)],
    (bankState e.1 e.2 (BitVec.ofNat 32 (op * 2 ^ 27)) (some 0)).buAt 0 0 e.2 3 op = true ∧
    (bankState e.1 e.2 (BitVec.ofNat 32 (op * 2 ^ 27)) (some 0)).reachCol 0 0 e.2 3 0 =
      some { tile := 0, vault := 0, bs := 6, row := 0, col := 0 } ∧ (e.2 < 8 ∨ e.1 = .boot) ∧
    ((bankState e.1 e.2 (BitVec.ofNat 32 (op * 2 ^ 27)) (some 0)).vault 0 0).erased = none ∧
    Memory.wf (bankState e.1 e.2 (BitVec.ofNat 32 (op * 2 ^ 27)) (some 0)).mem = true := by decide +kernel
theorem test_bank_reserved : ∀ op ∈ [15, 31], fld (BitVec.ofNat 32 (op * 2 ^ 27)) 31 27 = op ∧
    (bankState .bank 0 (BitVec.ofNat 32 (op * 2 ^ 27)) none).buAt 0 0 0 3 op = true := by decide +kernel
/-- CHK matching a column of zeros, and one that differs. -/
theorem test_bank_chk : ∀ i, i < 4 → BitVec.ofNat 16 (ofBytes (memRead (bankState .bank 7 0 (some 0)).mem
    (lineKey 0 0 0 + 8 * 7 + 2 * i) 2)) = nth BankUnit.reset.h 0 0 := by decide +kernel

/-- BankBus: every unit ready, or a unit that runs addressed alone, in BANK and in BOOT. -/
theorem test_bank_bus : (up .bank).busRuns 0 63 = true ∧ (up .boot).busRuns 7 0 = true ∧
    (up .bank).allReady (groupUnits 0 63 3) = true ∧ (bankState .bank 9 0 none).busRuns 0 0 = true ∧
    ((bankState .bank 9 0 none).unit (unitKey 0 0 9 3)).ready = false ∧ (up .boot).dev.state = .boot ∧ (up .bank).dev.state ≠ .boot ∧
    fld (BitVec.ofNat 16 (9 * 2 ^ 8 + 3 * 2 ^ 6)) 11 8 = 9 ∧ fld (BitVec.ofNat 16 (9 * 2 ^ 8 + 3 * 2 ^ 6)) 7 6 = 3 := by decide +kernel

/-- BankKernels: a job without results, the group of pair 3 with a kernel, its units ready or not, a run left or none. -/
def jobState (ready : Bool) (todo : List (Nat × Nat × Nat × Nat)) : State :=
  { up .bank with
    dev := { (up .bank).dev with job := some ({ src := .hp0, pkt := BitVec.ofNat 512 (2 ^ 254), w0 := 0, w1 := 0 }, []) }
    vaults := [(0, { Vault.reset with kernels := [none, none, none, some (6, 0, 0, 1)], todo := [[], [], [], todo] })]
    units := (groupUnits 0 0 3).map fun k => (k, { BankUnit.reset with ready := ready, pc := 1 }) }
theorem test_kernels : ∀ r ∈ [true, false], ∀ l ∈ [[], [(7, 16383, 0, 255)]], (jobState r l).busRuns 0 0 = true ∧
    (nth ((jobState r l).vault 0 0).kernels 3 none).isSome = true ∧ (jobState r l).dev.job.isSome = true ∧
    ((jobState r l).dev.job.map fun j => jobB j.1.pkt) = some 0 ∧ nth ((jobState r l).vault 0 0).todo 3 [] = l ∧
    (jobState r l).dev.jobStop = false ∧ nth ((jobState r l).vault 0 0).refreshing 7 false = false ∧
    ((jobState r l).vault 0 0).calSlot = false ∧ ((jobState r l).vault 0 0).neighbourDue 7 = false ∧
    (jobState r l).allReady (groupUnits 0 0 3) = r ∧ ((jobState r l).vault 0 0).openRow.length = 8 ∧
    ∀ y, y < 10 → ((jobState r l).unit (unitKey 0 0 y 3)).h.length = 8 := by decide +kernel

/-! ## Host ports -/

/-- HostLinkLosses: a port up, in recovery, with a BISnp outstanding, and down; a locked translation; a booked plan. -/
def hostState (p : Port) : State := portState (up .ready) p
theorem test_link_losses : (hostState upPort).awake = true ∧ ((hostState upPort).port 0).up = true ∧
    ((hostState upPort).port 0).losing = none ∧ ((hostState { upPort with recovering := true }).port 0).recovering = true ∧
    ((hostState { upPort with bisnp := [0] }).port 0).bisnp ≠ [] ∧ ((hostState Port.reset).port 0).up = false := by decide +kernel
theorem test_recovery_repeat : ((hostState { upPort with lastRecovery := some 1 }).port 0).lastRecovery = some 1 ∧
    (hostState { upPort with lastRecovery := some 1 }).cycles (.host 0) < 1 + 2000000 := by
  refine ⟨by decide +kernel, ?_⟩
  simp [State.cycles, hostState, portState, up, State.reset, sumTo]
def lockedPage : Atc := { page := 0, log2 := 12, hpa := 0, locked := true }
def bookedRq : HostRq := { rq := rq0 .read, sent := true }
def narrowing : State :=
  portState (up .booked) { upPort with recovering := true, bookWidth := 16 }
theorem test_losses_without_reset : ((hostState upPort).port 0).bme = true ∧ (portState (up .booked) upPort).planBooked = true ∧
    ((portState (up .booked) { upPort with hostRqs := [bookedRq] }).port 0).hostRqs ≠ [] ∧
    (∃ e ∈ ((hostState { upPort with atc := [lockedPage] }).port 0).atc, e.locked = true ∧ pagesMeet e.page.toNat e.log2 0 12 = true) ∧
    narrowing.awake = true ∧ (narrowing.port 0).recovering = true ∧ (narrowing.port 0).heldMsix = List.replicate 8 (false, false) ∧
    narrowing.planBooked = true ∧ 8 < (narrowing.port 0).bookWidth ∧ 8 < (narrowing.port 0).width := by
  refine ⟨by decide +kernel, by decide +kernel, by decide +kernel, ⟨lockedPage, ?_⟩, by decide +kernel⟩
  decide +kernel

/-- HostLinkStatesAndReset: training at both ends of the rates, a recovery, a message due and none, a loss. -/
theorem test_link_up : (hostState Port.reset).awake = true ∧ ((hostState Port.reset).port 0).losing = none ∧
    ((hostState Port.reset).port 0).perst = false ∧ (hostState Port.reset).dev.state ≠ .grey ∧ 1 ≤ 6 ∧
    ((hostState upPort).port 0).recovering = false ∧ ((hostState upPort).port 0).lastRecovery = none ∧
    ((hostState { upPort with recovering := true }).port 0).heldMsix = List.replicate 8 (false, false) ∧
    8 < ((hostState { upPort with recovering := true }).port 0).width ∧ (hostState upPort).planBooked = false := by decide +kernel
def dueMsix (due : Bool) : Port :=
  { upPort with heldMsix := List.replicate 8 (true, due), masked := List.replicate 8 false }
theorem test_holdoff : ∀ due ∈ [false, true], nth ((hostState (dueMsix due)).port 0).heldMsix 7 (false, false) = (true, due) ∧
    ((hostState (dueMsix due)).port 0).up = true ∧ nth ((hostState (dueMsix due)).port 0).masked 7 true = false ∧
    7 < ((hostState (dueMsix due)).port 0).heldMsix.length ∧ ((hostState (dueMsix due)).port 0).recovering = false := by decide +kernel
theorem test_link_loss : ((hostState { upPort with losing := some 0xB }).port 0).losing = some 0xB ∧
    (hostState { upPort with losing := some 0xB }).awake = true := by decide +kernel

/-- HostAnswers: a write and a cached read outstanding, pages to invalidate and to grant. -/
theorem test_host_answers : ∀ k ∈ [RqKind.read, .write], (hostState { upPort with hostRqs := [{ rq := rq0 k, sent := true }] }).portUp 0 = true ∧
    ((hostState { upPort with hostRqs := [{ rq := rq0 k, sent := true }] }).port 0).rqOf 1 = some (rq0 k) ∧
    ((hostState { upPort with hostRqs := [{ rq := rq0 k, sent := true }] }).port 0).sendable (rq0 k) = true ∧
    Memory.wf (hostState { upPort with hostRqs := [{ rq := rq0 k, sent := true }] }).hostMem = true := by decide +kernel
theorem test_host_pages : ((hostState { upPort with pageReqs := [5] }).port 0).pageReqs.contains 5 = true ∧
    ((hostState { upPort with pageReqs := [5] }).port 0).hostRqs = [] ∧ ((hostState { upPort with pageReqs := [5] }).port 0).atc.length < 4096 ∧
    (hostState upPort).dev.long = none ∧
    (∀ e ∈ ((hostState { upPort with atc := [{ lockedPage with locked := false }] }).port 0).atc, e.locked = true →
      pagesMeet e.page.toNat e.log2 0 12 = false) ∧ (Owner.ldw 0 0).cached = true := by
  refine ⟨by decide +kernel, by decide +kernel, by decide +kernel, by decide +kernel, ?_, by decide +kernel⟩
  intro e he hl
  have h : e ∈ [{ lockedPage with locked := false }] := he
  rw [List.mem_singleton.mp h] at hl
  cases hl

/-- HostRequests: a decoder over tile 0, no fence and one, a map commit, a BISnpInv outstanding; decoders that fit and not. -/
def decoder0 : HdmDecoder := { hpaBase := 0, size := 2 ^ 37, dpaBase := 0, ways := 1, gran := 256 }
def decoding0 (fences : List (Nat × Nat)) (busy : Bool) : State :=
  { portState (up .ready) { upPort with hdm := [some decoder0, none] } with
    dev := { (up .ready).dev with fences := fences, mapBusy := busy } }
theorem test_host_requests : (decoding0 [] false).portUp 0 = true ∧ ((decoding0 [] false).port 0).cxlMem = true ∧
    ((decoding0 [] false).port 0).decode (2 ^ 37 - 64) = some (2 ^ 37 - 64) ∧ (decoding0 [(0, 1)] false).fencedByPlan 0 = true ∧
    (decoding0 [] true).fencedByPlan 0 = false ∧ (decoding0 [] true).dev.mapBusy = true ∧ (decoding0 [] false).entering 0 = false ∧
    ((decoding0 [] false).port 0).victim 0 = none ∧ 2 ^ 37 - 64 < (decoding0 [] false).stackedTop := by decide +kernel
theorem test_bisnp_answer : ((hostState { upPort with bisnp := [1] }).port 0).bisnp.contains (0 + 1) = true ∧
    ((hostState { upPort with bisnp := [1] }).port 0).waitBi = [] ∧ ((hostState { upPort with bisnp := [1] }).port 0).heldRqs = [] ∧
    ((hostState { upPort with bisnp := [1] }).port 0).recallWait = [] := by decide +kernel
theorem test_decoders : (hostState upPort).hdmOk 0 decoder0 = true ∧
    (hostState upPort).stackedTop < (2 ^ 40) + decoder0.size / max 1 decoder0.ways ∧
    nth (decoding0 [] false).ports 0 (0, Port.reset) = (0, { upPort with hdm := [some decoder0, none] }) ∧
    (decoding0 [] false).hdmOk 1 decoder0 = false := by decide +kernel

/-! ## The command protocol -/

/-- A packet with opcode o, generation 1, and bits above. -/
def pkt (o bits : Nat) : BitVec 512 := BitVec.ofNat 512 (o + 2 ^ 32 + bits)
/-- The device in a state, with a long command in progress and one deferred. -/
def longState (d : DevState) (l f : Option Long) : State :=
  { up d with dev := { (up d).dev with long := l, deferred := f } }
def someLong (o bits : Nat) : Long := { src := .hp0, pkt := pkt o bits, w0 := 0, w1 := 0 }

/-- CommandChecks: a state for each of its clauses. -/
theorem test_gate_states : ∀ d ∈ [DevState.ready, .degraded, .booked, .running, .halted, .bank, .grey], (up d).takes .hp0 = true ∧
    (up d).longBusy = false ∧ pktGen (pkt 0x08 0) = (up d).dev.gen.toNat ∧ Src.code .hp0 = (up d).dev.owner := by decide +kernel
theorem test_gate_refusals : (up .boot).takes .hp0 = false ∧ ({ up .ready with mirror := { Mirror.reset with en := true } } : State).takes .partner = true ∧
    (up .ready).takes .hp1 = true ∧ Src.code .hp1 ≠ (up .ready).dev.owner ∧ pktGen (pkt 0x08 (2 ^ 32)) ≠ (up .ready).dev.gen.toNat ∧
    (longState .ready (some (someLong 0x08 0)) none).dev.long.isSome = true ∧ pktForce (pkt 0x48 0) = false := by decide +kernel
theorem test_gate_deferred : ∀ f ∈ [none, some (someLong 0x28 0)], (longState .booked none f).takes .hp0 = true ∧
    (longState .booked none f).dev.deferred = f ∧ (longState .booked none f).longBusy = false ∧ (longState .booked none f).planBooked = true ∧
    (longState .booked none f).dev.long = none ∧ (pktFl (pkt 0x28 (2 ^ 304))).testBit 0 = true := by decide +kernel
/-- A SELFTEST by HP0 is a row of the table. -/
theorem test_gate_row : (Instr.selftest .hp0 (pkt 0x28 0), 0x28) ∈ commandRows .hp0 (pkt 0x28 0) := by simp [commandRows]

/-- StatusRecords and CommandRings: a port whose rings are on and off, at the last slot of a ring of 64. -/
def ringed (head : Nat) (byte : BitVec 8) (failing : Option (Bool × Bool)) : Port :=
  { upPort with
    stat := { Ring.reset with en := true, tail := 63 }
    cmd := { Ring.reset with en := true, head := head, tail := 5, slots := [(head, byte)] }
    failing := failing }
theorem test_status_ring : (hostState (ringed 0 1 none)).takes .hp0 = true ∧ ((hostState (ringed 0 1 none)).port 0).live = true ∧
    ((hostState (ringed 0 1 none)).port 0).stat.en = true ∧ ((hostState (ringed 0 1 none)).port 0).stat.tail <
      ((hostState (ringed 0 1 none)).port 0).stat.size ∧ (hostState upPort).takes .hp0 = true ∧
    ((hostState upPort).port 0).stat.en = false ∧ ((hostState upPort).port 1).stat.en = false := by decide +kernel
/-- That port, a doorbell for its command ring having come. -/
def rung (p : Port) : State := { hostState p with dev := { (hostState p).dev with arrivals := [.slot 0] } }
theorem test_rings : (hostState upPort).awake = true ∧ ((hostState upPort).port 0).cmd.en = false ∧
    ((hostState (ringed 63 0xFF none)).port 0).cmd.en = true ∧ fld (BitVec.ofNat 32 (2 ^ 31 + 6)) 4 0 = 6 ∧
    fld (BitVec.ofNat 32 (2 ^ 31 + 16)) 4 0 = 16 ∧ tst (BitVec.ofNat 32 (2 ^ 31 + 16)) 31 = true ∧
    (rung (ringed 63 0xFF none)).candidate 0 = true ∧ ((hostState (ringed 63 0xFF none)).port 0).failing = none ∧
    (rung (ringed 63 0xFF (some (true, false)))).candidate 0 = true := by decide +kernel
theorem test_slot_checks : fld (sealRecord (0xFF * 256)) 15 8 = (0xFF : Nat) ∧
    fld (sealRecord (0xFF * 256)) 511 480 = (crc32c (bytesOf 60 (sealRecord (0xFF * 256)).toNat)).toNat ∧
    fld (0 : BitVec 512) 15 8 ≠ (0xFF : Nat) := by decide +kernel

/-- FastCommands: a source that takes commands, a step running, a bank job, record counts at both ends. -/
theorem test_fast : (up .ready).takes .hp0 = true ∧ Src.hp0 ≠ .partner ∧ pktP0 (pkt 0x01 0) = 0 ∧ pktP0 (pkt 0x38 0) % 64 = 0 ∧
    1 ≤ nfld (pktP4 (pkt 0x38 (2 ^ 272))) 6 0 ∧ nfld (pktP4 (pkt 0x38 (64 * 2 ^ 272))) 6 0 ≤ 64 ∧ (up .ready).dev.state ≠ .grey ∧
    pktGen (pkt 0x0B 0) = (up .ready).dev.gen.toNat ∧ (up .running).takes .hp0 = true ∧
    (longState .bank (some (someLong 0x1A 0)) none).takes .hp0 = true ∧ pktOpc (someLong 0x1A 0).pkt = 0x1A ∧
    (up .ready).longOf 0x1A = none := by decide +kernel

/-- A plan without regions or legs. -/
def emptyPlan (hdr : Nat) : Plan :=
  { hdr := BitVec.ofNat 512 hdr, lists := [], regions := [], reserves := [], waits := [], legs := [], deadlines := [], stepBound := 0 }
/-- The device with that plan in a state, its power limit as given. -/
def planned (d : DevState) (limit : Nat) : State :=
  { up d with dev := { (up d).dev with plan := some (emptyPlan 0) }, power := { (up d).power with limit := limit } }

/-- ShortCommands: the checks pass, and each command's own conditions hold, at the ends of its ranges. -/
theorem test_short_gate : ∀ e ∈ [(DevState.booked, 0x09), (.booked, 0x0A), (.bank, 0x19), (.ready, 0x20), (.ready, 0x30), (.ready, 0x31),
    (.running, 0x48), (.running, 0x4F)], (up e.1).takes .hp0 = true ∧ (up e.1).gate .hp0 (setFld (pkt 0 0) 7 0 e.2) = none := by decide +kernel
theorem test_start : ∀ w ∈ [4800, 100], (planned .booked w).takes .hp0 = true ∧
    (planned .booked w).gate .hp0 (setFld (pkt 0 0) 7 0 0x0A) = none ∧ (planned .booked w).dev.plan = some (emptyPlan 0) ∧
    (planned .booked w).stillAdmissible (emptyPlan 0) = true ∧ (planned .booked w).belowFloor = decide (w = 100) := by decide +kernel
theorem test_short_operands : (bankState .bank 0 0 none).slotOf (pktP0 (pkt 0 (2 ^ 181))) (pktP1 (pkt 0 (2 ^ 181))) = some 0 ∧
    nfld (pktP3 (pkt 0 0)) 11 0 ≠ 0xFFF ∧ nfld (pktP3 (pkt 0 0)) 11 0 ≠ (up .ready).dev.devid.toNat ∧
    (onBits 24 (nfld (pktP4 (pkt 0 (0xFF * 2 ^ 288))) 23 0)).length = 8 ∧
    (onBits 24 (nfld (pktP4 (pkt 0 (0xFF * 2 ^ 288))) 23 0)).all (up .ready).populated = true ∧
    (up .ready).fuses.part.minLim ≤ (up .ready).fuses.part.maxLim ∧ (up .ready).planBooked = false ∧
    (pktFl (pkt 0 (2 ^ 304 + 0x6446 * 2 ^ 240))).testBit 0 = true ∧ (pktFl (pkt 0 (2 ^ 304))).testBit 1 = false ∧
    nfld (pktP3 (pkt 0 (2 ^ 304 + 0x6446 * 2 ^ 240))) 7 0 = 70 ∧ nfld (pktP3 (pkt 0 (2 ^ 304 + 0x6446 * 2 ^ 240))) 15 8 = 100 := by
  decide +kernel

/-- LongCommandsBegin: the checks pass for each. -/
theorem test_long_gate : ∀ e ∈ [(DevState.ready, 0x08), (.ready, 0x10), (.ready, 0x11), (.ready, 0x12), (.ready, 0x13), (.ready, 0x18), (.bank, 0x1A),
    (.ready, 0x22), (.ready, 0x23), (.ready, 0x28), (.ready, 0x29), (.ready, 0x40), (.ready, 0x41), (.booked, 0x10)],
    (up e.1).takes .hp0 = true ∧ (up e.1).gate .hp0 (setFld (pkt 0 0) 7 0 e.2) = none := by decide +kernel
theorem test_long_ranges : (up .ready).inStacked (2 ^ 40 - 4) 4 = true ∧ (up .ready).discardHitsPlan 0 64 = false ∧ (2 ^ 40 - 4) % 4 = 0 ∧
    (up .ready).copyRange (2 ^ 40 - 1) 1 = true ∧ (up .ready).copyRange (2 ^ 40 - 1) 2 = false ∧ (up .ready).copyRange (2 ^ 41) 64 = false := by
  decide +kernel
theorem test_bank_enter : (up .ready).enterRefusal 0 4096 = none ∧ (up .ready).enterRefusal (2 ^ 40 - 4096) 4096 = none := by decide +kernel
/-- A region of the booked plan that a DISCARD would hit. -/
def hitPlan : State :=
  { up .booked with dev := { (up .booked).dev with
    plan := some { emptyPlan 0 with
      regions := [{ base := 0, len := 64, mirror := false, spill := false, hshared := false, zstart := false, run := 0 }] } } }
theorem test_discard_hits : hitPlan.takes .hp0 = true ∧ hitPlan.gate .hp0 (setFld (pkt 0 0) 7 0 0x10) = none ∧
    hitPlan.inStacked 63 1 = true ∧ hitPlan.discardHitsPlan 63 1 = true := by decide +kernel
/-- BANK_RUN of a program in host memory on an entered range. -/
def entered : State :=
  { portState (up .bank) upPort with dev := { (up .bank).dev with ranges := some (0, 2 ^ 36) :: List.replicate 7 none } }
theorem test_bank_run : entered.takes .hp0 = true ∧ entered.gate .hp0 (setFld (pkt 0 (2 ^ 190 + 2 ^ 254)) 7 0 0x1A) = none ∧
    entered.rangeAt (pktP0 (pkt 0 (2 ^ 190 + 2 ^ 254))) = some (0, 2 ^ 36) ∧ entered.jobFits (pkt 0 (2 ^ 190 + 2 ^ 254)) 0 (2 ^ 36) = true ∧
    pktP1 (pkt 0 (2 ^ 190 + 2 ^ 254)) = 2 ^ 46 ∧ entered.kind (2 ^ 46) = .host 0 (2 ^ 46 % 2 ^ 45) ∧ (entered.port 0).live = true ∧
    entered.clocked = true ∧ entered.tileUsable 0 = true ∧ entered.dev.long = none ∧ 2 ^ 46 + 256 < 2 ^ 46 + 2 ^ 45 := by decide +kernel
/-- TAKEOVER with a held copy; RESTORE_TO over an up link. -/
def holding (p : PairState) : State :=
  { up .ready with
    mirror := { Mirror.reset with pair := p, hvalid := true, partner := 1, links := 1 }
    links := [(0, { Link.reset with state := .up })] }
theorem test_takeover : (holding .lost).takes .hp0 = true ∧ (holding .lost).gate .hp0 (setFld (pkt 0 0) 7 0 0x22) = none ∧
    nfld (pktP3 (pkt 0 (2 ^ 240))) 11 0 = (holding .lost).mirror.partner.toNat ∧ (holding .lost).mirror.hvalid = true ∧
    (holding .held).mirror.pair = .held ∧ nfld (pktP3 (pkt 0 (2 ^ 240))) 11 0 ≠ (holding .held).dev.devid.toNat ∧
    (holding .held).gate .hp0 (setFld (pkt 0 0) 7 0 0x23) = none ∧ (holding .held).restoreLinks 1 = [0] ∧
    nfld (pktP4 (pkt 0 (2 ^ 272))) 23 0 = 1 := by decide +kernel
/-- The images: both slots are empty, so that neither verifies; the verdict on the signatures of another is a free value of
the model, and the statement's two clauses take it either way. -/
theorem test_firmware : pktP2 (pkt 0 ((24 * 2 ^ 20) * 2 ^ 192)) = 24 * 2 ^ 20 ∧ (up .ready).sec.qspiExt = false ∧
    (up .ready).slotWhy (!(up .ready).sec.flash.activeB) ≠ 0 ∧ (up .ready).sec.flash.markers.length = 2 ∧
    (∀ m ∈ (up .ready).sec.flash.markers.map (·.counter.toNat), m ≠ 0xFFFFFFFF) ∧ (up .ready).sec.flash.readable = true ∧
    (up .ready).allCome = true := by decide +kernel

/-- LongCommandsComplete: each long command in progress, ready to end. -/
theorem test_long_done : ∀ o ∈ [0x08, 0x10, 0x11, 0x12, 0x13, 0x18, 0x1A, 0x22, 0x28, 0x29, 0x40],
    (longState .ready (some (someLong o 0)) none).clocked = true ∧
    (longState .ready (some (someLong o 0)) none).dev.long = some (someLong o 0) ∧ pktOpc (someLong o 0).pkt = o ∧
    (longState .ready (some (someLong o 0)) none).recalled 0 (2 ^ 40) = true ∧
    (longState .ready (some (someLong o 0)) none).dev.ranges = List.replicate 8 none ∧
    ((longState .ready (some (someLong o 0)) none).port 0).heldRqs = [] ∧ ((longState .ready (some (someLong o 0)) none).port 1).heldRqs = [] ∧
    (longState .ready (some (someLong o 0)) none).dev.job = none ∧ pktP3 (someLong o 0).pkt = 0 ∧
    (longState .ready (some (someLong o 0)) none).allCome = true := by decide +kernel
theorem test_long_done_more : (∀ e ∈ [(0, 63), (7, 0)], e.2 < 64 ∧ (up .ready).tileUsable e.1 = true) ∧ 7 ∈ onBits 8 0x80 ∧
    ({ up .ready with dev := { (up .ready).dev with hubLeft := some 0, jobStop := true } } : State).dev.hubLeft = some 0 ∧
    ({ Mirror.reset with restoreTo := some (1, 2) } : Mirror).restoreTo = some (1, 2) ∧
    (longState .ready none (some (someLong 0x28 0))).dev.deferred = some (someLong 0x28 0) ∧
    (longState .ready none (some (someLong 0x28 0))).planBooked = false := by decide +kernel
/-- BOOK at its last stage: a plan that can be admitted, and one whose tile 0 is lost. -/
def booking (hdr : Nat) (lost : Bool) : State :=
  { longState .ready (some { someLong 0x08 0 with w1 := 4 }) none with
    dev := { (longState .ready (some { someLong 0x08 0 with w1 := 4 }) none).dev with plan := some (emptyPlan hdr) }
    tiles := [(0, { Tile.reset with lost := lost })] }
theorem test_book_refused : (booking (2 ^ 512 - 1) true).clocked = true ∧ bookAdvance (booking (2 ^ 512 - 1) true) = booking (2 ^ 512 - 1) true ∧
    ((booking (2 ^ 512 - 1) true).bookRefusal { someLong 0x08 0 with w1 := 4 }).isSome = true ∧
    (booking (2 ^ 512 - 1) true).dev.bookOld = none := by decide +kernel
theorem test_book_admitted : (booking 0 false).usableFail (emptyPlan 0) = none ∧ ((booking 0 false).admission (emptyPlan 0)).1 = [] ∧
    (booking 0 false).dev.state ≠ .booked := by decide +kernel

/-! ## Device links and mirroring -/

/-- LinksTrainAndGoDown: link 0 in a state, with lanes set aside. -/
def linked (n : Nat) (l : Link) : State := { up .ready with links := [(n, l)] }
def upLink : Link := { Link.reset with state := .up }
theorem test_link_training : ∀ n ∈ [0, 23], (linked n Link.reset).clocked = true ∧ (linked n Link.reset).populated n = true ∧
    (linked n Link.reset).linkUp n = false ∧ (linked n Link.reset).engineOk (n / 4) = true ∧
    ((linked n Link.reset).link n).lightOut = false ∧ (addLanes ((linked n Link.reset).link n).txOut [0, 21]).length = 2 ∧
    2 < (addLanes ((linked n Link.reset).link n).txOut [0, 1, 21]).length ∧ tst (linked n Link.reset).dev.straps 3 = false ∧
    (linked n Link.reset).tileUsable (engineTile (linked n Link.reset).fuses.part (n / 4)) = true ∧
    ((linked n Link.reset).link n).state = .down := by decide +kernel
theorem test_link_down : ∀ n ∈ [0, 23], (linked n upLink).linkUp n = true ∧ (linked n upLink).mirror.en = false ∧ n / 4 < 6 ∧
    laneInUse (((linked n upLink).link n).out true) 0 = true ∧ ((linked n upLink).link n).switches = [] ∧
    (((linked n upLink).link n).out true).length < 2 := by decide +kernel
def aSwitch (agreed : Bool) : LaneSwitch := { rx := true, lane := 5, seq := 9, reason := 1, agreed := agreed, told := true }
def sparing (lanes : List Nat) (sw : List LaneSwitch) : Link := { upLink with rxOut := lanes, switches := sw, expSeq := 9 }
theorem test_lanes : laneInUse ((sparing [0, 1] []).out true) 2 = true ∧ 2 ≤ ((sparing [0, 1] []).out true).length ∧
    ((linked 0 (sparing [] [aSwitch true])).link 0).switches = [aSwitch true] ∧
    ((linked 0 (sparing [] [aSwitch true])).link 0).due (aSwitch true) = true ∧ ((linked 0 (sparing [] [aSwitch false])).link 0).due (aSwitch false) = false ∧
    (linked 0 (sparing [] [aSwitch true])).linkUp 0 = true := by decide +kernel

/-- FlitsAreRetried: flits with their LCRC: idle, NAK, and one message of no body; and the retry buffer it meets. -/
def flit (fields : Nat) : BitVec 2048 :=
  BitVec.ofNat 2048 (fields + (crc32c (bytesOf 252 fields)).toNat * 2 ^ 2016)
theorem test_flits : ∀ e ∈ [(2, 0, 0), (2, 1, 0), (0, 0, 1)],
    fld (flit (e.1 * 2 ^ 1964 + e.2.1 * 2 ^ 1966 + e.2.2 * (2 ^ 1967 + 3 * 2 ^ 28))) 1965 1964 = e.1 ∧
    fld (flit (e.1 * 2 ^ 1964 + e.2.1 * 2 ^ 1966 + e.2.2 * (2 ^ 1967 + 3 * 2 ^ 28))) 1966 1966 = e.2.1 ∧
    fld (flit (e.1 * 2 ^ 1964 + e.2.1 * 2 ^ 1966 + e.2.2 * (2 ^ 1967 + 3 * 2 ^ 28))) 1967 1967 = e.2.2 ∧
    fld (flit (e.1 * 2 ^ 1964 + e.2.1 * 2 ^ 1966 + e.2.2 * (2 ^ 1967 + 3 * 2 ^ 28))) 2015 1992 = upLink.expSeq.toNat ∧
    fld (flit (e.1 * 2 ^ 1964 + e.2.1 * 2 ^ 1966 + e.2.2 * (2 ^ 1967 + 3 * 2 ^ 28))) 31 28 = 3 * e.2.2 ∧
    fld (flit (e.1 * 2 ^ 1964 + e.2.1 * 2 ^ 1966 + e.2.2 * (2 ^ 1967 + 3 * 2 ^ 28))) 159 156 = 0 := by decide +kernel
theorem test_flit_crc : fld (flit (2 * 2 ^ 1964)) 2047 2016 = (crc32c (bytesOf 252 (flit (2 * 2 ^ 1964)).toNat)).toNat ∧
    fld (0 : BitVec 2048) 2047 2016 ≠ (crc32c (bytesOf 252 (0 : BitVec 2048).toNat)).toNat := by decide +kernel
def retrying (n : Nat) : Link := { upLink with retryBuf := [(1, 0)], replays := n, nextSeq := 2 }
theorem test_retry : ∀ n ∈ [7, 8], (linked 0 (retrying n)).clocked = true ∧ (linked 0 (retrying n)).linkUp 0 = true ∧
    ((linked 0 (retrying n)).link 0).txMsgs = [] ∧ ((linked 0 (retrying n)).link 0).rxUnits = [] ∧
    ((linked 0 (retrying n)).link 0).retryBuf.filter (fun e =>
      !decide ((BitVec.ofNat 24 (fld (flit (2 * 2 ^ 1964)) 1991 1968) - e.1).toNat < 2 ^ 22)) = [(1, 0)] ∧
    ((linked 0 (retrying n)).link 0).replays = n ∧ (linked 0 (retrying n)).mirror.en = false := by decide +kernel

/-- Data and control messages with their CRC, from device 1 to device `dst`, `more` being other header bits. -/
def dataM (dst mt more : Nat) (body : List (BitVec 128)) (w : BitVec 32) : Msg :=
  let m : Msg := { hdr := BitVec.ofNat 128 (dst * 2 ^ 44 + 2 ^ 32 + mt * 2 ^ 28 + more), body := body }
  { m with hdr := setFld m.hdr 127 96 (dataCrc m w).toNat }
def ctlM (mt more : Nat) (body : List (BitVec 128)) : Msg :=
  let m : Msg := { hdr := BitVec.ofNat 128 (2 * 2 ^ 44 + 2 ^ 32 + mt * 2 ^ 28 + more), body := body }
  { m with hdr := setFld m.hdr 127 96 (controlCrc m).toNat }
/-- Device 2 with link 0 up, on which a message has come, and its mirroring. -/
def heard (m : Msg) (k : Mirror) : State :=
  { up .ready with
    dev := { (up .ready).dev with
      devid := 2, routes := [(3, BitVec.ofNat 64 (2 * 2 ^ 62 + 1))], exports := [(0, BitVec.ofNat 64 (0xF * 2 ^ 60 + 0xFFF * 2 ^ 48))] }
    links := [(0, { upLink with rxMsgs := [m] })], mirror := k }

/-- PeerMessages: forwarding at both ends of HOPS, requests with good and bad CRC, exported and not, answers known and late. -/
theorem test_forward : ∀ h ∈ [0, 14, 15], (heard (dataM 3 1 (h * 2 ^ 12) [] 0) Mirror.reset).clocked = true ∧
    ((heard (dataM 3 1 (h * 2 ^ 12) [] 0) Mirror.reset).link 0).rxMsgs = [dataM 3 1 (h * 2 ^ 12) [] 0] ∧
    (heard (dataM 3 1 (h * 2 ^ 12) [] 0) Mirror.reset).forMe (dataM 3 1 (h * 2 ^ 12) [] 0) = false ∧ (dataM 3 1 (h * 2 ^ 12) [] 0).hops = h ∧
    (heard (dataM 3 1 (h * 2 ^ 12) [] 0) Mirror.reset).route (dataM 3 1 (h * 2 ^ 12) [] 0).dst = .links [0] := by decide +kernel
theorem test_peer_messages : ∀ mt ∈ [1, 2, 3, 4, 5], ∀ a ∈ [0, 2 ^ 28],
    (heard (dataM 2 mt (a * 2 ^ 56) [] 0) Mirror.reset).forMe (dataM 2 mt (a * 2 ^ 56) [] 0) = true ∧ (dataM 2 mt (a * 2 ^ 56) [] 0).mt = mt ∧
    (dataM 2 mt (a * 2 ^ 56) [] 0).crc = (dataCrc (dataM 2 mt (a * 2 ^ 56) [] 0)
      (stepFrom (heard (dataM 2 mt (a * 2 ^ 56) [] 0) Mirror.reset).dev.step (dataM 2 mt (a * 2 ^ 56) [] 0).stl)).toNat ∧
    (dataM 2 mt (a * 2 ^ 56) [] 5).crc ≠ (dataCrc (dataM 2 mt (a * 2 ^ 56) [] 5)
      (stepFrom (heard (dataM 2 mt (a * 2 ^ 56) [] 5) Mirror.reset).dev.step (dataM 2 mt (a * 2 ^ 56) [] 5).stl)).toNat ∧
    ((heard (dataM 2 mt (a * 2 ^ 56) [] 0) Mirror.reset).exported (dataM 2 mt (a * 2 ^ 56) [] 0).src (dataM 2 mt (a * 2 ^ 56) [] 0).addr .read).isSome =
      decide (a = 0) ∧ (heard (dataM 2 mt (a * 2 ^ 56) [] 0) Mirror.reset).peerRq 0 = none := by decide +kernel
def asked : PeerRq := { rqs := [rq0 .read], tag := 0, dst := 1, link := 0 }
def asking (mt : Nat) : State :=
  { heard (dataM 2 mt 0 [] 0) Mirror.reset with dev := { (heard (dataM 2 mt 0 [] 0) Mirror.reset).dev with peerRqs := [asked] } }
theorem test_peer_answers : ∀ mt ∈ [4, 5], (asking mt).peerRq (dataM 2 mt 0 [] 0).tag = some asked ∧
    (∀ r ∈ asked.rqs.map (·.da), (dataM 2 mt 0 [] 0).addr / 64 ≤ r % 2 ^ 34 / 64 ∧
      r % 2 ^ 34 / 64 ≤ (dataM 2 mt 0 [] 0).addr / 64 + (dataM 2 mt 0 [] 0).nl) ∧ (rq0 .read).kind = .read ∧
    ((asking mt).dev.peerRqs.find? fun p => p.rqs.any fun x => x.id = 1) = some asked := by decide +kernel

/-- MirrorStore: the store of partner 1, with one write, one commit and control messages from it. -/
def storing : Mirror :=
  { Mirror.reset with en := true, partner := 1, links := 1, storeLen := 1, wb := [0], storeCommit := some (1, List.replicate 8 0) }
theorem test_mirror_write : ∀ w ∈ [1, 2], (heard (dataM 2 6 0 [] (BitVec.ofNat 32 w)) storing).headMsg 0 6 = some (dataM 2 6 0 [] (BitVec.ofNat 32 w)) ∧
    (heard (dataM 2 6 0 [] (BitVec.ofNat 32 w)) storing).fromPartner (dataM 2 6 0 [] (BitVec.ofNat 32 w)) = true ∧
    ((dataM 2 6 0 [] (BitVec.ofNat 32 w)).crc = (dataCrc (dataM 2 6 0 [] (BitVec.ofNat 32 w)) storing.expect).toNat ↔ w = 1) := by decide +kernel
def restoring : Mirror :=
  { Mirror.reset with resten := true, restsrc := 1, restoreIn := some { map := [], step := 5, got := 0, failed := false, total := none } }
theorem test_restore_write : (heard (dataM 2 7 0 [] 5) restoring).headMsg 0 7 = some (dataM 2 7 0 [] 5) ∧
    restoring.restoreIn = some { map := [], step := 5, got := 0, failed := false, total := none } ∧
    (dataM 2 7 0 [] 5).src = restoring.restsrc.toNat ∧ (dataM 2 7 0 [] 5).crc = (dataCrc (dataM 2 7 0 [] 5) 5).toNat := by decide +kernel
theorem test_store_commit : storing.recv = List.replicate 8 0 ∧ storing.resync = false ∧ storing.bad = false ∧ storing.expect = 1 ∧
    storing.wb.Nodup ∧ ({ storing with resync := true } : Mirror).resync = true ∧ ({ storing with bad := true } : Mirror).bad = true ∧
    ({ storing with recv := List.replicate 8 1 } : Mirror).recv ≠ List.replicate 8 0 := by decide +kernel
theorem test_store_messages : ∀ mt ∈ [8, 9, 0xB, 0xC, 0xE],
    (takeControl (heard (ctlM mt 0 [0]) storing) 0 mt).1 = some (ctlM mt 0 [0]) ∧
    (takeControl (heard (ctlM mt 0 [0]) storing) 0 mt).2.fromPartner (ctlM mt 0 [0]) = true ∧
    (takeControl (heard (ctlM mt 0 [0]) storing) 0 mt).2.mirrorMask.contains 0 = true ∧
    (takeControl (heard (ctlM mt 0 [0]) storing) 0 mt).2.mirror.restoreIn = none ∧
    (takeControl (heard (ctlM mt 0 [0]) storing) 0 mt).2.mirror.resten = false ∧
    (takeControl (heard (ctlM mt 0 [0]) storing) 0 mt).2.mirror.storeLen ≠ 0 ∧
    2 * regionLen ((ctlM mt 0 [0]).body.map fun x => (fld x 47 0, fld x 95 48)) ≤ (takeControl (heard (ctlM mt 0 [0]) storing) 0 mt).2.mirror.store.2 ∧
    (takeControl (heard (ctlM mt 0 [0]) storing) 0 mt).2.mirror.commit = none ∧ (ctlM mt 0 [0]).src = 1 ∧
    (takeControl (heard (ctlM mt 0 [0]) storing) 0 mt).2.mirror.pair ≠ .held := by decide +kernel
theorem test_store_none : (takeControl (heard (ctlM 0xB 0 [0]) { storing with storeLen := 0 }) 0 0xB).2.mirror.storeLen = 0 := by decide +kernel

/-- MirrorSource: a pair ACTIVE or LOST, its link up, a commit sent, an answer of each kind. -/
def paired (p : PairState) (c : Option CommitSt) : Mirror :=
  { Mirror.reset with en := true, partner := 1, links := 1, pair := p, commit := c, silence := 1000 }
theorem test_rollcall : (heard (ctlM 8 0 []) (paired .active none)).mirrorUp = [0] ∧ (heard (ctlM 8 0 []) (paired .active none)).linkUp 0 = true ∧
    ((heard (ctlM 8 0 []) (paired .active none)).link 0).txMsgs = [] ∧ ((heard (ctlM 8 0 []) (paired .active none)).link 0).retryBuf.length < 4096 ∧
    1 ≤ ((heard (ctlM 8 0 []) (paired .active none)).link 0).rqCred ∧ (heard (ctlM 8 0 []) (paired .active none)).tileUsable 0 = true ∧
    ({ up .ready with mirror := paired .active none } : State).mirrorUp = [] ∧ 1000 ≤ (paired .active none).silence.toNat := by decide +kernel
def mirrorStep (p : PairState) : State :=
  { up .running with
    mirror := paired p none
    dev := { (up .running).dev with plan := some { emptyPlan 0 with
      regions := [{ base := 0, len := 4096, mirror := true, spill := false, hshared := false, zstart := false, run := 0 }] } } }
theorem test_commit_begin : ∀ p ∈ [PairState.active, .lost], (mirrorStep p).running = true ∧ (mirrorStep p).legsFinished = true ∧
    (mirrorStep p).planMirrors = true ∧ (mirrorStep p).mirror.commit = none ∧ (mirrorStep p).dev.commitDone = none ∧
    (mirrorStep p).mirror.pair = p ∧ (mirrorStep p).clocked = true := by decide +kernel
theorem test_commit_answers : ∀ r ∈ [0, 1, 3], ∀ n ∈ [1, 2],
    (takeControl (heard (ctlM 0xA (r * 2 ^ 56) []) (paired .active (some { step := 0, sent := true, shorts := n }))) 0 0xA).1 = some (ctlM 0xA (r * 2 ^ 56) []) ∧
    (takeControl (heard (ctlM 0xA (r * 2 ^ 56) []) (paired .active (some { step := 0, sent := true, shorts := n }))) 0 0xA).2.mirror.restoreTo = none ∧
    (takeControl (heard (ctlM 0xA (r * 2 ^ 56) []) (paired .active (some { step := 0, sent := true, shorts := n }))) 0 0xA).2.mirror.mapWait = false ∧
    (takeControl (heard (ctlM 0xA (r * 2 ^ 56) []) (paired .active (some { step := 0, sent := true, shorts := n }))) 0 0xA).2.mirror.commit =
      some { step := 0, sent := true, shorts := n } ∧ (ctlM 0xA (r * 2 ^ 56) []).res = r ∧ (ctlM 0xA (r * 2 ^ 56) []).word = 0 ∧
    (ctlM 0xA (r * 2 ^ 56) []).src = 1 := by decide +kernel
theorem test_map_wait : ({ Mirror.reset with mapWait := true } : Mirror).mapWait = true ∧
    (takeControl (heard (ctlM 0xA 0 []) { paired .active none with mapWait := true }) 0 0xA).2.mirror.mapWait = true := by decide +kernel

/-! ## Steps, failures, power -/

/-- StepsEndAndBreach: a step without legs; a leg and a wait past their bounds. -/
def stepping : State :=
  { up .running with dev := { (up .running).dev with plan := some (emptyPlan 0), commitDone := some true } }
theorem test_step_complete : stepping.clocked = true ∧ stepping.running = true ∧ stepping.legsFinished = true ∧ stepping.planMirrors = false ∧
    stepping.dev.commitDone.isSome = true := by decide +kernel
def lateLeg : State :=
  { running { Core.reset with
      seq := { Seq.reset with wait := .waitf 0 0 0 none 0 }
      dem := { Demand.reset with timing := true, legTimer := 12, stepTimer := 12 } } with
    dev := { (up .running).dev with plan := some { emptyPlan 0 with
      legs := [(0, [{ hdr := BitVec.ofNat 512 (100 * 2 ^ 480), rmask := 0, wmask := 0, phases := [] }])]
      waits := [{ wcore := 0, wleg := 0, word := 0, dcore := 0, dleg := 0, host := true }], deadlines := [some 100] } } }
theorem test_breach : lateLeg.coreRuns 0 = true ∧ lateLeg.dev.stepOver = false ∧ lateLeg.legBound 0 = some 100 ∧
    (lateLeg.core 0).dem.timing = true ∧ (lateLeg.core 0).dem.legPosted = false ∧ breachTicks 100 < (lateLeg.core 0).dem.legTimer.toNat ∧
    (lateLeg.core 0).seq.wait = .waitf 0 0 0 none 0 ∧ lateLeg.waitDeadline 0 0 = some 100 ∧
    (lateLeg.core 0).dem.waitPosted.contains 0 = false ∧ breachTicks 100 < (lateLeg.core 0).dem.stepTimer.toNat := by decide +kernel

/-- CoresAndTilesFail: the first and last cores with a spare, a tile whose spare is lost, a spare to begin, a tile. -/
theorem test_core_fails : ∀ e ∈ [(0, 0, 16), (134, 127, 135)], (up .running).clocked = true ∧ (up .running).dev.state ≠ .boot ∧
    e.1 < 17 * (up .running).fuses.part.tiles ∧ (up .running).coreUsable e.1 = true ∧ (up .running).logicalOf e.1 = some e.2.1 ∧
    (up .running).freeSpare (e.1 / 17) = some e.2.2 ∧ ((up .running).dev.remaps.any fun r => r.tile = e.1 / 17) = false := by decide +kernel
theorem test_no_spare : ({ up .ready with cores := [(16, { Core.reset with lost := true })] } : State).freeSpare 0 = none ∧
    ({ up .ready with cores := [(16, { Core.reset with lost := true })] } : State).coreUsable 0 = true ∧
    ({ up .ready with cores := [(16, { Core.reset with lost := true })] } : State).logicalOf 0 = some 0 := by decide +kernel
def sparingCore (n : Nat) : State :=
  { up .running with
    dev := { (up .running).dev with
      plan := some { emptyPlan 0 with legs := [(0, List.replicate n { hdr := 0, rmask := 0, wmask := 0, phases := [] })] }
      remaps := [{ tile := 0, index := 0, failed := 0, spare := 16 }] } }
theorem test_spare_begins : ∀ n ∈ [0, 1],
    ((sparingCore n).dev.remaps.find? fun r => r.spare = 16) = some { tile := 0, index := 0, failed := 0, spare := 16 } ∧
    (sparingCore n).running = true ∧ (sparingCore n).underWay 0 = false ∧ (sparingCore n).underWay 16 = false ∧ (sparingCore n).dev.plan.isSome = true ∧
    (((sparingCore n).dev.plan.bind fun p => p.legs.find? fun e => e.1 = 16 * 0 + 0).map fun e => e.2.length) = some n ∧
    (sparingCore n).legsOf (16 * 0 + 0) = 0 ∧ (sparingCore n).tileUsable 7 = true := by decide +kernel

/-- PowerAndTemperature: the first and last meters, supplies, a clock change, a full observation, a residual. -/
theorem test_power : (up .ready).awake = true ∧ (up .ready).metered 0 = true ∧ (up .ready).metered 678 = true ∧ (up .ready).clocked = true ∧
    (up .ready).power.shuttingDown = false ∧ (up .ready).tileUsable 7 = true ∧ (up .ready).dev.inReset = false ∧
    (up .ready).tilePresent 7 = true ∧ (up .ready).dev.state ≠ .off ∧ (up .ready).dev.state ≠ .grey ∧
    (3599 < 3600 ∧ 2899 < 2900 ∧ 1549 < 1550) := by decide +kernel
def hotTile (x : Tile) (down : Bool) : State :=
  { up .ready with tiles := [(7, x)], power := { (up .ready).power with shuttingDown := down, vinOk := false } }
theorem test_tiles : (hotTile { Tile.reset with newClk := some 3500 } true).power.shuttingDown = true ∧
    ((hotTile { Tile.reset with newClk := some 3500 } true).tile 7).newClk = some 3500 ∧
    (hotTile { Tile.reset with newClk := some 3500 } true).power.valid = false ∧
    ((hotTile { Tile.reset with residualSince := some 0 } false).tile 7).residualSince = some 0 ∧
    ((hotTile { Tile.reset with residualSince := some 0 } false).tile 7).lastModelRec = none ∧
    (List.replicate 56 (none : Option Int)).length = 56 := by decide +kernel

/-! ## Start-up, security, debug -/

/-- StartsFreezesResets: reset to release, with flash and without; a start; failures counted and at the third; fuses due. -/
def flashed (fails : Nat) (f : Flash → Flash) (due : Bool) (d : DevState) (held : Bool) : State :=
  { up d with
    dev := { (up d).dev with inReset := held }
    sec := { Sec.reset with
      fuseDue := due, flash := f { Flash.reset with attempts := [Attempts.stamp { Attempts.reset with fails := fails }, { Attempts.reset with crc := 0 }] } } }
theorem test_release : (flashed 0 id false .boot true).mayRelease = true ∧ (flashed 0 id false .boot true).flashFree = true ∧
    (flashed 0 id false .boot true).sec.flash.governing.isSome = true ∧ tst (1 : BitVec 11) 0 = true ∧
    (flashed 0 (fun f => { f with readable := false }) false .boot true).flashFree = false ∧
    (flashed 0 (fun f => { f with readable := false }) false .boot true).mayRelease = true := by decide +kernel
theorem test_start_ends : ∀ n ∈ [0, 1, 2], (flashed n id false .boot false).starting = true ∧ (flashed n id false .boot false).sec.imageWhy = 0 ∧
    (flashed n id false .boot false).tileUsable 0 = true ∧
    (flashed n id false .boot false).sec.flash.governing = some (Attempts.stamp { Attempts.reset with fails := n }) ∧
    (flashed n id false .boot false).sec.flash.attempts.length = 2 ∧
    (∀ b ∈ (flashed n id false .boot false).sec.flash.attempts.map (·.counter.toNat), b ≠ 0xFFFFFFFF) := by decide +kernel
theorem test_freezes : (flashed 0 id true .ready false).awake = true ∧ (flashed 0 id true .ready false).starting = false ∧
    (flashed 0 id true .ready false).sec.fuseDue = true ∧ (flashed 0 id true .ready false).power.valid = true ∧
    (flashed 0 id true .ready false).sec.freezeLow = false ∧ (up .frozen).dev.state = .frozen ∧ (up .frozen).dev.inReset = false ∧
    (up .frozen).power.valid = true := by decide +kernel

/-- SidebandAndJtag: awake and frozen, a JTAG write not allowed, FW_STAGE in progress. -/
theorem test_sideband : (up .ready).awake = true ∧ (up .ready).power.valid = true ∧ (up .ready).canReach .jtag = false ∧
    (up .ready).dev.state ≠ .frozen ∧ (up .frozen).dev.state = .frozen ∧ (up .ready).dev.long = none ∧
    pktOpc (someLong 0x40 0).pkt = 0x40 ∧ (longState .ready (some (someLong 0x40 0)) none).awake = true := by decide +kernel

/-- SpdmResponders: every responder, before and after GET_VERSION, with chunks both ways. -/
def talking (r : Nat) (x : Spdm) : State :=
  { up .ready with
    ports := [(0, upPort), (1, upPort)], sec := { Sec.reset with spdm := (List.replicate 3 Spdm.reset).set r x } }
theorem test_spdm : ∀ r ∈ [0, 1, 2], (talking r Spdm.reset).spdmUp r = true ∧ (talking r Spdm.reset).sec.spdm.length = 3 ∧
    ((talking r Spdm.reset).spdmOf r).version = 0 ∧ ((talking r Spdm.reset).spdmOf r).signed = none ∧
    ((talking r { Spdm.reset with version := 1, signed := some [], chunkOut := some (0, 0, [1]), chunkIn := some (0, 1, []) }).spdmOf r).version ≠ 0 ∧
    ((talking r { Spdm.reset with signed := some [] }).spdmOf r).signed.isSome = true ∧
    ((talking r { Spdm.reset with chunkOut := some (0, 0, [1]) }).spdmOf r).chunkOut = some (0, 0, [1]) ∧
    ((talking r { Spdm.reset with chunkIn := some (0, 1, []) }).spdmOf r).chunkIn = some (0, 1, []) := by decide +kernel

/-! ## Rules kept across families -/

/-- ExpectedSequenceBytes: a ring to enable, and a slot of zeros and a good one behind the byte 0xFF. -/
theorem test_expected : tst (BitVec.ofNat 32 (2 ^ 31 + 6)) 31 = true ∧ (rung (ringed 63 0xFF none)).candidate 0 = true ∧
    pktCrcOk (sealRecord (0xFF * 256)) = true ∧ tget 1 ((hostState (ringed 63 0xFF none)).port 0).cmd.slots 63 = 0xFF ∧
    (0xFF : BitVec 8) ≠ 0 := by decide +kernel
/-- SemaphoreCounts: a signal, SEMS both ways at their bounds, and both saturations. -/
def sems (v : Nat) (sub amt : Nat) : State :=
  decoding { Seq.reset with sems := (List.replicate 32 0).set 31 (BitVec.ofNat 16 v) } [ins 7 (31 * 2 ^ 53 + sub * 2 ^ 52 + amt)]
theorem test_sems : ∀ e ∈ [(1, 0, 0xFFFE), (0xFFFF, 1, 0xFFFF)],
    (sems e.1 e.2.1 e.2.2).instrAt 0 (· = 7) = some (ins 7 (31 * 2 ^ 53 + e.2.1 * 2 ^ 52 + e.2.2)) ∧ ((sems e.1 e.2.1 e.2.2).core 0).seq.specs = [] ∧
    tst (ins 7 (31 * 2 ^ 53 + e.2.1 * 2 ^ 52 + e.2.2)) 52 = decide (e.2.1 = 1) ∧ fld (ins 7 (31 * 2 ^ 53 + e.2.1 * 2 ^ 52 + e.2.2)) 57 53 = 31 ∧
    fld (ins 7 (31 * 2 ^ 53 + e.2.1 * 2 ^ 52 + e.2.2)) 15 0 = e.2.2 ∧ (nth ((sems e.1 e.2.1 e.2.2).core 0).seq.sems 31 0).toNat = e.1 ∧
    sigEn (eng 0 (2 ^ 9)) = true ∧ (queued 0 (eng 0 (2 ^ 9))).headOp 0 0 (· = 0) = some (q0 (eng 0 (2 ^ 9))) ∧
    0xFFFF < e.1 + (0xFFFF : BitVec 16).toNat := by decide +kernel
theorem test_sem_bounds : 0 < (1 : BitVec 16).toNat ∧ (nth ((sems 0 0 0).core 0).seq.sems 31 0).toNat < (1 : BitVec 16).toNat := by decide +kernel
/-- InvalidGranulesReadZero: its first clause is met in `test_vault_serve`. -/
theorem test_invalid_granule : (up .ready).granuleValid 0 ((up .ready).granuleOf (placeOf 0 0 0)) = false ∧ (up .ready).vaultUsable 0 0 = true ∧
    ((vaultState { Vault.reset with lost := true }).vault 0 0).lost = true ∧
    (({ up .ready with tiles := [(0, { Tile.reset with lost := true })] } : State).tile 0).lost = true := by decide +kernel
/-- EmptyQueueIsATick: asleep, shutting down, and running on. -/
theorem test_ticks : (up .ready).pending = [] ∧ (up .off).dev.state = .off ∧ State.reset.dev.inReset = true ∧ (up .ready).power.shuttingDown = false ∧
    (up .ready).dev.long = none ∧ (hotTile Tile.reset true).power.shuttingDown = true ∧ (hotTile Tile.reset true).dev.inReset = false := by decide +kernel
/-- FaultRecords: classes and reasons at both ends, an empty log. -/
theorem test_fault_log : (0 : Nat) < 256 ∧ 255 < 256 ∧ State.reset.logOk ∧ State.reset.dev.faults.length < 4096 := by
  refine ⟨by decide, by decide, ?_, by decide⟩
  show (0 : Nat) ≤ 4096
  decide
/-- StepKeepsTheInvariant, FusesOnlyRise, GenerationCountsStateChanges: a state that meets the invariant and steps on; a command
that changes the state. -/
theorem test_invariant : (up .ready).Inv := ⟨⟨rfl, rfl, rfl⟩, by show (0 : Nat) ≤ 4096; decide, by intro l h; cases h⟩
theorem test_state_change : ∃ t, exec .jtagFreeze (up .ready) = .next t ∧ t.epoch = (up .ready).epoch ∧ t.dev.state = .frozen :=
  ⟨_, rfl, by decide +kernel, by decide +kernel⟩

/-! ## Ill-formed commands are refused, one for each check; the greatest well-formed one beside it -/

theorem test_wf_core : (Instr.legStart 136).wellFormed = false ∧ (Instr.legStart 135).wellFormed = true := by decide
theorem test_wf_semaphore : (Instr.semSettle 0 32).wellFormed = false ∧ (Instr.semSettle 0 31).wellFormed = true := by decide
theorem test_wf_bank : (Instr.drainSlotPlace 0 4).wellFormed = false ∧ (Instr.drainSlotPlace 0 3).wellFormed = true := by decide
theorem test_wf_channel : (Instr.stNop 0 2).wellFormed = false ∧ (Instr.stNop 0 1).wellFormed = true := by decide
theorem test_wf_tile : (Instr.clockChangeApply 8).wellFormed = false ∧ (Instr.clockChangeApply 7).wellFormed = true := by decide
theorem test_wf_vault : (Instr.scrubTick 0 64).wellFormed = false ∧ (Instr.scrubTick 7 63).wellFormed = true := by decide
theorem test_wf_queue_entry : (Instr.vaultServe 0 0 64).wellFormed = false ∧ (Instr.vaultServe 0 0 63).wellFormed = true := by decide
theorem test_wf_granule : (Instr.granuleFillDone 0 33554432).wellFormed = false ∧ (Instr.granuleFillDone 0 33554431).wellFormed = true := by decide
theorem test_wf_bank_stack : (Instr.refreshDue 0 0 8).wellFormed = false ∧ (Instr.refreshDue 0 0 7).wellFormed = true := by decide
theorem test_wf_layer : (Instr.layerEraseMark 0 0 10).wellFormed = false ∧ (Instr.layerEraseMark 0 0 9).wellFormed = true := by decide
theorem test_wf_unit : (Instr.buNop 0 0 10 0).wellFormed = false ∧ (Instr.buNop 0 0 0 4).wellFormed = false ∧
    (Instr.buNop 7 63 9 3).wellFormed = true := by decide
theorem test_wf_group : (Instr.kernelLimit 0 0 4).wellFormed = false ∧ (Instr.kernelLimit 0 0 3).wellFormed = true := by decide
theorem test_wf_port : (Instr.hotReset 2).wellFormed = false ∧ (Instr.hotReset 1).wellFormed = true := by decide
theorem test_wf_ring : (Instr.hpRingcfgEnable 0 3 0).wellFormed = false ∧ (Instr.hpRingcfgEnable 0 2 0).wellFormed = true := by decide
theorem test_wf_decoder : (Instr.hdmDecoderCommit 0 2 decoder0).wellFormed = false ∧
    (Instr.hdmDecoderCommit 0 1 decoder0).wellFormed = true := by decide
theorem test_wf_bar : (Instr.barAccess 0 { bar := 1, off := 0, size := 8, wr := false, value := 0 }).wellFormed = false ∧
    (Instr.barAccess 0 { bar := 0, off := 0, size := 9, wr := false, value := 0 }).wellFormed = false ∧
    (Instr.barAccess 0 { bar := 4, off := 0, size := 8, wr := false, value := 0 }).wellFormed = true := by decide
theorem test_wf_vector : (Instr.msixHoldoffExpiry 0 8).wellFormed = false ∧ (Instr.msixHoldoffExpiry 0 7).wellFormed = true := by decide
theorem test_wf_requester : (Instr.registerWrite (.port 2) 0 8 0).wellFormed = false ∧
    (Instr.registerWrite (.port 1) 0 8 0).wellFormed = true := by decide
theorem test_wf_crossing : (Instr.crossingItemTake 0 17).wellFormed = false ∧ (Instr.crossingItemTake 11 0).wellFormed = false ∧
    (Instr.crossingItemTake 0 16).wellFormed = true ∧ (Instr.crossingItemTake 543 1).wellFormed = true := by decide
theorem test_wf_link : (Instr.idleFlitSend 24).wellFormed = false ∧ (Instr.idleFlitSend 23).wellFormed = true := by decide
theorem test_wf_lane : (Instr.laneSymbolThreshold 0 true 22).wellFormed = false ∧
    (Instr.laneSymbolThreshold 0 true 21).wellFormed = true := by decide
theorem test_wf_engine : (Instr.elsFltAssert 6).wellFormed = false ∧ (Instr.lossOfLight 5 (some 19)).wellFormed = false ∧
    (Instr.lossOfLight 5 (some 23)).wellFormed = true := by decide
theorem test_wf_reason : (Instr.bootFail 0).wellFormed = false ∧ (Instr.coreFailed 0 0).wellFormed = false ∧
    (Instr.bootFail 10).wellFormed = true := by decide
theorem test_wf_meter : (Instr.meterUpdate 679 0).wellFormed = false ∧ (Instr.meterUpdate 678 0).wellFormed = true := by decide
theorem test_wf_sensor : (Instr.hardwareTrip 0 56).wellFormed = false ∧ (Instr.hardwareTrip 0 55).wellFormed = true := by decide
theorem test_wf_observation : (Instr.thermalModelStep 0 { readings := [] }).wellFormed = false ∧
    (Instr.thermalModelStep 0 { readings := List.replicate 56 none }).wellFormed = true := by decide
theorem test_wf_responder : (Instr.getVersion 3).wellFormed = false ∧ (Instr.getVersion 2).wellFormed = true := by decide

/-- No row of the table gives bits, so no word spells a command. -/
theorem test_no_bits : decodeTableWord 16 0 = none ∧ ((up .ready).withFetchWord 16 0).pending = [] := by decide +kernel


/-! ## Further clauses of the statements: engines -/

/-- MatrixUpdates with poison among its operands and DRAIN = 1; MatrixDrains with poison in row 0. -/
def poisonedMma : Mma := { someMma with cmd := q0 (eng 1 (2 ^ 118)), valid := [0], poison := [0] }
theorem test_mma_poison : (operandBytes poisonedMma.layA (mmaABase poisonedMma.cmd.word) (mmaRows poisonedMma.cmd.word) (mmaK poisonedMma.cmd.word)).findSome?
      (mmaPoison multiplying poisonedMma) = some 0 ∧ mmaDrains poisonedMma.cmd.word = true ∧
    ((running { Core.reset with mx := { Mx.reset with mmas := [poisonedMma] } }).core 0).mx.mmas = [poisonedMma] := by decide +kernel
def poisonedScratch (e op : Nat) : State := running { Core.reset.setQueue e [q0 (eng op 0)] with valid := [0], poison := [0] }
theorem test_scratch_poison : ∀ e ∈ [(0, 3, 256), (1, 5, 128), (4, 2, 1)],
    (poisonedScratch e.1 e.2.1).headOp 0 e.1 (· = e.2.1) = some (q0 (eng e.2.1 0)) ∧ ((poisonedScratch e.1 e.2.1).core 0).vx.run = none ∧
    (poisonedScratch e.1 e.2.1).scrPoison 0 0 e.2.2 = some 0 ∧ ((poisonedScratch 0 3).core 0).mx.bankFree 0 = true ∧
    (poisonedScratch 1 5).loadPoison 0 0 0 0 0 = some 0 ∧
    (((poisonedScratch 1 5).core 0).vx.mask 0).getLsbD 0 = true := by decide +kernel

/-- MatrixDrains: the third quadrant with room for both and for itself alone; the last one, already read. -/
def lastDrain : Drain := { cmd := q0 (eng 4 0), bank := 0, tag := 0, quad := 3, last := some { hdr := 0, vals := [] } }
theorem test_drain_last : ∀ n ∈ [14, 15], ((draining n 2 0).core 0).mx.drains = [{ lastDrain with quad := 2, last := none }] ∧
    ((draining n 2 0).core 0).mx.basket.length = n ∧ ((draining n 2 0).core 0).mx.mmas = [] ∧
    (({ Mx.reset with drains := [lastDrain] } : Mx).drains = [lastDrain]) ∧ lastDrain.quad ≤ 3 := by decide +kernel

/-- VectorOp: a conversion to a block type; TrailRun: a run over two slots, the first released, and one that
has taken its last. -/
theorem test_vx_block : (queued 1 (eng 1 (0x3A * 2 ^ 114 + 0x10 * 2 ^ 94))).headOp 0 1 (· = 1) = some (q0 (eng 1 (0x3A * 2 ^ 114 + 0x10 * 2 ^ 94))) ∧
    fld (eng 1 (0x3A * 2 ^ 114 + 0x10 * 2 ^ 94)) 121 114 = 0x3A ∧ fnKind 0x3A = .reg ∧
    isBlk (normTy (fld (eng 1 (0x3A * 2 ^ 114 + 0x10 * 2 ^ 94)) 98 94)) = true := by decide +kernel
def basketRun (done : Nat) : State := running { Core.reset with
  vx := { Vx.reset with run := some { cmd := q0 (eng 9 (2 ^ 102)), done := done, tregs0 := [], sregs0 := [] } }
  mx := { Mx.reset with basket := [{ hdr := 0, vals := [] }] } }
theorem test_trun_basket : ∀ n ∈ [1, 2], (basketRun n).coreRuns 0 = true ∧ ((basketRun n).core 0).vx.taking = none ∧
    fld (eng 9 (2 ^ 102)) 121 120 = 0 ∧ fld (eng 9 (2 ^ 102)) 107 102 = 1 ∧ fld (eng 9 (2 ^ 102)) 119 118 = 0 ∧
    (((basketRun n).core 0).vx.run.map fun r => (r.done, r.cmd)) = some (n, q0 (eng 9 (2 ^ 102))) ∧
    ((basketRun n).core 0).vx.chain = [] ∧ ((basketRun n).core 0).mx.basket = [{ hdr := 0, vals := [] }] := by decide +kernel

/-- StreamCopies: four copies in the channel; a copy from scratch onto itself, which reads no line. -/
def fourCopies : List Copy := [1, 2, 3, 4].map fun n => { someCopy with cmd := { q0 (eng 1 0) with id := n } }
theorem test_copy_full : ∀ op ∈ [1, 2, 3], ∀ l ∈ [fourCopies, fourCopies.tail],
    (running { Core.reset with ch0 := { Chan.reset with queue := [q0 (eng op 0)], copies := l } }).headOp 0 2 (· = op) = some (q0 (eng op 0)) ∧
    (∀ x ∈ l, x.cmd.id ≠ (q0 (eng op 0)).id) ∧ l.length = (if l = fourCopies then 4 else 3) := by decide +kernel
/-- Core 0 with a copy queued, and at scratch line 0 a descriptor of one element at the first byte of scratch. -/
def inScratch : State :=
  { running { Core.reset.setQueue 2 [q0 (eng 1 0)] with valid := [0] } with scratch := [(50, 1)] }
theorem test_copy_no_lines (x : Copy) (h1 : x.cmd = q0 (eng 1 0)) (h2 : x.src = lineOf (inScratch.scrBytes 0 0 64))
    (h3 : x.dst = lineOf (inScratch.scrBytes 0 0 64)) (h4 : x.list = (inScratch.readList 0 (eng 1 0)).1) (h5 : x.preload = none) :
    inScratch.copyLines x = [] := by
  have h : inScratch.copyLines x = inScratch.copyLines { someCopy with
      src := lineOf (inScratch.scrBytes 0 0 64), dst := lineOf (inScratch.scrBytes 0 0 64)
      list := (inScratch.readList 0 (eng 1 0)).1, runAhead := x.runAhead } := by
    simp only [State.copyLines, State.copyJob, h1, h2, h3, h4, h5, someCopy]
  rw [h]
  cases x.runAhead <;> decide +kernel
theorem test_copy_in_scratch : inScratch.headOp 0 2 (· = 1) = some (q0 (eng 1 0)) ∧ inScratch.copyCheck 0 (eng 1 0) = none ∧
    ((inScratch.core 0).chan 0).copies = [] := by decide +kernel

/-- StreamCopies: a held load, one with lines still to ask for, and a plain copy of one element into scratch. -/
def intoScratch : Copy := { someCopy with dst := BitVec.ofNat 512 (2 ^ 400) }
theorem test_read_kinds : ({ someCopy with held := true } : Copy).held = true ∧ ({ someCopy with todo := [64] } : Copy).todo ≠ [] ∧
    ((answering intoScratch [] (rsp (.copy 0 0 3) true 0)).core 0).inbox = [rsp (.copy 0 0 3) true 0] ∧
    (((answering intoScratch [] (rsp (.copy 0 0 3) true 0)).core 0).chan 0).copies = [intoScratch] ∧
    intoScratch.held = false ∧ intoScratch.todo = [] ∧ intoScratch.lines.length ≤ [(0, (0 : Line), false)].length ∧
    intoScratch.preload = none ∧ intoScratch.unacked = [] ∧
    (((answering intoScratch [] (rsp (.copy 0 0 3) true 0)).core 0).chan 0).flags = [] ∧
    ((answering intoScratch [] (rsp (.copy 0 0 3) true 0)).copyJob intoScratch).aop = 0 ∧
    ((answering intoScratch [] (rsp (.copy 0 0 3) true 0)).copyJob intoScratch).overlaps = false ∧
    ((answering intoScratch [] (rsp (.copy 0 0 3) true 0)).copyJob intoScratch).manyRegions = false ∧
    ((answering intoScratch [] (rsp (.copy 0 0 3) true 0)).copyJob intoScratch).writeLines = [2 ^ 40] ∧
    (answering intoScratch [] (rsp (.copy 0 0 3) true 0)).isScratch (2 ^ 40) = true := by decide +kernel

/-- StreamPlainAndFlags: an adding flag to a host window and into scratch. CheckUnit: a unit under ALIVE, KEEP both ways. -/
theorem test_flag_adds : ∀ da ∈ [2 ^ 46, 2 ^ 47 - 4, 2 ^ 40],
    (running { Core.reset with ch0 := { Chan.reset with queue := [q0 (eng 4 (2 ^ 120 + da * 2 ^ 64))] } }).headOp 0 2 (· = 4) =
      some (q0 (eng 4 (2 ^ 120 + da * 2 ^ 64))) ∧ fld (eng 4 (2 ^ 120 + da * 2 ^ 64)) 120 118 = 4 ∧
    fld (eng 4 (2 ^ 120 + da * 2 ^ 64)) 111 64 / 4 * 4 = da ∧
    ((up .running).isScratch da = true ∨ ∃ x ∈ [0, 1], (up .running).kind da = .host x (da % 2 ^ 45)) := by decide +kernel
theorem test_check_alive : ∀ keep ∈ [0, 1],
    (running { Core.reset with ck := { Ck.reset with alive := true, queue := [q0 (eng 4 (keep * 2 ^ 121))] } }).headOp 0 4 (· = 4) =
      some (q0 (eng 4 (keep * 2 ^ 121))) ∧ tst (eng 4 (keep * 2 ^ 121)) 121 = decide (keep = 1) := by decide +kernel

/-! ## Further clauses of the statements: sequencer, registers -/

/-- SequencerStraightCode for WAITF and ENG; LoopsAndBranches with an awaited count. -/
theorem test_more_awaits : ∀ e ∈ [(9, 0), (1, 2 ^ 47), (1, 2 ^ 42), (10, 2 ^ 54)],
    (decoding { Seq.reset with awaited := [(0, 7, 0), (1, 8, 0)] } [ins e.1 e.2]).instrAt 0 (· = e.1) = some (ins e.1 e.2) ∧
    ((decoding { Seq.reset with awaited := [(0, 7, 0), (1, 8, 0)] } [ins e.1 e.2]).core 0).seq.awaits (fld (ins e.1 e.2) 55 52) = decide (e.1 ≠ 10) ∧
    ((decoding { Seq.reset with awaited := [(0, 7, 0), (1, 8, 0)] } [ins e.1 e.2]).core 0).seq.awaits (fld (ins e.1 e.2) 46 43) = true ∧
    (e.1 = 1 → tst (ins e.1 e.2) 47 = true ∨ tst (ins e.1 e.2) 42 = true) ∧
    (e.1 = 10 → ((decoding { Seq.reset with awaited := [(0, 7, 0), (1, 8, 0)] } [ins e.1 e.2]).core 0).seq.awaitRq (fld (ins e.1 e.2) 57 54) = some 8) ∧
    ((decoding { Seq.reset with awaited := [(0, 7, 0), (1, 8, 0)] } [ins e.1 e.2]).core 0).seq.loops.length < 4 := by decide +kernel

/-- LoopsAndBranches: the word comes that settles a prediction, 0 and another; WaitsAndSemaphores behind a prediction, and a
WAITF that no wait entry declares. -/
def guessed : Spec := { rq := 7, pred := .brnz 5, g := [], loops := [], awaited := [(1, 7, 60)] }
theorem test_prediction_settled : ∀ n ∈ [0, 1], let d := BitVec.ofNat 512 (n * 2 ^ 480)
    (awaiting { Seq.reset with awaited := [(1, 7, 60)], specs := [guessed] } (rsp (.ldw 0 1) true d)).clocked = true ∧
    ((awaiting { Seq.reset with awaited := [(1, 7, 60)], specs := [guessed] } (rsp (.ldw 0 1) true d)).core 0).seq.specs = [guessed] ∧
    ((awaiting { Seq.reset with awaited := [(1, 7, 60)], specs := [guessed] } (rsp (.ldw 0 1) true d)).core 0).inbox = [rsp (.ldw 0 1) true d] ∧
    guessed.rq = (rsp (.ldw 0 1) true d).id ∧ fld d (8 * 60 + 31) (8 * 60) = n := by decide +kernel
theorem test_speculative_waits : ∀ o ∈ [7, 8, 9, 12],
    (decoding { Seq.reset with specs := [guessed] } [ins o 0]).instrAt 0 (· = o) = some (ins o 0) ∧
    ((decoding { Seq.reset with specs := [guessed] } [ins o 0]).core 0).seq.specs ≠ [] := by decide +kernel
theorem test_undeclared_wait :
    ({ decoding Seq.reset [ins 9 0] with dev := { (decoding Seq.reset [ins 9 0]).dev with plan := some (emptyPlan 0) } } : State).declaredWait 0 0 =
      false := by decide +kernel

/-- WaitsAndSemaphores and LdwRoundTrip with poison; WaitsAndSemaphores for a vector engine alone, whose count is at its top. -/
theorem test_poisoned_words : ∀ o ∈ [Owner.waitf 0, .ldw 0 1, .list 0 3, .legFlag 0],
    (awaiting Seq.reset { rsp o true 0 with bad := true }).clocked = true ∧
    ((awaiting Seq.reset { rsp o true 0 with bad := true }).core 0).inbox = [{ rsp o true 0 with bad := true }] := by decide +kernel
def wanting : State := running { (Core.reset.setQueue 1 [waiter]) with seq := { Seq.reset with
  sems := (List.replicate 32 0).set 31 0xFFFF } }
theorem test_sem_single : wanting.coreRuns 0 = true ∧ (wanting.core 0).seq.signals = [] ∧ (wanting.core 0).seq.wait = .none ∧
    1 ≤ (nth (wanting.core 0).seq.sems 31 0).toNat ∧ (wanting.core 0).queue 1 = [waiter] ∧ (wanting.core 0).vx.run = none ∧
    (∀ e ∈ [0, 2, 3, 4], (wanting.core 0).queue e = []) := by decide +kernel

/-- RunsAndLegs: a leg that met an error acknowledgement, and one whose flag would add in scratch. -/
def drainedBad (add : Bool) : State := inPhase .drain { Core.reset with
  ch1 := { Chan.reset with supp := if add then [] else [3] }
  seq := { Seq.reset with legHdr := BitVec.ofNat 512 (2 ^ 440 + b2n add * 2 ^ 248) } }
theorem test_leg_ends_unwritten : ∀ b ∈ [false, true], (drainedBad b).coreRuns 0 = true ∧ ((drainedBad b).core 0).seq.phase = .drain ∧
    ((drainedBad b).core 0).inFlight = 0 ∧ (((drainedBad b).core 0).ch1.supp = [] ↔ b = true) ∧ ((drainedBad b).core 0).seq.cadd = b ∧
    (drainedBad b).isScratch ((drainedBad b).core 0).seq.cda = true := by decide +kernel

/-- RegisterAccesses: a host port reads in BOOT; MapAndModeWrites: MIR_STORE over a held copy and by one who may not. -/
theorem test_boot_read : (portState (up .boot) upPort).canReach (.port 0) = true ∧ (up .boot).dev.state = .boot ∧ (up .ready).dev.state ≠ .boot ∧
    ({ up .ready with mirror := { Mirror.reset with hvalid := true } } : State).mirror.hvalid = true ∧
    ({ up .ready with mirror := { Mirror.reset with hvalid := true } } : State).unbooked = true ∧
    (up .ready).mayConfigure .buaman = true ∧ (2 ^ 16 - 8) < 2 ^ 16 := by decide +kernel

/-! ## Further clauses of the statements: vaults and bank units -/

/-- VaultQueues: the request of a host that crosses a back-invalidation of its line. -/
def crossing (own : Owner) : State :=
  { portState (atVault { rq0 .read with own := own } 1) { upPort with bisnp := [1], waitBi := [rq0 .read] } with
    tiles := [(0, { Tile.reset with granules := [0] })] }
theorem test_vault_crosses : (crossing (.host 0)).crosses { rq0 .read with own := .host 0 } = true ∧
    (crossing (.ldw 0 0)).crosses { rq0 .read with own := .ldw 0 0 } = false ∧ (crossing (.host 0)).clocked = true ∧
    ((crossing (.host 0)).xing 128).fifo = [(.rq { rq0 .read with own := .host 0 }, [])] ∧
    (crossing (.host 0)).granuleValid 0 ((crossing (.host 0)).granuleOf (placeOf 0 0 0)) = true := by decide +kernel

/-- VaultQueues: a narrow write in Clotu mode; a write-back whose bank stack is busy and free. -/
def narrow : Rq := { rq0 .write with mask := 1 }
def clotuServe : State :=
  { servable narrow [0] with tiles := [(0, { Tile.reset with granules := [0], clotu := true })] }
theorem test_vault_narrow : clotuServe.mayServe 0 0 0 = some { rq := narrow, passed := 0, acked := false } ∧ clotuServe.isRmw narrow = false ∧
    narrow.whole = false ∧ (servable narrow [0]).isRmw narrow = true ∧ (servable (rq0 .read) [0]).mayServe 0 0 0 =
      some { rq := rq0 .read, passed := 0, acked := false } ∧ ((combining false).vault 0 0).canTransfer (lineBank 0) (lineRow 0) = true ∧
    ({ Vault.reset with calSlot := true } : Vault).canTransfer (lineBank 0) (lineRow 0) = false := by decide +kernel

/-- VaultUpkeep: a bank stack that refreshes holds the granule's zeros; a row left to the controller whose hit is queued. -/
def hinted (h : Nat) : Vault :=
  { Vault.reset with
    openRow := List.replicate 8 (some 0), rowHint := List.replicate 8 h, queue := [{ rq := rq0 .read, passed := 0, acked := false }] }
theorem test_rows : ∀ h ∈ [0, 1], ((vaultState (hinted h)).vault 0 0).hits (rq0 .read) = true ∧ lineBank (rq0 .read).line = 0 ∧
    nth ((vaultState (hinted h)).vault 0 0).rowHint 0 0 = h ∧ ((vaultState (hinted h)).vault 0 0).kernels = [none, none, none, none] ∧
    (vaultState { Vault.reset with refreshing := List.replicate 8 true }).granuleFree 0 0 = false ∧
    (vaultState Vault.reset).granuleFree 0 0 = true ∧ nth (owing (-4) true).refBal 0 0 ≤ -4 := by decide +kernel

/-- VaultErrors: a line of one wrong bit to scrub, and one that no correction mends; Clotu mode without an erased layer. -/
def worn (m : List Host.Cell) : State := { scrubbed with mem := m }
theorem test_scrub_errors :
    (match (worn [(0, 1)]).peek (placeOf 0 0 0) with | .corrected _ _ _ => true | _ => false) = true ∧
    (match (worn ((List.range 40).map fun i => (i, 0xFF))).peek (placeOf 0 0 0) with | .bad _ => true | _ => false) = true ∧
    Memory.wf (worn [(0, 1)]).mem = true ∧ Memory.wf (worn ((List.range 40).map fun i => (i, 0xFF))).mem = true ∧
    (firstFrom ((worn [(0, 1)]).scrubLines 0 0) 0).map (·.line) = some 0 ∧
    (clotuServe.tile 0).clotu = true ∧ ((vaultState Vault.reset).vault 0 0).canTransfer 0 0 = true := by decide +kernel

/-- BankUnitPrograms: a unit that is ready; a row that is not open; a layer that keeps no plain column, an
erased layer. -/
theorem test_bank_more : (up .bank).buAt 0 0 0 0 0 = false ∧ ((up .bank).vault 0 0).owesFour 7 = false ∧
    (∀ op ∈ [6, 7, 8, 13], (bankState .bank 0 (BitVec.ofNat 32 (op * 2 ^ 27)) none).buAt 0 0 0 3 op = true ∧
      (bankState .bank 0 (BitVec.ofNat 32 (op * 2 ^ 27)) none).reachCol 0 0 0 3 0 = none) ∧
    ((bankState .bank 8 (BitVec.ofNat 32 (7 * 2 ^ 27)) (some 0)).reachCol 0 0 8 3 0).isSome = true ∧
    ({ bankState .bank 0 0 (some 0) with vaults := [(0, { Vault.reset with openRow := List.replicate 8 (some 0), erased := some 5 })] } :
      State).reachCol 0 0 0 3 0 = some { tile := 0, vault := 0, bs := 6, row := 0, col := 0 } := by decide +kernel

/-- BankBus: each command's header to every unit, a reserved one, and one to layers that are not there. -/
theorem test_bank_frames : ∀ o, o < 16 → fld (BitVec.ofNat 16 (o * 2 ^ 12 + 15 * 2 ^ 8 + 2 ^ 5)) 15 12 = o ∧
    fld (BitVec.ofNat 16 (o * 2 ^ 12 + 15 * 2 ^ 8 + 2 ^ 5)) 11 8 = 15 ∧ tst (BitVec.ofNat 16 (o * 2 ^ 12 + 15 * 2 ^ 8 + 2 ^ 5)) 5 = true ∧
    fld (BitVec.ofNat 16 (o * 2 ^ 12 + 10 * 2 ^ 8)) 11 8 = 10 := by decide +kernel
theorem test_bank_none_there (l k : Nat) (h : l < 10) :
    ¬(l < 10 ∧ k < 4 ∧ (fld (BitVec.ofNat 16 (3 * 2 ^ 12 + 10 * 2 ^ 8)) 11 8 = 15 ∨ fld (BitVec.ofNat 16 (3 * 2 ^ 12 + 10 * 2 ^ 8)) 11 8 = l) ∧
      (tst (BitVec.ofNat 16 (3 * 2 ^ 12 + 10 * 2 ^ 8)) 5 = true ∨ fld (BitVec.ofNat 16 (3 * 2 ^ 12 + 10 * 2 ^ 8)) 7 6 = k)) := by
  rw [show fld (BitVec.ofNat 16 (3 * 2 ^ 12 + 10 * 2 ^ 8)) 11 8 = 10 by decide +kernel]
  omega
/-- BankKernels: a job that reports results, its group's bank stack refreshing. -/
theorem test_kernel_results : jobB (BitVec.ofNat 512 (2 ^ 254)) = 0 ∧ jobB (0 : BitVec 512) = 1 := by decide +kernel

/-! ## Further clauses of the statements: host ports -/

/-- HostLinkLosses: a port trained and not yet up, one whose loss has begun; HostLinkStatesAndReset: HP0 in GREY, a recovery that
ends below BOOK's link with one request held, a link to lose CXL, a message due in a recovery. -/
def slowing : Port := { upPort with recovering := true, bookWidth := 16, bookRate := 6, width := 8, rate := 5, hostRqs := [{ rq := rq0 .read, sent := false }] }
theorem test_port_kinds : ({ Port.reset with rate := 1 } : Port).rate ≠ 0 ∧ ({ upPort with losing := some 1 } : Port).losing.isSome = true ∧
    (portState (up .grey) Port.reset).awake = true ∧ (up .grey).dev.state = .grey ∧
    (portState (up .booked) slowing).planBooked = true ∧ slowing.width < slowing.bookWidth ∧ slowing.recovering = true ∧
    (slowing.cxlCache = false ∨ 5 ≤ slowing.rate) ∧ slowing.losing = none ∧ slowing.sendable (rq0 .read) = true ∧
    upPort.heldRqs = [] ∧ upPort.cxlCache = true ∧ upPort.bookWidth ≤ 4 ∧ (4 : Nat) < 5 ∧
    nth ({ dueMsix true with recovering := true } : Port).heldMsix 7 (false, false) = (true, true) := by decide +kernel

/-- HostAnswers: a modified line to snoop, the page requests of a port that translates. -/
def asks (ats pri wait : List (BitVec 45)) : Port := { upPort with atsEn := true, atsReqs := ats, pageReqs := pri, pageWait := wait }
theorem test_snoop_modified : ({ upPort with cache := [(64, true), (128, false)] } : Port).cache.any (fun e => decide (e.1 = 64) && e.2) = true ∧
    ({ upPort with hostRqs := [{ rq := rq0 .read, sent := true }] } : Port).hasSent 1 = true ∧
    (hostState upPort).keeps (rq0 .read) = false ∧ (hostState upPort).keeps { rq0 .read with own := .ldw 0 0, da := 2 ^ 46 } = true ∧
    upPort.peerAt 0 = false ∧ ({ upPort with peers := [(0, 64)] } : Port).peerAt 0 = true := by decide +kernel
theorem test_pages : (asks [5] [] []).atsReqs.contains 5 = true ∧ (asks [5] [] []).pageReqs.length < 256 ∧ (asks [5] [] []).atc.length < 4096 ∧
    256 ≤ (asks [5] (List.replicate 256 6) []).pageReqs.length ∧ (asks [] [5] [7]).atsReqs.contains 5 = false ∧
    (asks [] [5] [7]).pageReqs.contains 5 = true ∧ ((asks [] [5] [7]).pageReqs.filter fun g => decide (g ≠ 5)).length < 256 ∧
    (5 : BitVec 45) ∉ (asks [] [5] [7]).pageWait ∧ (asks [] [5] [7]).bme = true := by decide +kernel

/-- HostRequests: a full set of the filter; the way of a request to its vault; dirty data for a usable vault. -/
def fullSet : List Nat := (List.range 16).map fun i => 64 * 524288 * (i + 1)
theorem test_victim : ({ upPort with filter := fullSet } : Port).victim 0 = some (64 * 524288) ∧ (64 * 524288) % 64 = 0 ∧
    ({ upPort with filter := fullSet } : Port).bisnp = [] := by decide +kernel
def mapped : State := { decoding0 [] false with dev := { (decoding0 [] false).dev with active := [BitVec.ofNat 64 (2 ^ 63)] } }
theorem test_host_path : (mapped.path (.hostPort 0) (.vault 0 0)).isSome = true ∧ mapped.vaultUsable 0 0 = true ∧
    mapped.inBankMode 0 = false ∧ ((mapped.path (.hostPort 0) (.vault 0 0)).map fun l => l.all fun k => !mapped.deadXing k) = some true := by decide +kernel
theorem test_place : (up .ready).place 0 = some (placeOf 0 0 0) ∧ mapped.place 0 = some (placeOf 0 0 0) := by decide +kernel

/-! ## Further clauses of the statements: commands -/

/-- CommandRings: a slot whose line the port holds, a fault ring with a record held from BOOT, a partner's packet whose CRC
matches, come and queued. -/
def bootRec : FaultRec := { bits := BitVec.ofNat 512 (DevState.boot.code * 2 ^ 44), cleared := false }
def partnerPkt : BitVec 512 := sealRecord 0
def partnerMsg : Msg := ctlM 0xD 0 ((List.range 4).map fun i => BitVec.ofNat 128 (partnerPkt.toNat / 2 ^ (128 * i)))
def paired1 : Mirror := { Mirror.reset with en := true, partner := 1, links := 1 }
theorem test_ring_kinds : (upPort.ring 2).en = false ∧ upPort.heldPosted = false ∧ upPort.live = true ∧
    ([bootRec].filter fun e => decide (fld e.bits 47 44 = DevState.boot.code)) = [bootRec] ∧
    (({ ringed 63 1 none with cache := [((hostState (ringed 63 1 none)).slotPhys 0, false)] } : Port).holds
      ((hostState (ringed 63 1 none)).slotPhys 0)) = true ∧ upPort.peerAt 0 = false ∧ upPort.cache = [] := by decide +kernel
theorem test_partner_packet : (takeControl (heard partnerMsg paired1) 0 0xD).1 = some partnerMsg ∧
    partnerMsg.src = (takeControl (heard partnerMsg paired1) 0 0xD).2.mirror.partner.toNat ∧
    (takeControl (heard partnerMsg paired1) 0 0xD).2.takes .partner = true ∧ unitsLine partnerMsg.body = partnerPkt ∧
    pktCrcOk (unitsLine partnerMsg.body) = true ∧ (up .ready).nextArrival = none ∧
    ({ heard partnerMsg paired1 with dev := { (heard partnerMsg paired1).dev with arrivals := [.msg partnerPkt] } } : State).nextArrival =
      some (.msg partnerPkt) := by decide +kernel

/-- FastCommands: no post, and an operation under way; an aligned and a misaligned block. ShortCommands: a START whose page is
translated, one that can ask for it, and one that cannot. -/
theorem test_no_posts : (up .ready).dev.posts = [] ∧ (up .ready).dev.hubOp ≠ (up .ready).dev.hubNext ∧
    pktP0 (pkt 0x01 0) % 64 = 0 ∧ pktP0 (pkt 0x01 (2 ^ 96)) % 64 ≠ 0 := by decide +kernel
def pagePlan : Plan := { emptyPlan 0 with
  regions := [{ base := 2 ^ 46, len := 4096, mirror := false, spill := false, hshared := false, zstart := false, run := 0 }] }
def pagePort (live : Bool) (l : List Atc) : State :=
  { portState (up .booked) { upPort with atsEn := true, atc := l, bme := live } with dev := { (up .booked).dev with plan := some pagePlan } }
theorem test_start_pages : (pagePort true [lockedPage]).translated pagePlan = true ∧ (pagePort true []).translated pagePlan = false ∧
    (pagePort true []).canTranslate pagePlan = true ∧ (pagePort false []).canTranslate pagePlan = false ∧
    (pagePort true []).stillAdmissible pagePlan = true ∧ (pagePort true []).belowFloor = false ∧
    (pagePort true []).takes .hp0 = true ∧ (pagePort true []).gate .hp0 (setFld (pkt 0 0) 7 0 0x0A) = none ∧
    (portState (up .booked) Port.reset).stillAdmissible pagePlan = false := by decide +kernel

/-- LongCommandsComplete: work that may be done and work that was; a raw line; a job with results; the ends of a restore; BOOK's
recalls under way. -/
theorem test_long_work : (longState .ready (some (someLong 0x10 0)) none).unheld 0 64 = true ∧
    (longState .ready (some (someLong 0x10 0)) none).discardReady 0 64 = true ∧ (up .ready).dev.hubLeft = none ∧
    (up .ready).dev.hubAsk = [] ∧ (up .ready).inStacked 0 64 = true ∧ rangeLines 0 64 = [(0, fullMask)] ∧
    (up .ready).place 0 = some (placeOf 0 0 0) ∧ (up .ready).kind 0 = .stacked ∧ ((up .ready).path .control (.vault 0 0)).isSome = true ∧
    (((up .ready).path .control (.vault 0 0)).map fun l => l.all fun k => !(up .ready).deadXing k) = some true ∧
    ((up .ready).rangePlaces 0 64).all (up .ready).lineQuiet = true ∧
    ((up .ready).granulesOf 0 4096).all (fun g => (up .ready).granuleValid g.1 g.2 || (up .ready).granuleFree g.1 g.2) = true := by decide +kernel
def rawLine : State := { worn ((List.range 16).map fun i => (64 + i, 0xFF)) with vaults := [(0, { Vault.reset with rawRows := [0] })] }
theorem test_raw_line : rawLine.peek (placeOf 0 0 0) = .raw ∧ rawLine.rawRow (placeOf 0 0 0) = true ∧ rawLine.clotuOf (placeOf 0 0 0) = false ∧
    rawLine.place 0 = some (placeOf 0 0 0) ∧ Memory.wf rawLine.mem = true ∧ tst (rawLine.vault 0 0).flipctl 63 = false := by decide +kernel
theorem test_job_results : (up .bank).jobDone = true ∧ jobB (pkt 0x1A (6 * 2 ^ 248)) = 64 ∧ pktP2 (pkt 0x1A (6 * 2 ^ 248)) % 64 = 0 ∧
    entered.rangeAt (pktP0 (pkt 0x1A (6 * 2 ^ 248))) = some (0, 2 ^ 36) ∧ (2 ^ 36 / 64) % 4 = 0 ∧
    (∀ st ∈ [2, 3, 4], 2 ≤ st ∧ st ≤ 4) ∧ (up .ready).restoreLinks 0 = [] ∧ pktP3 (pkt 0x28 (2 ^ 240)) = 1 := by decide +kernel
theorem test_book_recalls : ({ pagePlan with regions := pagePlan.regions.map fun r => { r with base := 0 } } : Plan).fenced = [(0, 4096)] ∧
    (portState (up .ready) { upPort with bisnp := [1] }).recalled 0 4096 = false ∧ (up .ready).dev.bookLoss = none ∧
    (up .ready).usableFail { pagePlan with regions := pagePlan.regions.map fun r => { r with base := 0 } } = none ∧
    (booking 0 false).fillReady ((booking 0 false).admission (emptyPlan 0)).2 = true := by decide +kernel

/-! ## Further clauses of the statements: links and mirroring -/

/-- LinksTrainAndGoDown: a full retry buffer, a proposal of the far end for a lane that fails and for another; PeerMessages: a
request of each class that holds buffer. -/
theorem test_link_kinds : ({ upLink with retryBuf := List.replicate 4096 (0, 0) } : Link).retryBuf.length = 4096 ∧
    (upLink.failing true).contains 5 = false ∧ (upLink.failing true).length < 2 ∧
    ((sparing [] [aSwitch false]).failing true).contains 5 = true ∧ (∀ w ∈ (sparing [] [aSwitch true]).switches, w.told = true) ∧
    (sparing [] [aSwitch true]).switches.find? (sparing [] [aSwitch true]).due = some (aSwitch true) ∧
    isResponse 4 = true ∧ isResponse 1 = false ∧
    writeKind (dataM 2 1 0 [] 0).aop ≠ none ∧ (heard (dataM 2 1 0 [] 0) storing).dev.devid ≠ 0xFFF := by decide +kernel

/-- MirrorStore: a line that is not quiet; a COMMIT and a MIRMAP of a restore's source; MirrorSource: a pair that forms in silence,
a commit kept back, a restore's answers. -/
theorem test_store_lines : (heard (dataM 2 6 0 [] 1) storing).storeReady 0 = true ∧ ((dataM 2 6 0 [] 1).das.flatMap storing.neededDas) = [] ∧
    ({ heard (dataM 2 6 0 [] 1) storing with vaults := [(0, { Vault.reset with calSlot := true })] } : State).storeReady 0 = false ∧
    ({ storing with held := [(0, 4096)] } : Mirror).neededDas 0 ≠ [] := by decide +kernel
theorem test_restore_messages :
    (∀ mt ∈ [9, 0xB], (takeControl (heard (ctlM mt 0 [0]) restoring) 0 mt).1 = some (ctlM mt 0 [0])) ∧ restoring.restoreIn.isSome = true ∧
    (ctlM 9 0 [0]).src = restoring.restsrc.toNat ∧ restoring.resten = true ∧
    (heard (ctlM 0xB 0 [0]) restoring).dev.state = .ready ∧ (heard (ctlM 0xB 0 [0]) restoring).fromPartner (ctlM 0xB 0 [0]) = false := by
  decide +kernel
def linkedStep : State :=
  { mirrorStep .active with links := [(0, upLink)], dev := { (mirrorStep .active).dev with devid := 2 } }
theorem test_source_kinds : (paired .forming none).pair = .forming ∧ 1000 ≤ (paired .forming none).silence.toNat ∧
    (mirrorStep .active).commitReady = true ∧ (mirrorStep .active).toSend = [] ∧ (mirrorStep .active).mirrorUp = [] ∧
    linkedStep.mirrorUp = [0] ∧ linkedStep.commitReady = true ∧ linkedStep.legsFinished = true ∧ linkedStep.planMirrors = true ∧
    ({ mirrorStep .active with
        mirror := { paired .active none with map := [(0, 4096)] }
        vaults := [(0, { Vault.reset with queue := [{ rq := rq0 .write, passed := 0, acked := true }] })] } : State).commitReady = false := by
  decide +kernel
theorem test_restore_answers : ∀ ph ∈ [0, 1], ∀ r ∈ [0, 1], ∀ sh ∈ [0, 2],
    (takeControl (heard (ctlM 0xA (r * 2 ^ 56) []) { paired1 with restoreTo := some (1, ph), restoreShorts := sh }) 0 0xA).1 =
      some (ctlM 0xA (r * 2 ^ 56) []) ∧ (ctlM 0xA (r * 2 ^ 56) []).res = r ∧ (ctlM 0xA (r * 2 ^ 56) []).src = 1 ∧
    ((heard (ctlM 0xA (r * 2 ^ 56) []) { paired1 with restoreTo := some (1, ph), restoreShorts := sh }).answerDas 1).all
      (heard (ctlM 0xA (r * 2 ^ 56) []) { paired1 with restoreTo := some (1, ph), restoreShorts := sh }).daQuiet = true := by decide +kernel

/-! ## Further clauses of the statements: failures, power, start-up -/

/-- StepsEndAndBreach: a core over its demand; CoresAndTilesFail: a remap under way, a core that carries nothing. -/
theorem test_failure_kinds : ({ lateLeg with dev := { lateLeg.dev with stepOver := true } } : State).dev.stepOver = true ∧
    ((sparingCore 0).dev.remaps.any fun r => decide (r.tile = 0 / 17)) = true ∧ (sparingCore 0).coreUsable 0 = true ∧
    (sparingCore 0).logicalOf 0 = some 0 ∧ (up .ready).logicalOf 16 = none ∧ (up .ready).coreUsable 16 = true ∧
    (up .boot).dev.state = .boot ∧ (up .boot).clocked = true := by decide +kernel
/-- PowerAndTemperature: supplies at their bounds, after a fall and before. StartsFreezesResets: an image that does not verify.
SidebandAndJtag: a register write by JTAG under the DEBUGW fuse. -/
theorem test_supplies : ({ (up .ready).power with vinOk := false } : Power).valid = false ∧ (up .ready).power.vinOk = true ∧
    (3800 ≤ 3800 ∧ 3600 ≤ 3799 ∧ 1620 ≤ 1620 ∧ 3000 ≤ 3000) ∧ (up .frozen).power.valid = true ∧
    (flashed 0 id false .boot false).starting = true ∧
    ({ flashed 0 id false .boot false with sec := { (flashed 0 id false .boot false).sec with imageWhy := 1 } } : State).sec.imageWhy = 1 ∧
    (flashed 0 (fun f => { f with attempts := [] }) false .boot true).sec.flash.governing = none ∧
    ({ up .ready with fuses := { (up .ready).fuses with debugW := true } } : State).canReach .jtag = true := by decide +kernel
/-- EmptyQueueIsATick: a status to post and one that waits. GenerationCountsStateChanges: no packet of the partner's waits. -/
def waitingPost (n : Nat) : Post := { op := 5, left := n, src := .hp0, pkt := 0, words := [] }
theorem test_posts : ([waitingPost 0, waitingPost 1].filter fun p => decide (p.left ≠ 0)) = [waitingPost 1] ∧ (up .ready).dev.arrivals = [] ∧
    (up .ready).dev.starting = none ∧ (up .ready).takes .hp0 = true := by decide +kernel

/-! ## Whole premises of single clauses -/

/-- A long command in progress, the other registers of the device as f leaves them. -/
def working (l : Long) (f : Dev → Dev) : State :=
  { longState .ready (some l) none with dev := f (longState .ready (some l) none).dev }
/-- LongCommandsComplete: the writes of DISCARD, FILL, COPY and BANK_RUN are acknowledged. -/
theorem test_writes_done : ∀ o ∈ [0x10, 0x11, 0x12], (working (someLong o 0) fun d => { d with hubLeft := some 0 }).clocked = true ∧
    (working (someLong o 0) fun d => { d with hubLeft := some 0 }).dev.long = some (someLong o 0) ∧ pktOpc (someLong o 0).pkt = o ∧
    (working (someLong o 0) fun d => { d with hubLeft := some 0 }).dev.hubLeft = some 0 := by decide +kernel
def jobDone (h : Option Nat) : State := working (someLong 0x1A 0) fun d => { d with hubLeft := h, job := some (someLong 0x1A 0, []), jobStop := true }
theorem test_job_done : ((jobDone (some 0)).dev.job.map Prod.fst) = some (someLong 0x1A 0) ∧ (jobDone (some 0)).dev.hubLeft = some 0 ∧
    ((jobDone none).dev.job.map Prod.fst) = some (someLong 0x1A 0) ∧ (jobDone none).jobDone = true ∧ (jobDone none).dev.jobStop = true ∧
    (jobDone none).dev.long = some (someLong 0x1A 0) ∧ (jobDone none).clocked = true ∧
    (working (someLong 0x1A 0) fun d => { d with jobStop := true }).dev.job.isNone = true ∧
    (working (someLong 0x1A 0) fun d => { d with jobStop := true }).dev.jobStop = true := by decide +kernel
/-- DISCARD, FILL, COPY and BANK_RUN of one line, with its way to its vault; the lines of DISCARD's granule are whole. -/
theorem test_writes_begin : ∀ o ∈ [0x11, 0x12],
    (working (someLong o (64 * 2 ^ (if o = 0x11 then 144 else 192))) id).dev.hubLeft = none ∧
    (working (someLong o (64 * 2 ^ (if o = 0x11 then 144 else 192))) id).dev.hubAsk = [] ∧
    (working (someLong o (64 * 2 ^ (if o = 0x11 then 144 else 192))) id).place 0 = some (placeOf 0 0 0) ∧
    (working (someLong o (64 * 2 ^ (if o = 0x11 then 144 else 192))) id).kind 0 = .stacked ∧
    (working (someLong o (64 * 2 ^ (if o = 0x11 then 144 else 192))) id).vaultUsable 0 0 = true ∧
    (((working (someLong o (64 * 2 ^ (if o = 0x11 then 144 else 192))) id).path .control (.vault 0 0)).map fun l =>
      l.all fun k => !(working (someLong o (64 * 2 ^ (if o = 0x11 then 144 else 192))) id).deadXing k) = some true ∧
    (working (someLong 0x11 (64 * 2 ^ 144)) id).inStacked 0 64 = true ∧ rangeLines 0 64 = [(0, fullMask)] := by decide +kernel
theorem test_discard_whole : (working (someLong 0x10 (2 ^ 180)) fun d => { d with active := [BitVec.ofNat 64 (2 ^ 63)] }).recalled 0 (2 ^ 36) = true ∧
    pktP1 (someLong 0x10 (2 ^ 180)).pkt = 2 ^ 36 ∧
    (working (someLong 0x10 (2 ^ 180)) fun d => { d with active := [BitVec.ofNat 64 (2 ^ 63)] }).dev.ranges.all (·.isNone) = true := by decide +kernel
/-- ENCODE of one raw line. -/
def encoding (bits : Nat) : State :=
  { rawLine with dev := { rawLine.dev with long := some (someLong 0x13 bits) } }
theorem test_encode_line : (encoding (64 * 2 ^ 144)).clocked = true ∧ (encoding (64 * 2 ^ 144)).dev.long = some (someLong 0x13 (64 * 2 ^ 144)) ∧
    pktP1 (someLong 0x13 (64 * 2 ^ 144)).pkt = 64 ∧ (encoding (64 * 2 ^ 144)).recalled 0 64 = true ∧ (encoding (64 * 2 ^ 144)).unheld 0 64 = true ∧
    ((encoding (64 * 2 ^ 144)).rangePlaces 0 64).all (encoding (64 * 2 ^ 144)).lineQuiet = true ∧
    (encoding (64 * 2 ^ 144)).place 0 = some (placeOf 0 0 0) ∧ (encoding (64 * 2 ^ 144)).vaultUsable 0 0 = true ∧
    (encoding (64 * 2 ^ 144)).rawRow (placeOf 0 0 0) = true ∧ (encoding (64 * 2 ^ 144)).peek (placeOf 0 0 0) = .raw := by decide +kernel
/-- BANK_ENTER of one granule and BANK_RUN's results of two blocks' worth of an entered range. -/
theorem test_enter_done : (working (someLong 0x18 (4096 * 2 ^ 144)) id).dev.ranges.findIdx? (·.isNone) = some 0 ∧
    pktP1 (someLong 0x18 (4096 * 2 ^ 144)).pkt = 4096 ∧ ((working (someLong 0x18 (4096 * 2 ^ 144)) id).granulesOf 0 4096).all (fun g =>
      (working (someLong 0x18 (4096 * 2 ^ 144)) id).granuleValid g.1 g.2 || (working (someLong 0x18 (4096 * 2 ^ 144)) id).granuleFree g.1 g.2) = true ∧
    (working (someLong 0x18 (4096 * 2 ^ 144)) id).recalled 0 4096 = true ∧ (working (someLong 0x18 (4096 * 2 ^ 144)) id).unheld 0 4096 = true := by
  decide +kernel
def reporting : State :=
  let l := someLong 0x1A (6 * 2 ^ 248 + 4096 * 2 ^ 192)
  { up .bank with dev := { (up .bank).dev with
    long := some l, job := some (l, []), ranges := some (0, 256) :: List.replicate 7 none } }
theorem test_job_reports : reporting.clocked = true ∧ (reporting.dev.job.map Prod.fst) = some (someLong 0x1A (6 * 2 ^ 248 + 4096 * 2 ^ 192)) ∧
    reporting.dev.hubLeft = none ∧ reporting.jobDone = true ∧ jobB (someLong 0x1A (6 * 2 ^ 248 + 4096 * 2 ^ 192)).pkt = 64 ∧
    reporting.dev.jobStop = false ∧ reporting.rangeAt (pktP0 (someLong 0x1A (6 * 2 ^ 248 + 4096 * 2 ^ 192)).pkt) = some (0, 256) ∧
    pktP2 (someLong 0x1A (6 * 2 ^ 248 + 4096 * 2 ^ 192)).pkt = 4096 ∧ (256 / 64) % 4 = 0 ∧ rangeLines 4096 64 = [(4096, fullMask)] ∧
    (reporting.place 4096).isSome = true ∧ reporting.kind 4096 = .stacked := by decide +kernel
/-- RESTORE_TO at each of its ends, and before its map is sent with no link of its mask up. -/
def restoringTo (p : Option (BitVec 12 × Nat)) : State :=
  { working (someLong 0x23 0) id with mirror := { Mirror.reset with restoreTo := p } }
theorem test_restore_ends : ∀ st ∈ [2, 3, 4], (restoringTo (some (1, st))).dev.long = some (someLong 0x23 0) ∧
    (restoringTo (some (1, st))).mirror.restoreTo = some (1, st) ∧ (restoringTo (some (1, st))).clocked = true ∧
    (restoringTo none).mirror.restoreTo = none ∧ (restoringTo none).restoreLinks (nfld (pktP4 (someLong 0x23 0).pkt) 23 0) = [] := by decide +kernel
/-- SELFTEST of the cores, CALIBRATE of tile 7, FW_STAGE of an image of the partition, BOOK before its recalls end. -/
theorem test_selftest_cores : (working (someLong 0x28 (2 ^ 240)) id).dev.long = some (someLong 0x28 (2 ^ 240)) ∧
    pktP3 (someLong 0x28 (2 ^ 240)).pkt = 1 ∧ ({ badCores := [], badLinks := [], badHub := false } : SelftestResult).badCores = [] := by decide +kernel
theorem test_calibrate_tile : (working (someLong 0x29 (2 ^ 247)) id).dev.long = some (someLong 0x29 (2 ^ 247)) ∧
    onBits 8 (pktP3 (someLong 0x29 (2 ^ 247)).pkt) = [7] ∧ (working (someLong 0x29 (2 ^ 247)) id).tileUsable 7 = true ∧
    (working (someLong 0x29 (2 ^ 247)) id).vaultUsable 7 63 = true := by decide +kernel
/-- LongCommandsBegin: BANK_ENTER of whole spans of the window; DISCARD of a region of the plan. -/
theorem test_enter_begins : (up .ready).takes .hp0 = true ∧ (up .ready).gate .hp0 (setFld (pkt 0 (2 ^ 156)) 7 0 0x18) = none ∧
    pktP1 (pkt 0 (2 ^ 156)) = 4096 ∧ (up .ready).enterRefusal (pktP0 (pkt 0 (2 ^ 156))) (pktP1 (pkt 0 (2 ^ 156))) = none ∧
    hitPlan.gate .hp0 (setFld (pkt 0 (2 ^ 144)) 7 0 0x10) = none ∧ hitPlan.takes .hp0 = true ∧
    hitPlan.discardHitsPlan (pktP0 (pkt 0 (2 ^ 144))) (pktP1 (pkt 0 (2 ^ 144))) = true ∧
    hitPlan.inStacked (pktP0 (pkt 0 (2 ^ 144))) (pktP1 (pkt 0 (2 ^ 144))) = true := by decide +kernel
/-- FastCommands: IDENTIFY and FAULT_READ into stacked memory. -/
theorem test_identify_block : ∀ b ∈ [4096 * 2 ^ 96, 4096 * 2 ^ 96 + 2 ^ 272], (up .ready).takes .hp0 = true ∧ pktP0 (pkt 0x01 b) = 4096 ∧
    pktP0 (pkt 0x38 b) % 64 = 0 ∧ (up .ready).dev.posts = [] ∧ (up .ready).dev.hubOp ≠ (up .ready).dev.hubNext := by decide +kernel
/-- BankBus: the frames that load and start units and poll them, to every unit and to one. -/
theorem test_bank_loads : ∀ o ∈ [1, 2, 3], ∀ h ∈ [15 * 2 ^ 8 + 2 ^ 5, 9 * 2 ^ 8 + 3 * 2 ^ 6 + 2],
    fld (BitVec.ofNat 16 (o * 2 ^ 12 + h)) 15 12 = o ∧ (up .bank).busRuns 0 0 = true ∧ (bankState .bank 9 0 none).busRuns 0 0 = true ∧
    ((up .bank).unit (unitKey 0 0 9 3)).ready = true := by decide +kernel
/-- PowerAndTemperature: readings of a tile at every band, a VIN between its thresholds. -/
theorem test_readings : ∀ x ∈ [(300 : Int), 1200, 1510, 1700], ({ readings := List.replicate 56 (some x) } : ThermalObs).readings.length = 56 ∧
    (up .ready).clocked = true ∧ (up .ready).tileUsable 7 = true := by decide +kernel
theorem test_vin_low : ∀ mv ∈ [36000, 39999, 40000, 40500], (up .ready).awake = true ∧ 36000 ≤ mv ∧ (up .ready).vinHeld = false := by decide +kernel
/-- HostRequests: a read of a line whose set of the filter is full, through a decoder. -/
def crowded : State := portState mapped { upPort with hdm := [some decoder0, none], filter := fullSet }
theorem test_crowded : crowded.portUp 0 = true ∧ (crowded.port 0).cxlMem = true ∧ (crowded.port 0).decode 0 = some 0 ∧
    crowded.fencedByPlan 0 = false ∧ crowded.dev.mapBusy = false ∧ crowded.entering 0 = false ∧ 0 < crowded.stackedTop ∧
    (crowded.port 0).victim 0 = some (64 * 524288) ∧ (crowded.port 0).bisnp.contains (64 * 524288 + 1) = false ∧
    crowded.place 0 = some (placeOf 0 0 0) ∧ crowded.inBankMode 0 = false ∧ crowded.vaultUsable 0 0 = true := by decide +kernel
/-- MirrorStore: COMMIT and MIRMAP of a restore's source, the partner's takeover and its status. -/
theorem test_restore_control : ∀ mt ∈ [9, 0xB], (takeControl (heard (ctlM mt 0 [0]) restoring) 0 mt).1 = some (ctlM mt 0 [0]) ∧
    (takeControl (heard (ctlM mt 0 [0]) restoring) 0 mt).2.mirror.restoreIn =
      some { map := [], step := 5, got := 0, failed := false, total := none } ∧
    (takeControl (heard (ctlM mt 0 [0]) restoring) 0 mt).2.mirror.resten = true ∧
    (ctlM mt 0 [0]).src = (takeControl (heard (ctlM mt 0 [0]) restoring) 0 mt).2.mirror.restsrc.toNat ∧
    (takeControl (heard (ctlM mt 0 [0]) restoring) 0 mt).2.dev.state = .ready ∧ (heard (ctlM mt 0 [0]) restoring).clocked = true := by decide +kernel
theorem test_partner_takes : (takeControl (heard (ctlM 0xC 0 [0]) storing) 0 0xC).1 = some (ctlM 0xC 0 [0]) ∧
    (takeControl (heard (ctlM 0xC 0 [0]) storing) 0 0xC).2.mirror.en = true ∧
    (ctlM 0xC 0 [0]).src = (takeControl (heard (ctlM 0xC 0 [0]) storing) 0 0xC).2.mirror.partner.toNat ∧
    (takeControl (heard (ctlM 0xC 0 [0]) storing) 0 0xC).2.mirror.commit = none ∧
    (takeControl (heard (ctlM 0xC 0 [0]) storing) 0 0xC).2.longOf 0x22 = none ∧
    (takeControl (heard (ctlM 0xE 0 [0, 1, 2, 3]) storing) 0 0xE).1 = some (ctlM 0xE 0 [0, 1, 2, 3]) ∧
    (heard (ctlM 0xE 0 [0, 1, 2, 3]) storing).clocked = true := by decide +kernel
/-- MirrorSource: a COMMIT not yet sent, and none begun, a mirror link being up. -/
def unsent (c : Option CommitSt) : State :=
  { mirrorStep .active with
    dev := { (mirrorStep .active).dev with devid := 2 }, links := [(0, { upLink with state := .verified })], mirror := paired .active c }
theorem test_commit_unsent : ∀ c ∈ [none, some { step := 1, sent := false, shorts := 1 }], (unsent c).mirrorUp = [0] ∧
    (unsent c).commitReady = true ∧ (unsent c).mirror.commit = c ∧ (unsent c).mirror.pair = .active ∧ (unsent c).running = true ∧
    (unsent c).legsFinished = true ∧ (unsent c).planMirrors = true ∧ (unsent c).dev.commitDone = none ∧ (unsent c).clocked = true := by
  decide +kernel
/-- VaultUpkeep: a neighbour refresh due. -/
theorem test_neighbour_due : ({ Vault.reset with acts := [(5, 1023), (6, 1024), (7, 1030)] :: List.replicate 7 [] } : Vault).neighbourDue 0 = true ∧
    (vaultState { Vault.reset with acts := [(5, 1023), (6, 1024), (7, 1030)] :: List.replicate 7 [] }).clocked = true ∧
    nth ({ Vault.reset with acts := [(5, 1023), (6, 1024), (7, 1030)] :: List.replicate 7 [] } : Vault).acts 0 [] = [(5, 1023)] ++ (6, 1024) :: [(7, 1030)] ∧
    max 64 (vaultState Vault.reset |>.vault 0 0).thresh.toNat ≤ 1024 := by decide +kernel
end Sys2Proof.Tests
end

/-!
PROOFS. Semaphore counts (R177): what a signal does to the sequencer that owns the semaphore, within the 16-bit range
and past either end of it.
-/
namespace Sys2Proof.Machine

/-! ## A signal of an engine -/

/-- A command that leaves its queue leaves the sequencer as it was. -/
theorem popHead_seq (s : State) (c e : Nat) : ((popHead s c e).core c).seq = (s.core c).seq := by
  unfold popHead
  rw [State.updCore_core]
  unfold Core.setQueue
  split <;> rfl

/-- The signal of a completing command joins those not yet settled, with the amount 1 (R72, R177). -/
theorem complete_popHead_signals (s : State) (c e : Nat) {w : EngCmd} (h : sigEn w = true) :
    ((complete (popHead s c e) c w).core c).seq.signals = (s.core c).seq.signals ++ [(sigSem w, 1, false)] := by
  obtain ⟨-, hsig, -⟩ := complete_spec (popHead s c e) c w
  rw [hsig, popHead_seq]
  simp only [signalOf, h, if_true]

theorem exec_mxNop_of_head {s : State} {c : Nat} {q : QCmd} (h : s.headOp c 0 (· = 0) = some q) :
    exec (.mxNop c) s = .next (complete (popHead s c 0) c q.word) := by
  show execMxNop c s = _
  simp only [execMxNop, h]

/-! ## A signal applied -/

/-- Semaphore sem set to v. -/
def Seq.setSem (q : Seq) (sem v : Nat) : Seq := { q with sems := q.sems.set sem (BitVec.ofNat 16 v) }

/-- What a saturation leaves in SEQ_SEMFLAGS and its counter (R177). -/
def Seq.saturate (q : Seq) (sem : Nat) (hi : Bool) : Seq :=
  if hi then { q with semHi := q.semHi ||| (1 <<< sem), sathi := satAdd q.sathi 1 }
  else { q with semLo := q.semLo ||| (1 <<< sem), satlo := satAdd q.satlo 1 }

section
variable {s : State} {c sem : Nat} {amt : BitVec 16}

theorem applySignal_add (h : (nth (s.core c).seq.sems sem 0).toNat + amt.toNat ≤ 0xFFFF) :
    applySignal s c sem amt false =
      s.updSeq c fun q => q.setSem sem ((nth (s.core c).seq.sems sem 0).toNat + amt.toNat) := by
  simp only [applySignal, Bool.false_eq_true, if_false, if_pos h, Seq.setSem]

theorem applySignal_sub (h : amt.toNat ≤ (nth (s.core c).seq.sems sem 0).toNat) :
    applySignal s c sem amt true =
      s.updSeq c fun q => q.setSem sem ((nth (s.core c).seq.sems sem 0).toNat - amt.toNat) := by
  simp only [applySignal, if_true, if_pos h, Seq.setSem]

theorem applySignal_add_past (h : 0xFFFF < (nth (s.core c).seq.sems sem 0).toNat + amt.toNat) :
    applySignal s c sem amt false = saturated (s.updSeq c fun q => q.setSem sem 0xFFFF) c sem true := by
  simp only [applySignal, Bool.false_eq_true, if_false, if_neg (Nat.not_le.mpr h), Seq.setSem]

theorem applySignal_sub_past (h : (nth (s.core c).seq.sems sem 0).toNat < amt.toNat) :
    applySignal s c sem amt true = saturated (s.updSeq c fun q => q.setSem sem 0) c sem false := by
  simp only [applySignal, if_true, if_neg (Nat.not_le.mpr h), Seq.setSem]
end

/-- The record of a saturation, posted or not, changes nothing of the sequencer but flags and counter (R177, R180). -/
theorem saturated_seq (s : State) (c sem : Nat) (hi : Bool) :
    ((saturated s c sem hi).core c).seq = (s.core c).seq.saturate sem hi := by
  unfold saturated
  generalize hu : s.updSeq c _ = u
  have hflag : (u.core c).seq = (s.core c).seq.saturate sem hi := by
    rw [← hu, State.updSeq_core]
    rfl
  dsimp only
  split
  case isTrue => exact hflag
  case isFalse =>
    rw [(postFault_aside _ _ _ _ _).seq c, State.updCore_core]
    exact hflag

/-- A signal past either end: the semaphore stands at that end v, and the saturation is kept. -/
theorem saturated_setSem_seq (s : State) (c sem v : Nat) (hi : Bool) :
    ((saturated (s.updSeq c fun q => q.setSem sem v) c sem hi).core c).seq =
      ((s.core c).seq.setSem sem v).saturate sem hi := by
  rw [saturated_seq, State.updSeq_core]

/-! ## SEMS -/

/-- The amount of a SEMS as a 16-bit word. -/
theorem toNat_ofNat_fld_15_0 (w : BitVec 64) : (BitVec.ofNat 16 (fld w 15 0)).toNat = fld w 15 0 :=
  Nat.mod_eq_of_lt (Nat.mod_lt _ (by decide))

/-- A SEMS with no speculation open is a signal applied as it is decoded (R169, R175). -/
theorem exec_sems_of_instrAt {s : State} {c : Nat} {w : BitVec 64} (h : s.instrAt c (· = 7) = some w)
    (hs : (s.core c).seq.specs = []) :
    exec (.sems c) s =
      .next (plain (applySignal s c (fld w 57 53) (BitVec.ofNat 16 (fld w 15 0)) (tst w 52)) c id) := by
  show execSems c s = _
  simp only [execSems, h, hs, List.isEmpty_nil, if_true]

/-- A plain instruction in mid-body after a semaphore is set. -/
theorem plain_setSem_becomes (s : State) (c sem v : Nat) (hr : (s.core c).seq.run = none) (hm : (s.core c).seq.midBody) :
    SeqBecomes c s (plain (s.updSeq c fun q => q.setSem sem v) c id)
      { (s.core c).seq.setSem sem v with pc := (s.core c).seq.pc + 1 } := by
  have hq : ((s.updSeq c fun q => q.setSem sem v).core c).seq = (s.core c).seq.setSem sem v := by
    rw [State.updSeq_core]
  have h := plain_becomes (s.updSeq c fun q => q.setSem sem v) c id (by rw [hq]; exact hr) rfl (by rw [hq]; exact hm)
  rw [hq] at h
  exact h.of_upd

/-- A SEMS whose signal fits sets its semaphore to v and goes on to the next word. -/
theorem sems_becomes {s : State} {c : Nat} {w : BitVec 64} {v : Nat} (h : s.instrAt c (· = 7) = some w)
    (hs : (s.core c).seq.specs = []) (hm : (s.core c).seq.midBody)
    (ha : applySignal s c (fld w 57 53) (BitVec.ofNat 16 (fld w 15 0)) (tst w 52) =
      s.updSeq c fun q => q.setSem (fld w 57 53) v) :
    Answers (.sems c) s fun t =>
      SeqBecomes c s t { (s.core c).seq.setSem (fld w 57 53) v with pc := (s.core c).seq.pc + 1 } := by
  obtain ⟨-, hr, -⟩ := instrAt_some h
  refine Answers.of (exec_sems_of_instrAt h hs) ?_
  rw [ha]
  exact plain_setSem_becomes s c _ v hr hm

/-- Settles O50: a signal within the range sets the count, one past an end saturates with its flag and counter. -/
theorem semaphoreCounts : Obligations.SemaphoreCounts := by
  unfold Obligations.SemaphoreCounts
  refine ⟨rfl, rfl, fun c sem s amt w h => ⟨fun hh hsig => ?signal, fun hi hs hm => ⟨fun hd hk => ?add, fun hd hk => ?sub⟩,
    fun hn => ?high, fun hn => ?low⟩⟩
  case signal => exact Answers.of (exec_mxNop_of_head hh) (complete_popHead_signals s c 0 hsig)
  case add =>
    refine sems_becomes hi hs hm ?_
    rw [hd, applySignal_add (by rwa [toNat_ofNat_fld_15_0]), toNat_ofNat_fld_15_0]
  case sub =>
    refine sems_becomes hi hs hm ?_
    rw [hd, applySignal_sub (by rwa [toNat_ofNat_fld_15_0]), toNat_ofNat_fld_15_0]
  case high =>
    rw [applySignal_add_past hn, saturated_setSem_seq]
    rfl
  case low =>
    rw [applySignal_sub_past hn, saturated_setSem_seq]
    rfl

end Sys2Proof.Machine

/-!
PROOFS. Granules not yet set (R244): a read that makes no DRAM access, at its vault and at the hub, and what a lost vault or a
lost tile answers (R221).
-/
namespace Sys2Proof.Machine

/-! ## A read at its vault -/

/-- A read of a line whose granule bit is 0, of the vault that its request names, makes no DRAM access (R244). -/
theorem noAccess_of_read_invalid {s : State} {t v : Nat} {r : Rq} (hr : r.kind = .read) (ht : r.tile = t) (hv : r.vault = v)
    (hg : s.granuleValid t (s.granuleOf (placeOf t v r.line)) = false) : s.noAccess r = true := by
  subst ht hv
  simp only [State.noAccess, hr, hg, decide_true, Bool.not_false, Bool.and_self]

theorem kind_of_noAccess {s : State} {r : Rq} (h : s.noAccess r = true) : r.kind = .read := by
  simp only [State.noAccess, Bool.and_eq_true, decide_eq_true_eq] at h
  exact h.1

/-- Granule bits and the map stand in the tiles: whether a read goes to the DRAM does not depend on any vault. -/
theorem noAccess_updVault (s : State) (t v : Nat) (f : Vault → Vault) (r : Rq) : (s.updVault t v f).noAccess r = s.noAccess r := rfl

/-- VAULT_SERVE of a read that makes no DRAM access: it leaves the queue and is answered with zeros (R244). -/
theorem exec_vaultServe_noAccess {s : State} {t v k : Nat} {e : QEnt} (h : s.mayServe t v k = some e)
    (hn : s.noAccess e.rq = true) :
    exec (.vaultServe t v k) s =
      .next (answerFrom (s.updVault t v fun x => x.take k) (.vault t v) (e.rq.answer 0 false)) := by
  show execVaultServe t v k s = _
  simp only [execVaultServe, h, kind_of_noAccess hn, noAccess_updVault, hn, if_true, Bool.false_eq_true, if_false]

theorem Rq.answer_of_read {r : Rq} (h : r.kind = .read) (d : Line) (bad : Bool) :
    r.answer d bad = { id := r.id, own := r.own, da := r.ask, isRead := true, data := d, bad := bad } := by
  simp only [Rq.answer, h, decide_true]

theorem updVault_becomes (s : State) (t v : Nat) (f : Vault → Vault) : VaultBecomes t v s (s.updVault t v f) (f (s.vault t v)) :=
  ⟨State.updVault_vault s t v f, fun _ hj => tget_tset_ne _ _ _ hj.symm, rfl⟩

/-- A request taken from the queue leaves rows, counters and latches of its vault as they were (R223). -/
theorem Vault.take_frame (x : Vault) (k : Nat) :
    x.take k = { x with queue := (x.take k).queue, draining := (x.take k).draining } := rfl

/-! ## A line seen from the hub -/

section
variable {s : State} {p : Place}

theorem hubRead_of_unusable (h : s.vaultUsable p.tile p.vault = false) : hubRead s p = ((BitVec.allOnes 512, true), s) := by
  simp only [hubRead, h, Bool.not_false, if_true]

theorem lineValue_of_unusable (h : s.vaultUsable p.tile p.vault = false) : s.lineValue p = (BitVec.allOnes 512, true) := by
  simp only [State.lineValue, h, Bool.not_false, if_true]

theorem hubRead_of_invalid (h : s.vaultUsable p.tile p.vault = true) (hg : s.granuleValid p.tile (s.granuleOf p) = false) :
    hubRead s p = ((0, false), s) := by
  simp only [hubRead, h, hg, Bool.not_true, Bool.not_false, Bool.false_eq_true, if_true, if_false]

theorem lineValue_of_invalid (h : s.vaultUsable p.tile p.vault = true) (hg : s.granuleValid p.tile (s.granuleOf p) = false) :
    s.lineValue p = (0, false) := by
  simp only [State.lineValue, h, hg, Bool.not_true, Bool.not_false, Bool.false_eq_true, if_true, if_false]
end

/-- A vault that is lost, or whose tile is, is not usable. -/
theorem vaultUsable_of_lost {s : State} {t v : Nat} (h : (s.vault t v).lost = true ∨ (s.tile t).lost = true) :
    s.vaultUsable t v = false := by
  rcases h with hv | ht
  · simp only [State.vaultUsable, hv, Bool.not_true, Bool.and_false]
  · simp only [State.vaultUsable, State.tileUsable, ht, Bool.not_true, Bool.and_false, Bool.false_and]

/-- Settles O51: the request leaves its queue, which is all that changes, and a read of the hub returns the state it was
given, be it with zeros or with poison. -/
theorem invalidGranulesReadZero : Obligations.InvalidGranulesReadZero := by
  unfold Obligations.InvalidGranulesReadZero
  refine fun t v k s e p => ⟨fun hs hr ht hv hg => ?vault, fun hg hu => ?hub, fun hl => ?lost⟩
  case vault =>
    obtain ⟨htaken, hothers, hrest⟩ := updVault_becomes s t v fun x => x.take k
    refine ⟨s.updVault t v fun x => x.take k, ?_, State.updVault_mem .., State.updVault_dev .., hrest, hothers, ?_⟩
    · rw [exec_vaultServe_noAccess hs (noAccess_of_read_invalid hr ht hv hg), Rq.answer_of_read hr]
    · rw [htaken]
      exact Vault.take_frame _ k
  case hub => exact ⟨hubRead_of_invalid hu hg, lineValue_of_invalid hu hg⟩
  case lost =>
    have hu := vaultUsable_of_lost hl
    rw [hubRead_of_unusable hu, lineValue_of_unusable hu]
    exact ⟨rfl, rfl, rfl⟩

end Sys2Proof.Machine

/-!
PROOFS. Expected sequence bytes (R303): a read of the slot at HEAD finds the line that the port holds, if it holds one
(R286, R307), and its verdict is then about that line whatever the host would have returned.
-/
namespace Sys2Proof.Machine

/-! ## The slot at HEAD in a line that the port holds -/

section
variable {s : State} {x : Nat} (slot : BitVec 512)

theorem slotLine_of_holds (h : (s.port x).holds (s.slotPhys x) = true) :
    s.slotLine x slot = memLine s.hostMem (hostKey x (s.slotPhys x)) := by
  simp only [State.slotLine, h, if_true]

theorem fetchSlot_of_holds (h : (s.port x).holds (s.slotPhys x) = true) : fetchSlot s x slot = s := by
  simp only [fetchSlot, h, if_true]

/-- The first read of a candidate slot whose held line v fails a check: the slot is kept as failing, with v's verdict (R307). -/
theorem exec_commandSlotConsume_of_holds_failing {v : Line} (hc : s.candidate x = true) (hf : (s.port x).failing = none)
    (h : (s.port x).holds (s.slotPhys x) = true) (hv : memLine s.hostMem (hostKey x (s.slotPhys x)) = v)
    (hbad : (((s.port x).slotFails v).1 || ((s.port x).slotFails v).2) = true) :
    exec (.commandSlotConsume x slot) s =
      .next (s.updPort x fun p => { p with failing := some ((s.port x).slotFails v) }) := by
  show execCommandSlotConsume x slot s = _
  simp only [execCommandSlotConsume, hc, hf, Option.isNone_none, Bool.and_self, if_true, readSlot, slotLine_of_holds slot h,
    hv, fetchSlot_of_holds slot h, hbad]
end

/-! ## A ring whose first slot is held -/

/-- HP0 with its command ring at host address 0, just enabled and one slot rung, the line of that slot being held as Shared.
A slot that failed its CRC leaves such a line behind when its ring is disabled and enabled again. -/
def heldSlotPort : Port :=
  { Port.reset with
    up := true, bme := true, rate := 6, width := 16, cxlCache := true
    cmd := { Ring.reset with en := true, tail := 1 }
    cache := [(0, false)] }

/-- The device in READY behind that port; the held line is zero but for SEQ, which is the 0x01 expected. -/
def heldSlotState : State :=
  { State.reset with
    dev := { State.reset.dev with state := .ready, inReset := false, arrivals := [.slot 0] }
    ports := [(0, heldSlotPort)]
    hostMem := [(1, 1)] }

/-- SEQ at 0x01 and nothing else. -/
def seqOnlyLine : Line := 0x100

theorem heldSlotState_awake : heldSlotState.awake = true := by decide
theorem heldSlotState_candidate : heldSlotState.candidate 0 = true := by decide
theorem heldSlotState_holds : (heldSlotState.port 0).holds (heldSlotState.slotPhys 0) = true := by decide
theorem heldSlotState_line : memLine heldSlotState.hostMem (hostKey 0 (heldSlotState.slotPhys 0)) = seqOnlyLine := by
  decide +kernel

/-- The held line has the SEQ expected and a wrong CRC. -/
theorem heldSlotState_slotFails : (heldSlotState.port 0).slotFails seqOnlyLine = (false, true) := by decide +kernel

/-- Refutes O49: the operand of COMMAND_SLOT_CONSUME is what the host returns, and a port that holds the slot's line does not
ask the host (R286). With zeros for the operand, the slot of `heldSlotState` fails its CRC and passes SEQ. -/
theorem not_expectedSequenceBytes : ¬ Obligations.ExpectedSequenceBytes := by
  unfold Obligations.ExpectedSequenceBytes
  intro h
  obtain ⟨-, -, hzero, -⟩ := h 0 0 0 heldSlotState (by decide) heldSlotState_awake
  obtain ⟨t, ht, hfail, -⟩ := hzero heldSlotState_candidate rfl (by decide)
  have hread := exec_commandSlotConsume_of_holds_failing 0 heldSlotState_candidate rfl heldSlotState_holds heldSlotState_line
    (by rw [heldSlotState_slotFails]; rfl)
  rw [hread, heldSlotState_slotFails] at ht
  cases ht
  rw [State.updPort_port] at hfail
  cases hfail

end Sys2Proof.Machine
